-- ==== Sys2Proof/Word.lean ====
section
/-! DEFINITION. The word type of the part: every frame and every answer of the NB3240 is a sequence of bytes. -/

namespace Sys2Proof

/-- One byte of a port frame, an answer or a drop-line frame. -/
abbrev Byte := BitVec 8

end Sys2Proof
end

