-- ==== Sys2Proof/Syntax.lean ====
section
/-! DEFINITION. The commands and events of the part: one constructor for each row of spec/opcode_table.json.

A port command (ENROL_LOAD and so on) carries no operand of its own: its operands are the parameter bytes of the
command in execution, which COMMAND_FRAME brought in and which the state holds (R159, R160). -/

namespace Sys2Proof

/-- The rows of spec/opcode_table.json. -/
inductive Instr where
  /-- COMMAND_FRAME (R158, R159): a transaction in which the given bits were sampled on MOSI, CSN having risen. -/
  | commandFrame (mosi : List Bool)
  /-- UNKNOWN_COMMAND (R159): the frame in execution is malformed, or its code names no command. -/
  | unknownCommand
  /-- FETCH (R161): a FETCH transaction of the given number of SCLK cycles, taken at its first byte (log entry 11). -/
  | fetch (clocks : Nat)
  /-- HARDWARE_RESET (R171): a low level on RESETN, or power-on. -/
  | hardwareReset
  | identify
  | readAttention
  | setAttentionMask
  | resetControl
  | setPlant
  | enrolLoad
  | tuneLoad
  | linkLoad
  | planLoad
  | readLoad
  | findLoad
  | retireLoad
  | listChanged
  | startLoad
  | stopLoad
  | cancelStop
  | clearFault
  | cancelStart
  | readQueue
  | placeHold
  | releaseHold
  | releaseButtonHold
  | readHolds
  | defineGroup
  | removeGroup
  | readGroup
  | setClock
  | readClock
  | setDayMap
  | overrideToday
  | setWindow
  | readAuthority
  | setWakePlan
  | readWakePlan
  | setLine
  | readLine
  /-- TIME_BASE_SECOND (R88): one second of the crystal. -/
  | timeBaseSecond
  /-- PLANT_CLOCK_MINUTE (R89): the plant clock's seconds have reached 60, within the day. -/
  | plantClockMinute
  /-- MIDNIGHT (R89): the plant clock's seconds have reached 60 in the last minute of the day. -/
  | midnight
  /-- ACTIVITY_PERIOD_END (R26). -/
  | activityPeriodEnd
  /-- MINIMUM_RUN_REACHED (R57): of the named load. -/
  | minimumRunReached (load : Nat)
  /-- PORT_HOLD_EXPIRY (R80): of the hold with this number. -/
  | portHoldExpiry (hold : Nat)
  /-- BUTTON_HOLD_EXPIRY (R80): of the button hold of the named load. -/
  | buttonHoldExpiry (load : Nat)
  /-- HOLD_MINUTE (R80). -/
  | holdMinute
  /-- STOP_VERIFY_TIMER_EXPIRY (R61): of the named load. -/
  | stopVerifyTimerExpiry (load : Nat)
  /-- START_VERIFY_TIMER_EXPIRY (R61): of the named load. -/
  | startVerifyTimerExpiry (load : Nat)
  /-- REST_END (R129): of the named load. -/
  | restEnd (load : Nat)
  /-- SETTLE_END (R125): of the named feeder. -/
  | settleEnd (feeder : Fin 8)
  /-- WAKE_SLOT (R140): the next slot of the named plan. -/
  | wakeSlot (plan : Nat)
  /-- GUARD_END (R138): of the named plan. -/
  | guardEnd (plan : Nat)
  /-- EXCHANGE_START (R152): on the named line. -/
  | exchangeStart (line : Fin 4)
  /-- REPLY_WINDOW_EXPIRY (R149): on the named line. -/
  | replyWindowExpiry (line : Fin 4)
  /-- REPLY_END (R147, R150): on the named line. Each item holds the 11 levels sampled on RXD after one falling edge, bit 0
the first, a 1 for mark: the start bit, the eight data bits, the mark bit, the stop bit. -/
  | replyEnd (line : Fin 4) (samples : List (BitVec 11))
  deriving DecidableEq, Repr

end Sys2Proof
end

