-- ==== Sys2Proof/Decode.lean ====
section
/-! DEFINITION. The commands that a word spells by the table's bits. spec/opcode_table.json gives bits to none of its 57 rows, so no
word spells a command. (The frames of the command port are bytes that COMMAND_FRAME carries; Machine/Port.lean reads them.) -/

namespace Sys2Proof

/-- The command a word of `nbits` bits spells by the table's bits: none, for the table has no row with bits. -/
def decodeTableWord (_nbits _w : Nat) : Option Instr := none

end Sys2Proof
end

