-- ==== Sys2Proof/Config.lean ====
section
/-! DEFINITION. What the part fixes (table sizes and codes of the data sheet) and the values the data sheet leaves open. -/

namespace Sys2Proof.Config

/-- R1: the load table has 240 slots, numbered 0 to 239. -/
def loadSlots : Nat := 240

/-- R73: the hold table has 96 entries, numbered 0 to 95. -/
def holdEntries : Nat := 96

/-- R73: each load carries at most three port holds. -/
def holdsPerLoad : Nat := 3

/-- R102: the supply group table has 16 entries, numbered 0 to 15. -/
def groupEntries : Nat := 16

/-- R105: a group has at most six providers. -/
def providersPerGroup : Nat := 6

/-- R106: no chain of the dependency graph has more than four groups. -/
def chainGroups : Nat := 4

/-- R122: the start queue holds up to 32 entries. -/
def queueEntries : Nat := 32

/-- R134: the part has four wake plans, numbered 0 to 3. -/
def wakePlans : Nat := 4

/-- R19: LIST CHANGED takes at most twelve marked slots. -/
def listedSlots : Nat := 12

/-- R153: an urgent list holds at most 8 addresses. -/
def urgentEntries : Nat := 8

/-- R159: the parameter length of a command frame is 0 to 38. -/
def maxParameters : Nat := 38

/-- R68: the tenth valid report without the released flag ends a retirement. -/
def retirementExchanges : Nat := 10

/-- R88: the greatest value of the time base, 4,294,967,295 seconds. -/
def timeBaseTop : Nat := 4294967295

/-- R164: the vendor code of IDENTIFY. -/
def vendorCode : Nat := 19

/-- R164: the part code of IDENTIFY. -/
def partCode : Nat := 3240

/-- R164: the revision of the part the data sheet describes. -/
def revision : Nat := 1

/-- FREE VALUE (DESIGN CHOICE, log entry 1): what the time base reads after the second at which it stood at its
greatest value. R88 gives the range and no rule for the second after it. The argument is the choice counter. -/
opaque timeBaseAfterTop : Nat → BitVec 32

/-- FREE VALUE (DESIGN CHOICE, log entry 2): which of several hand-offs waiting at one moment is taken next. The
data sheet says of such events that either may be taken first (R57, R98, R99, R110, R123, R128). The arguments are
the choice counter and how many hand-offs wait; the number answered is reduced modulo how many wait. -/
opaque pick : Nat → Nat → Nat

/-- FREE VALUE (DESIGN CHOICE, log entry 5): the bytes of READ LOAD that follow an absent link's group byte or an absent
membership's plan byte. R173 names the absent value of the first byte and no value for the others. The arguments are
the choice counter and the offset of the byte in the answer. -/
opaque absentByte : Nat → Nat → BitVec 8

/-- FREE VALUE (DESIGN CHOICE, log entry 23): whether a transaction of the port that comes after a READ ATTENTION or a RESET
CONTROL has been taken comes before that command's answer is written, and so finds the port EXECUTING (R161, R162, R167). The
argument is the choice counter. -/
opaque beforeAnswer : Nat → Bool

end Sys2Proof.Config
end

