-- ==== Sys2Proof/Machine/Bytes.lean ====
section
/-! DEFINITION. Byte order, bit order and check values: how numbers, port bytes and drop-line characters are written as bits. -/

namespace Sys2Proof.Machine

/-- One byte that holds a number (the part's one-byte fields are within 0 to 255). -/
def byte (n : Nat) : Byte := BitVec.ofNat 8 n

/-- A two-byte value, most significant byte first (R159, R172). -/
def be16 (n : Nat) : List Byte := [byte (n / 256), byte n]

/-- A three-byte value, most significant byte first. -/
def be24 (n : Nat) : List Byte := [byte (n / 65536), byte (n / 256), byte n]

/-- A four-byte value, most significant byte first. -/
def be32 (n : Nat) : List Byte :=
  [byte (n / 16777216), byte (n / 65536), byte (n / 256), byte n]

/-- The value of two parameter bytes, most significant byte first (R159). -/
def word16 (hi lo : Byte) : Nat := hi.toNat * 256 + lo.toNat

/-- A byte that is 1 for a true answer and 0 for a false one. -/
def flagByte (b : Bool) : Byte := if b then 1 else 0

/-- The eight bits of a byte in the order of the command port, most significant first (R158). -/
def portBits (b : Byte) : List Bool :=
  [b.getLsbD 7, b.getLsbD 6, b.getLsbD 5, b.getLsbD 4, b.getLsbD 3, b.getLsbD 2, b.getLsbD 1, b.getLsbD 0]

/-- The byte of eight bits, most significant first. -/
def byteOfBits (b7 b6 b5 b4 b3 b2 b1 b0 : Bool) : Byte :=
  byte (b7.toNat * 128 + b6.toNat * 64 + b5.toNat * 32 + b4.toNat * 16 + b3.toNat * 8 + b2.toNat * 4
    + b1.toNat * 2 + b0.toNat)

/-- The whole bytes of a transaction (R158): the bits of a byte left incomplete when CSN rises are discarded. -/
def wholeBytes : List Bool → List Byte
  | b7 :: b6 :: b5 :: b4 :: b3 :: b2 :: b1 :: b0 :: rest => byteOfBits b7 b6 b5 b4 b3 b2 b1 b0 :: wholeBytes rest
  | _ => []

/-- The eight data bits of a drop-line character in the order sent, least significant first (R147). -/
def lineBits (b : Byte) : List Bool :=
  [b.getLsbD 0, b.getLsbD 1, b.getLsbD 2, b.getLsbD 3, b.getLsbD 4, b.getLsbD 5, b.getLsbD 6, b.getLsbD 7]

/-- The 11 bits of a character the part sends (R147), `true` for mark: a start bit at space, the data bits, the mark
bit, a stop bit at mark. -/
def charBits (markBit : Bool) (b : Byte) : List Bool := false :: lineBits b ++ [markBit, true]

/-- A character received on a drop line (R147): its eight data bits, and the levels of its mark bit and its stop bit,
`true` for mark and `false` for space. -/
structure RxChar where
  data : Byte
  markBit : Bool
  stopBit : Bool
  deriving DecidableEq, Repr

/-- R147: the character of the 11 levels sampled after a falling edge, data bits least significant first; a start bit that is
back at mark when it is sampled is not taken as a character. -/
def receivedChar (sample : BitVec 11) : Option RxChar :=
  if sample.getLsbD 0 = true then none
  else
    some { data := sample.extractLsb' 1 8, markBit := sample.getLsbD 9, stopBit := sample.getLsbD 10 }

/-- R147: the characters received, in the order of their start bits. An edge whose start bit is back at mark leaves none, and neither
begins nor prolongs a reply (DESIGN CHOICE, log entry 29). -/
def receivedChars (samples : List (BitVec 11)) : List RxChar := samples.filterMap receivedChar

/-- R147: a received character is well formed when its stop bit is at mark and its mark bit at space. -/
def rxWellFormed (c : RxChar) : Bool := c.stopBit && !c.markBit

/-- One shift of the CRC register (R175): if the bit shifted out was 1, combine with 0x07. -/
def crcShift (r : Byte) : Byte := if r.getLsbD 7 then (r <<< 1) ^^^ 7 else r <<< 1

/-- One byte of the CRC-8 (R175): combine, then shift eight times. -/
def crcByte (r b : Byte) : Byte :=
  crcShift (crcShift (crcShift (crcShift (crcShift (crcShift (crcShift (crcShift (r ^^^ b))))))))

/-- The CRC-8 of R175, started from 0x00 and not inverted. -/
def crc8 (bytes : List Byte) : Byte := bytes.foldl crcByte 0

end Sys2Proof.Machine
end

