-- ==== Sys2Proof/Machine/Table.lean ====
section
/-! DEFINITION. Tables keyed by a number, and sets of numbers, as plain data in one canonical form: keys strictly rising. -/

namespace Sys2Proof.Machine

/-- A table of numbered entries; a number that is not listed names an entry that is free, VACANT or undefined. -/
abbrev Table (α : Type) := List (Nat × α)

/-- The entry with number `n`. -/
def Table.find {α : Type} (t : Table α) (n : Nat) : Option α :=
  match t with
  | [] => none
  | (k, a) :: rest => if k = n then some a else Table.find rest n

/-- The table with entry `n` written, at its place in rising order. -/
def Table.put {α : Type} (t : Table α) (n : Nat) (a : α) : Table α :=
  match t with
  | [] => [(n, a)]
  | (k, b) :: rest =>
    if n < k then (n, a) :: (k, b) :: rest
    else if n = k then (n, a) :: rest
    else (k, b) :: Table.put rest n a

/-- The table without entry `n`. -/
def Table.drop {α : Type} (t : Table α) (n : Nat) : Table α := t.filter (fun e => e.1 != n)

/-- The table with every entry rewritten in place. -/
def Table.mapEach {α : Type} (f : Nat → α → α) (t : Table α) : Table α := t.map (fun e => (e.1, f e.1 e.2))

/-- The canonical form: numbers strictly rising and each below `bound`. -/
abbrev Table.Canonical {α : Type} (bound : Nat) (t : Table α) : Prop :=
  (t.map Prod.fst).Pairwise (· < ·) ∧ ∀ e ∈ t, e.1 < bound

/-- A set of numbers, as a rising list. -/
abbrev NatSet := List Nat

/-- The set with `n` in it. -/
def NatSet.add (l : NatSet) (n : Nat) : NatSet :=
  match l with
  | [] => [n]
  | k :: rest => if n < k then n :: k :: rest else if n = k then k :: rest else k :: NatSet.add rest n

/-- The set without `n`. -/
def NatSet.remove (l : NatSet) (n : Nat) : NatSet := l.filter (fun k => k != n)

end Sys2Proof.Machine
end

