-- ==== Sys2Proof/Machine/State.lean ====
section
/-! DEFINITION. The state of the part: every piece of state the data sheet names, as plain data, and its value after a hardware reset. -/

namespace Sys2Proof.Machine

/-- The part has no fault: no rule of the data sheet stops it, so this type has no constructor. -/
inductive Fault where
  deriving DecidableEq, Repr

/-- The reasons a command has no outcome. -/
inductive Refusal where
  /-- Raised by `exec` alone, for a row of the table whose meaning is not written. Safe: nothing is claimed of it. -/
  | notModelled (mnemonic : String)
  deriving DecidableEq, Repr

/-! ### The plant clock and the windows -/

/-- R93: the three day types. -/
inductive DayType where
  | work | short | rest
  deriving DecidableEq, Repr

/-- R89: a set plant clock. `second` stands at 60 between the second that ends a minute and the new minute. -/
structure PlantClock where
  day : Fin 7
  minute : Nat
  second : Nat
  deriving DecidableEq, Repr

/-- A plant time as outcomes and holds are stamped with it (R8, R73). -/
structure Stamp where
  day : Fin 7
  minute : Nat
  deriving DecidableEq, Repr

/-- R95: a shed window; one of authority 0 is empty. -/
structure Window where
  start : Nat
  stop : Nat
  authority : Nat
  deriving DecidableEq, Repr

/-! ### Load records -/

/-- R45: the eleven record states. -/
inductive LoadState where
  | unknown | run | idle | due | stopping | stopped | queued | starting | inLocal | fault | retiring
  deriving DecidableEq, Repr

/-- R46: the commanded states. -/
inductive Commanded where
  | run | stop | release
  deriving DecidableEq, Repr

/-- R56: the block reasons, in the order of the conditions. -/
inductive BlockReason where
  | none | authority | hold | minRun | supply | pacing
  deriving DecidableEq, Repr

/-- R49: the run states a drop reports. -/
inductive RunState where
  | stopped | running | accelerating | coasting
  deriving DecidableEq, Repr

/-- R8: the operation of an outcome. -/
inductive Operation where
  | stop | start | retire
  deriving DecidableEq, Repr

/-- R8: the result of an outcome. -/
inductive OpResult where
  | completed | declined | timedOut | overtaken | cancelled | lost | aborted | missed
  deriving DecidableEq, Repr

/-- R8: an outcome; `time` is absent for "clock unset". -/
structure Outcome where
  operation : Operation
  result : OpResult
  time : Option Stamp
  deriving DecidableEq, Repr

/-- R3: the tuning of a record. -/
structure Tuning where
  idleEnter : Nat
  idleLeave : Nat
  smoothing : Nat
  strokeWeight : Nat
  currentFloor : Nat
  idleDelay : Nat
  minimumRun : Nat
  minimumOff : Nat
  stopVerify : Nat
  startVerify : Nat
  buttonTime : Nat
  deriving DecidableEq, Repr

/-- R4: a present provides link. -/
structure Provides where
  group : Nat
  rank : Nat
  capacity : Nat
  deriving DecidableEq, Repr

/-- R4: a present draws link. -/
structure Draws where
  group : Nat
  demand : Nat
  deriving DecidableEq, Repr

/-- R5: a present wake membership. -/
structure Membership where
  plan : Nat
  ordinal : Nat
  deriving DecidableEq, Repr

/-- R6, R27: what the current activity period has gathered so far. -/
structure PeriodFigures where
  strokeSum : Nat
  largest : Option Nat
  seen : Bool
  deriving DecidableEq, Repr

/-- R2 to R7: a load record. `verifyEnd` is the time-base second at which a running stop or start verify timer
expires (R58, R63, R88). -/
structure LoadRecord where
  line : Fin 4
  address : Nat
  feeder : Fin 8
  weight : Nat
  tuning : Tuning
  provides : Option Provides
  drawsA : Option Draws
  drawsB : Option Draws
  membership : Option Membership
  state : LoadState
  commanded : Commanded
  startCount : BitVec 2
  buttonTaken : BitVec 2
  runSince : Nat
  offSince : Nat
  blockReason : BlockReason
  portStop : Option Nat
  lastRun : Option RunState
  retireExchanges : Nat
  level : Nat
  idleClock : Nat
  baseline : Option Byte
  figures : PeriodFigures
  missCount : Nat
  lastOutcome : Option Outcome
  buttonHold : Option Nat
  isolatorHold : Bool
  verifyEnd : Option Nat
  deriving DecidableEq, Repr

/-! ### Holds, groups, queue, feeders, plans -/

/-- R73: the sense of a port hold; a KEEP-RUN hold has a level, a KEEP-OFF hold has none. -/
inductive HoldSense where
  | keepRun (level : Nat)
  | keepOff
  deriving DecidableEq, Repr

/-- R73: a port hold in use; `remaining` absent means until released. -/
structure PortHold where
  load : Nat
  sense : HoldSense
  remaining : Option Nat
  placedAt : Option Stamp
  deriving DecidableEq, Repr

/-- R114: the state of a group; the raised provider is present exactly while the group is RAISING. -/
inductive GroupState where
  | normal
  | raising (provider : Nat)
  | short
  deriving DecidableEq, Repr

/-- R102: a defined group's kept state. -/
structure Group where
  margin : Nat
  state : GroupState
  failed : NatSet
  deriving DecidableEq, Repr

/-- R122: the class of an entry. -/
inductive StartClass where
  | supply | call | wake
  deriving DecidableEq, Repr

/-- R122: the wait reason of an entry. -/
inductive WaitReason where
  | none | rest | feeder | budget | supply
  deriving DecidableEq, Repr

/-- R122: a start queue entry. -/
structure Entry where
  load : Nat
  cls : StartClass
  sequence : BitVec 32
  reason : WaitReason
  queuedAt : Nat
  deriving DecidableEq, Repr

/-- R125: a feeder. -/
inductive Feeder where
  | free
  | starting (load : Nat)
  | settling (ends : Nat)
  deriving DecidableEq, Repr

/-- R134: the running states of a plan that is set. -/
inductive PlanState where
  | waiting | active | done
  deriving DecidableEq, Repr

/-- R134: a wake plan that is not NOT SET. -/
structure WakePlan where
  mask : BitVec 3
  start : Nat
  spacing : Nat
  bits : Nat
  guard : Nat
  state : PlanState
  activationDay : Option (Fin 7)
  activationSecond : Option Nat
  cursor : Nat
  guardEnd : Option Nat
  deriving DecidableEq, Repr

/-! ### Drop lines -/

/-- R148, R175: the order a poll carries. -/
structure Order where
  commanded : Commanded
  startCount : BitVec 2
  buttonTaken : BitVec 2
  lamp : Bool
  deriving DecidableEq, Repr

/-- R149, R151, R154, R176: an exchange in flight: the address polled, the load whose record was polled (absent once
that record has been removed), the order sent, and the settings the exchange began with. -/
structure Exchange where
  address : Nat
  load : Option Nat
  order : Order
  divisor : Nat
  replyWindow : Nat
  deriving DecidableEq, Repr

/-- The state of a line controller (chapter 9). The poll ring is derived from the records (R152). `txd` and `de` hold
the levels of TXD, `true` for mark, and of DE, `true` for asserted, over each bit of the latest poll and after its last
stop bit (R147, R149), or, where the line has been quieted since (R145, R157), the one level that it is held at. The last of the
list is the level as it stands. -/
structure Line where
  enabled : Bool
  divisor : Nat
  replyWindow : Nat
  lossCount : Nat
  cursor : Nat
  pass : Nat
  urgent : List Nat
  lost : NatSet
  silent : Nat
  framing : Nat
  check : Nat
  stray : Nat
  overflow : Bool
  exchange : Option Exchange
  txd : List Bool
  de : List Bool
  deriving DecidableEq, Repr

/-! ### The command port -/

/-- R163: the completion codes. -/
inductive Completion where
  | done | pending | unknownCommand | badLength | badValue | wrongState | full | noSuch | conflict
  deriving DecidableEq, Repr

/-- R160: an answer: its completion code and its data bytes. -/
structure Answer where
  code : Completion
  data : List Byte
  deriving DecidableEq, Repr

/-! ### The part -/

/-- The state of the part. `executing` is the command in execution, and the port is EXECUTING exactly while there is
one (R159, R160). `finishing` says that a READ ATTENTION or a RESET CONTROL has been taken and that its answer, which stands in
the buffer, may for a transaction that comes still be unwritten (R161, R162, R167, log entry 23). `miso` is what MISO has carried since
CSN last fell for a transaction with an effect: `some b` for each whole byte `b` driven, then `none`, high impedance, since CSN rose
(R158, log entry 11). The last of the list is MISO as it stands. `choices` and `pending` are the model's own fields: the counter
the free values are read at, and the commands that are waiting, first in, first out. -/
structure State where
  timeBase : Nat
  nextHoldMinute : Nat
  clock : Option PlantClock
  dayMap : Vector DayType 7
  todayOverride : Option DayType
  yesterday : DayType
  windows : Vector Window 18
  authority : Nat
  period : Nat
  periodEnd : Nat
  loads : Table LoadRecord
  marks : NatSet
  slotOutcomes : Table Outcome
  listCursor : Nat
  holds : Table PortHold
  groups : Table Group
  queue : List Entry
  arrivals : BitVec 32
  feeders : Vector Feeder 8
  inrushLimit : Nat
  settleTime : Nat
  plans : Table WakePlan
  lines : Vector Line 4
  executing : Option (List Byte)
  answer : Option Answer
  finishing : Bool
  overrun : Bool
  mask : BitVec 6
  miso : List (Option Byte)
  choices : Nat
  pending : List Instr
  deriving DecidableEq, Repr

/-- R157: a line controller after a hardware reset, with TXD at mark and DE released. -/
def Line.reset : Line :=
  { enabled := false, divisor := 48, replyWindow := 8, lossCount := 3, cursor := 1, pass := 0, urgent := [], lost := [],
    silent := 0, framing := 0, check := 0, stray := 0, overflow := false, exchange := none, txd := [true],
    de := [false] }

/-- R95: an empty window. -/
def Window.empty : Window := { start := 0, stop := 0, authority := 0 }

/-- The part after a hardware reset (R23, R44, R87, R101, R120, R133, R143, R157, R171). No transaction runs, and MISO
is taken to be at high impedance, which R158 says only while CSN is high (DEDUCED, log entry 11). -/
def State.reset : State :=
  { timeBase := 0
    nextHoldMinute := 60
    clock := none
    dayMap := Vector.replicate 7 .work
    todayOverride := none
    yesterday := .work
    windows := Vector.replicate 18 Window.empty
    authority := 0
    period := 10
    periodEnd := 10
    loads := []
    marks := []
    slotOutcomes := []
    listCursor := 239
    holds := []
    groups := []
    queue := []
    arrivals := 0
    feeders := Vector.replicate 8 .free
    inrushLimit := 8
    settleTime := 5
    plans := []
    lines := Vector.replicate 4 Line.reset
    executing := none
    answer := none
    finishing := false
    overrun := false
    mask := 63
    miso := [none]
    choices := 0
    pending := [] }

end Sys2Proof.Machine
end

