-- ==== Sys2Proof/Machine/Ops.lean ====
section
/-! DEFINITION. The shared operations over the state: records, marks, outcomes, holds, the queue, the feeders, the urgent
lists, and ONE operation for every change of a record's state (`State.moveTo`). -/

namespace Sys2Proof.Machine

/-! ### Records -/

/-- The live record of slot `n`; none for a VACANT slot (R1). -/
def State.load (s : State) (n : Nat) : Option LoadRecord := Table.find s.loads n

/-- The state of the record of slot `n`. -/
def State.stateOf (s : State) (n : Nat) : Option LoadState := (s.load n).map (·.state)

/-- Write the record of slot `n`. -/
def State.setLoad (s : State) (n : Nat) (r : LoadRecord) : State := { s with loads := Table.put s.loads n r }

/-- Rewrite the record of slot `n`, if it is live. -/
def State.modifyLoad (s : State) (n : Nat) (f : LoadRecord → LoadRecord) : State :=
  match s.load n with
  | none => s
  | some r => s.setLoad n (f r)

/-- R18: set the changed mark of slot `n`. -/
def State.mark (s : State) (n : Nat) : State := { s with marks := NatSet.add s.marks n }

/-- R8: the plant time an outcome or a hold is stamped with; none while the clock is UNSET. -/
def State.stamp (s : State) : Option Stamp := s.clock.map (fun c => { day := c.day, minute := c.minute })

/-- R17: the live record that names this line and drop address. -/
def State.findDrop (s : State) (line : Fin 4) (address : Nat) : Option (Nat × LoadRecord) :=
  s.loads.find? (fun e => e.2.line == line && e.2.address == address)

/-- R152: the poll ring of a line, ascending. -/
def State.ring (s : State) (line : Fin 4) : NatSet :=
  (s.loads.filter (fun e => e.2.line == line)).foldl (fun l e => NatSet.add l e.2.address) []

/-- R8, R48: write an outcome to a live record, stamped with the plant time, and set the slot's mark. -/
def State.writeOutcome (s : State) (n : Nat) (o : Operation) (x : OpResult) : State :=
  match s.load n with
  | none => s
  | some r => (s.setLoad n { r with lastOutcome := some { operation := o, result := x, time := s.stamp } }).mark n

/-! ### Lines -/

/-- The controller of a line. -/
def State.lineAt (s : State) (l : Fin 4) : Line := s.lines[l]

/-- Write the controller of a line. -/
def State.setLine (s : State) (l : Fin 4) (x : Line) : State := { s with lines := s.lines.set l x }

/-- R153: offer an address to the urgent list of a line. -/
def Line.offer (x : Line) (address : Nat) : Line :=
  if x.enabled && !x.urgent.contains address && x.urgent.length < Config.urgentEntries then
    { x with urgent := x.urgent ++ [address] }
  else x

/-- R46: hand a drop address to its line's urgent list. -/
def State.offerUrgent (s : State) (l : Fin 4) (address : Nat) : State :=
  s.setLine l ((s.lineAt l).offer address)

/-! ### Holds -/

/-- The port holds that name load `n`, in ascending hold number. -/
def State.holdsOn (s : State) (n : Nat) : List (Nat × PortHold) := s.holds.filter (fun e => e.2.load == n)

/-- The level of a KEEP-RUN port hold. -/
def PortHold.keepRunLevel (h : PortHold) : Option Nat :=
  match h.sense with
  | .keepRun l => some l
  | .keepOff => none

/-- R81: the levels of every KEEP-RUN hold on load `n`, its port holds and its button hold (level 1, R77). -/
def State.keepRunLevels (s : State) (n : Nat) : List Nat :=
  (s.holdsOn n).filterMap (fun e => e.2.keepRunLevel)
    ++ (match s.load n with
        | some r => if r.buttonHold.isSome then [1] else []
        | none => [])

/-- R82: the hold lamp is lit while at least one KEEP-RUN hold is present. -/
def State.holdLamp (s : State) (n : Nat) : Bool := !(s.keepRunLevels n).isEmpty

/-- R83: load `n` carries a KEEP-OFF hold, port or isolator. -/
def State.keepOff (s : State) (n : Nat) : Bool :=
  (s.holdsOn n).any (fun e => e.2.sense == .keepOff)
    || (match s.load n with
        | some r => r.isolatorHold
        | none => false)

/-! ### The queue and the feeders -/

/-- Load `n` has an entry in the start queue. -/
def State.hasEntry (s : State) (n : Nat) : Bool := s.queue.any (fun e => e.load == n)

/-- R124: remove the entry of load `n`; no other entry moves. -/
def State.dropEntry (s : State) (n : Nat) : State := { s with queue := s.queue.filter (fun e => e.load != n) }

/-- R122: SUPPLY stands before CALL, and CALL before WAKE. -/
def StartClass.order : StartClass → Nat
  | .supply => 0
  | .call => 1
  | .wake => 2

/-- R123: place an entry after the last entry of its own class, or after the last of any class before it. -/
def placeEntry (e : Entry) : List Entry → List Entry
  | [] => [e]
  | x :: rest => if x.cls.order ≤ e.cls.order then x :: placeEntry e rest else e :: x :: rest

/-- R125: the feeder after the end of a start on it: SETTLING for the settle time now in force, or FREE if that is 0. -/
def State.settleFeeder (s : State) (f : Fin 8) : State :=
  { s with feeders := s.feeders.set f (if s.settleTime = 0 then .free else .settling (s.timeBase + s.settleTime)) }

/-- R125: a grant makes the feeder STARTING with the load. -/
def State.occupyFeeder (s : State) (f : Fin 8) (n : Nat) : State := { s with feeders := s.feeders.set f (.starting n) }

/-- R125: the sum of the inrush weights of the loads in STARTING; it is derived, not kept. -/
def State.startingSum (s : State) : Nat :=
  ((s.loads.filter (fun e => e.2.state == .starting)).map (fun e => e.2.weight)).sum

/-- How many loads are in STARTING. -/
def State.startingCount (s : State) : Nat := (s.loads.filter (fun e => e.2.state == .starting)).length

/-! ### Groups -/

/-- The defined group `g`. -/
def State.group (s : State) (g : Nat) : Option Group := Table.find s.groups g

/-- Rewrite group `g`, if it is defined. -/
def State.modifyGroup (s : State) (g : Nat) (f : Group → Group) : State :=
  match s.group g with
  | none => s
  | some x => { s with groups := Table.put s.groups g (f x) }

/-- What load `n`'s entry to state `new` does to a group (R116): a raise outstanding for `n` ends when `n` leaves QUEUED and
STARTING, with `n` joining the failed-raise set unless it entered RUN. A group whose raise has ended stands NORMAL until it
tests again. -/
def Group.follow (x : Group) (n : Nat) (new : LoadState) : Group :=
  if x.state = .raising n ∧ new ≠ .queued ∧ new ≠ .starting then
    { x with state := .normal, failed := if new = .run then x.failed else NatSet.add x.failed n }
  else x

/-- R116: every group follows load `n`'s entry to state `new`. -/
def State.groupsFollow (s : State) (n : Nat) (new : LoadState) : State :=
  { s with groups := Table.mapEach (fun _ x => x.follow n new) s.groups }

/-- R117: take load `n` out of the failed-raise set of every group. -/
def State.forgetFailed (s : State) (n : Nat) : State :=
  { s with groups := Table.mapEach (fun _ x => { x with failed := NatSet.remove x.failed n }) s.groups }

/-! ### The change of a record's state -/

/-- The commanded state on entry to `new` from `old` (section 3.1; R50 to R52, R55, R58 to R64, R21). -/
def commandedOn (old new : LoadState) (c : Commanded) : Commanded :=
  match new with
  | .run | .idle | .due | .starting => .run
  | .stopping => .stop
  | .retiring => .release
  | .fault => if old = .starting then .stop else .run
  | .unknown | .stopped | .queued | .inLocal => c

/-- R47: an entry to RUN from one of these states writes run-since. -/
def writesRunSince (old : LoadState) : Bool :=
  match old with
  | .unknown | .stopped | .queued | .starting | .inLocal => true
  | .run | .idle | .due | .stopping | .fault | .retiring => false

/-- R47: an entry to STOPPED from one of these states writes off-since. -/
def writesOffSince (old : LoadState) : Bool :=
  match old with
  | .unknown | .run | .idle | .due | .stopping | .inLocal => true
  | .stopped | .queued | .starting | .fault | .retiring => false

/-- A record on entry to state `new` at time-base second `now`: the common effects of R45 with R40, R46, R47, R28 and
R65, the start count of R63, and the verify timer, started on entry to STOPPING and STARTING and cancelled otherwise. -/
def LoadRecord.entering (r : LoadRecord) (new : LoadState) (now : Nat) : LoadRecord :=
  { r with
    state := new
    commanded := commandedOn r.state new r.commanded
    startCount := if new = .starting then r.startCount + 1 else r.startCount
    runSince := if new = .run ∧ writesRunSince r.state = true then now else r.runSince
    offSince := if new = .stopped ∧ writesOffSince r.state = true then now else r.offSince
    blockReason := .none
    portStop := if new = .due ∨ new = .stopping then r.portStop else none
    lastRun := if new = .unknown then none else r.lastRun
    retireExchanges := if new = .retiring then 0 else r.retireExchanges
    idleClock := if new = .idle ∨ new = .due then r.idleClock else 0
    baseline := if new = .unknown then none else r.baseline
    verifyEnd :=
      if new = .stopping then some (now + r.tuning.stopVerify)
      else if new = .starting then some (now + r.tuning.startVerify)
      else none }

/-- R46: the part's orders to the drop, the commanded state and the start count, differ. -/
def ordersDiffer (a b : LoadRecord) : Bool := a.commanded != b.commanded || a.startCount != b.startCount

/-- The outcome an operation's end writes, stamped with the plant time (R48). -/
def State.outcomeOf (s : State) (o : Operation × OpResult) : Outcome :=
  { operation := o.1, result := o.2, time := s.stamp }

/-- The record that `moveTo` writes: entered, with the outcome the change writes, if any. -/
def State.movedRecord (s : State) (r : LoadRecord) (new : LoadState) (out : Option (Operation × OpResult)) :
    LoadRecord :=
  match out with
  | none => r.entering new s.timeBase
  | some o => { r.entering new s.timeBase with lastOutcome := some (s.outcomeOf o) }

/-- EVERY change of a record's state (R45): the record enters `new`, the outcome is written in the same change (R48),
the mark is set, a record leaving QUEUED loses its entry (R124), a record leaving STARTING puts its feeder in SETTLING
and one entering it takes its feeder (R125), a changed order goes to the urgent list (R46), and the groups follow (R116). -/
def State.moveTo (s : State) (n : Nat) (new : LoadState) (out : Option (Operation × OpResult)) : State :=
  match s.load n with
  | none => s
  | some r =>
    let r' := s.movedRecord r new out
    let s1 := (s.setLoad n r').mark n
    let s2 := if r.state = .queued then s1.dropEntry n else s1
    let s3 := if r.state = .starting then s2.settleFeeder r.feeder else s2
    let s4 := if new = .starting then s3.occupyFeeder r.feeder n else s3
    let s5 := if ordersDiffer r r' then s4.offerUrgent r.line r.address else s4
    s5.groupsFollow n new

/-! ### Start requests -/

/-- R123: how the queue takes a start request. -/
inductive StartOffer where
  | entered | barred | full
  deriving DecidableEq, Repr

/-- R123: the queue's answer to a start request for load `n`. -/
def State.startOffer (s : State) (n : Nat) : StartOffer :=
  if s.stateOf n = some .stopped ∧ s.keepOff n = false then
    if s.queue.length < Config.queueEntries then .entered else .full
  else .barred

/-- R123: the entry made for load `n`. -/
def State.newEntry (s : State) (n : Nat) (c : StartClass) : Entry :=
  { load := n, cls := c, sequence := s.arrivals, reason := .none, queuedAt := s.timeBase }

/-- R123, step 3: make the entry, count it, and move the record to QUEUED. -/
def State.enqueue (s : State) (n : Nat) (c : StartClass) : State :=
  ({ s with queue := placeEntry (s.newEntry n c) s.queue, arrivals := s.arrivals + 1 } : State).moveTo n .queued none

/-- A request whose source writes START MISSED for a refusal (R123): a drop button for either refusal. -/
def State.offerButton (s : State) (n : Nat) : State :=
  match s.startOffer n with
  | .entered => s.enqueue n .call
  | .barred => s.writeOutcome n .start .missed
  | .full => s.writeOutcome n .start .missed

/-- R140: offer one member of a wake slot; a member that is not STOPPED or carries a KEEP-OFF hold is passed over. -/
def State.offerWake (s : State) (n : Nat) : State :=
  match s.startOffer n with
  | .entered => s.enqueue n .wake
  | .barred => s
  | .full => s.writeOutcome n .start .missed

/-! ### Removal of a record -/

/-- R22, R152, R154: the line controller after the removal of load `n` at `address`: the address leaves the urgent list
and the LOST set, and an exchange that polled the record belongs to no record any more. -/
def Line.forget (x : Line) (n address : Nat) : Line :=
  { x with
    urgent := x.urgent.filter (fun a => a != address)
    lost := NatSet.remove x.lost address
    exchange := x.exchange.map (fun e => if e.load = some n then { e with load := none } else e) }

/-- R22: remove the record of slot `n`; the outcome becomes the slot outcome and the mark is set. -/
def State.removeLoad (s : State) (n : Nat) (o : Operation × OpResult) : State :=
  match s.load n with
  | none => s
  | some r =>
    let s1 : State :=
      { s with loads := Table.drop s.loads n, slotOutcomes := Table.put s.slotOutcomes n (s.outcomeOf o) }
    (s1.setLine r.line ((s.lineAt r.line).forget n r.address)).mark n

end Sys2Proof.Machine
end

