-- ==== Sys2Proof/Machine/Groups.lean ====
section
/-! DEFINITION. Supply groups (chapter 6): providers and consumers, the supply arithmetic, lack of supply, and the cascade. -/

namespace Sys2Proof.Machine

/-- R107: a consumer of this record counts as drawing. -/
def LoadRecord.draws (r : LoadRecord) : Bool :=
  match r.state with
  | .run | .idle | .due | .stopping | .queued | .starting | .unknown => true
  | .inLocal | .fault => r.lastRun != some .stopped
  | .stopped | .retiring => false

/-- R108: a provider of this record counts as supplying. -/
def LoadRecord.supplies (r : LoadRecord) : Bool :=
  match r.state with
  | .run | .idle | .due => true
  | .inLocal | .fault => r.lastRun == some .running
  | .stopping | .stopped | .queued | .starting | .unknown | .retiring => false

/-- R105: the demand this record asks of group `g`, if a draws link names it. -/
def LoadRecord.demandOn (r : LoadRecord) (g : Nat) : Option Nat :=
  match r.drawsA.filter (fun d => d.group == g) with
  | some d => some d.demand
  | none => (r.drawsB.filter (fun d => d.group == g)).map (·.demand)

/-- The provides link of this record, if it names group `g`. -/
def LoadRecord.providesTo (r : LoadRecord) (g : Nat) : Option Provides := r.provides.filter (fun p => p.group == g)

/-- The groups this record draws. -/
def LoadRecord.drawnGroups (r : LoadRecord) : List Nat :=
  (r.drawsA.map (·.group)).toList ++ (r.drawsB.map (·.group)).toList

/-- One line of a provider list. -/
structure Provider where
  load : Nat
  rank : Nat
  capacity : Nat
  state : LoadState
  supplying : Bool
  deriving DecidableEq, Repr

/-- One member of a consumer set. -/
structure Consumer where
  load : Nat
  demand : Nat
  state : LoadState
  drawing : Bool
  deriving DecidableEq, Repr

/-- Place a provider in ascending rank. -/
def placeProvider (p : Provider) : List Provider → List Provider
  | [] => [p]
  | x :: rest => if p.rank < x.rank then p :: x :: rest else x :: placeProvider p rest

/-- The providers of group `g` in ascending load number. -/
def State.providersByLoad (s : State) (g : Nat) : List Provider :=
  s.loads.filterMap (fun e => (e.2.providesTo g).map (fun p =>
    { load := e.1, rank := p.rank, capacity := p.capacity, state := e.2.state, supplying := e.2.supplies }))

/-- R105: the provider list of group `g`, in ascending rank. -/
def State.providers (s : State) (g : Nat) : List Provider := (s.providersByLoad g).foldr placeProvider []

/-- R105: the consumer set of group `g`. -/
def State.consumers (s : State) (g : Nat) : List Consumer :=
  s.loads.filterMap (fun e => (e.2.demandOn g).map (fun d =>
    { load := e.1, demand := d, state := e.2.state, drawing := e.2.draws }))

/-- R107: the demand of group `g`. -/
def State.demand (s : State) (g : Nat) : Nat :=
  (((s.consumers g).filter (·.drawing)).map (·.demand)).sum

/-- R108: the capacity of group `g`. -/
def State.capacity (s : State) (g : Nat) : Nat :=
  (((s.providersByLoad g).filter (·.supplying)).map (·.capacity)).sum

/-- R109: a demand raised by a margin in percent and rounded up to a whole unit. -/
def raisedDemand (demand margin : Nat) : Nat := (demand * (100 + margin) + 99) / 100

/-- The margin of group `g`; an undefined group has none (R102), and no link names it (R13). -/
def State.margin (s : State) (g : Nat) : Nat :=
  match s.group g with
  | some x => x.margin
  | none => 0

/-- R109: the required capacity of group `g`. -/
def State.required (s : State) (g : Nat) : Nat := raisedDemand (s.demand g) (s.margin g)

/-- R109: the headroom of group `g`, negative in deficit. -/
def State.headroom (s : State) (g : Nat) : Int := (s.capacity g : Int) - (s.required g : Int)

/-- R113: group `g` can carry every consumer counted in its demand. -/
def State.carries (s : State) (g : Nat) : Bool := s.required g ≤ s.capacity g

/-- R114: group `g` lacks supply. -/
def State.lacks (s : State) (g : Nat) : Bool :=
  (s.consumers g).any (fun c => c.state == .queued) && !s.carries g

/-- R115: the provider the group chooses: of lowest rank, STOPPED, with no KEEP-OFF hold, not in the failed-raise set. -/
def State.chooseProvider (s : State) (g : Nat) (x : Group) : Option Nat :=
  ((s.providers g).find? (fun p => p.state == .stopped && !s.keepOff p.load && !x.failed.contains p.load)).map (·.load)

/-- R114 to R117: group `g` tests for lack of supply and acts on its state. A group with a raise outstanding waits. -/
def State.testGroup (s : State) (g : Nat) : State :=
  match s.group g with
  | none => s
  | some x =>
    match x.state with
    | .raising _ => s
    | .normal | .short =>
      if s.lacks g = true then
        match s.chooseProvider g x with
        | none => s.modifyGroup g (fun y => { y with state := .short })
        | some p =>
          match s.startOffer p with
          | .entered => (s.enqueue p .supply).modifyGroup g (fun y => { y with state := .raising p })
          | .barred => s.modifyGroup g (fun y => { y with state := .short })
          | .full => s.modifyGroup g (fun y => { y with state := .short })
      else s.modifyGroup g (fun y => { y with state := .normal, failed := [] })

/-- What a change of group `g` is judged by (R110): its margin, and the standing of each of its providers and consumers. -/
structure GroupView where
  margin : Nat
  providers : List Provider
  consumers : List Consumer
  deriving DecidableEq, Repr

/-- The present view of group `g`. -/
def State.groupView (s : State) (g : Nat) : GroupView :=
  { margin := s.margin g, providers := s.providersByLoad g, consumers := s.consumers g }

/-! ### The dependency graph (R106) -/

/-- An edge from G to H for each provider of G that draws H. -/
def dependencyEdges (loads : Table LoadRecord) : List (Nat × Nat) :=
  loads.flatMap (fun e =>
    match e.2.provides with
    | none => []
    | some p => e.2.drawnGroups.map (fun h => (p.group, h)))

/-- There is a walk of `k` edges from group `g`. -/
def walkFrom (edges : List (Nat × Nat)) : Nat → Nat → Bool
  | 0, _ => true
  | k + 1, g => edges.any (fun e => e.1 == g && walkFrom edges k e.2)

/-- R106, R13 step 9: the graph has a cycle or a chain of more than four groups. A chain of five groups is a walk of
four edges, and a cycle has walks of every length, so one test serves both. -/
def graphRefused (edges : List (Nat × Nat)) : Bool := edges.any (fun e => walkFrom edges Config.chainGroups e.1)

end Sys2Proof.Machine
end

