-- ==== Sys2Proof/Machine/Arbiter.lean ====
section
/-! DEFINITION. The feeder arbiter (chapter 7) and stop permission (section 3.4). -/

namespace Sys2Proof.Machine

/-! ### The arbiter -/

/-- R129: the REST test: the off time, the time base less off-since, is at least the minimum off times 60 s. -/
def State.rested (s : State) (r : LoadRecord) : Bool := r.offSince + r.tuning.minimumOff * 60 ≤ s.timeBase

/-- R129: the BUDGET test. -/
def State.fitsBudget (s : State) (r : LoadRecord) : Bool :=
  s.startingCount == 0 || decide (s.startingSum + r.weight ≤ s.inrushLimit)

/-- R113, R129: the SUPPLY test. -/
def State.supplied (s : State) (r : LoadRecord) : Bool := r.drawnGroups.all (fun g => s.carries g)

/-- R129: the first test the entry of a record fails, in the order REST, FEEDER, BUDGET, SUPPLY; NONE if it passes. -/
def State.waitReason (s : State) (r : LoadRecord) : WaitReason :=
  if s.rested r = false then .rest
  else if s.feeders[r.feeder] ≠ .free then .feeder
  else if s.fitsBudget r = false then .budget
  else if s.supplied r = false then .supply
  else .none

/-- R127: rewrite the wait reason of the entry of load `n`. -/
def State.setReason (s : State) (n : Nat) (w : WaitReason) : State :=
  { s with queue := s.queue.map (fun e => if e.load = n then { e with reason := w } else e) }

/-- R127, R63: grant the entry of load `n`. -/
def State.grant (s : State) (n : Nat) : State := s.moveTo n .starting none

/-- R127: what the walk does at one entry. -/
def State.examineEntry (s : State) (e : Entry) : State :=
  match s.load e.load with
  | none => s
  | some r =>
    if r.state = .queued then
      if s.waitReason r = .none then s.grant e.load else s.setReason e.load (s.waitReason r)
    else s

/-- R127: one examination, a walk over the entries that stood in the list when it was taken. -/
def State.examine (s : State) : State := s.queue.foldl State.examineEntry s

/-! ### Stop permission -/

/-- R56: the effective authority of a record. -/
def State.effectiveAuthority (s : State) (r : LoadRecord) : Nat := max s.authority (r.portStop.getD 0)

/-- R57, R112: another provider of the group that load `n` provides is in STOPPING. -/
def State.otherStopping (s : State) (n : Nat) (r : LoadRecord) : Bool :=
  match r.provides with
  | none => false
  | some p => (s.providersByLoad p.group).any (fun q => q.load != n && q.state == .stopping)

/-- R111: the group that the load provides meets its required capacity without it. -/
def State.spared (s : State) (r : LoadRecord) : Bool :=
  match r.provides with
  | none => true
  | some p => s.required p.group + p.capacity ≤ s.capacity p.group

/-- R56: the first condition of stop permission that fails; NONE if all five hold. -/
def State.permission (s : State) (n : Nat) (r : LoadRecord) : BlockReason :=
  if s.effectiveAuthority r = 0 then .authority
  else if (s.keepRunLevels n).all (fun l => l < s.effectiveAuthority r) = false then .hold
  else if s.timeBase < r.runSince + r.tuning.minimumRun * 60 then .minRun
  else if s.spared r = false then .supply
  else if s.otherStopping n r = true then .pacing
  else .none

/-- R56, R58: evaluate a DUE record: it enters STOPPING, or its block reason is written. -/
def State.evaluate (s : State) (n : Nat) : State :=
  match s.load n with
  | none => s
  | some r =>
    if r.state = .due then
      if s.permission n r = .none then s.moveTo n .stopping none
      else s.setLoad n { r with blockReason := s.permission n r }
    else s

/-! ### Holds that appear or leave (sections 4.6 and 4.7) -/

/-- R60, R82: a KEEP-RUN hold of this level appears on a STOPPING record. -/
def State.overtake (s : State) (n level : Nat) : State :=
  match s.load n with
  | none => s
  | some r =>
    if r.state = .stopping ∧ s.effectiveAuthority r ≤ level then s.moveTo n .run (some (.stop, .overtaken)) else s

/-- R62, R64, R83: a KEEP-OFF hold appears on load `n`. -/
def State.keepOffAppears (s : State) (n : Nat) : State :=
  match s.load n with
  | none => s
  | some r =>
    match r.state with
    | .queued => s.moveTo n .stopped (some (.start, .cancelled))
    | .starting =>
      if s.otherStopping n r = true then s.moveTo n .fault (some (.start, .cancelled))
      else s.moveTo n .stopping (some (.start, .cancelled))
    | _ => s

/-- R84, R117: a KEEP-OFF hold has left load `n`; with none remaining, `n` leaves the failed-raise sets. -/
def State.keepOffLeft (s : State) (n : Nat) : State := if s.keepOff n = true then s else s.forgetFailed n

end Sys2Proof.Machine
end

