-- ==== Sys2Proof/Machine/Assessor.lean ====
section
/-! DEFINITION. The activity assessor (chapter 2): gathering, the sample, the activity level and the idle events. -/

namespace Sys2Proof.Machine

/-- Period figures with nothing gathered (R10, R26). -/
def PeriodFigures.empty : PeriodFigures := { strokeSum := 0, largest := none, seen := false }

/-- R28: the stroke delta of a reported count against the baseline, modulo 256; 0 if there is no baseline. -/
def strokeDelta (baseline : Option Byte) (count : Byte) : Nat :=
  match baseline with
  | none => 0
  | some b => (count - b).toNat

/-- R30: the largest current after a reported value; 251 to 255 are ignored. -/
def largestCurrent (largest : Option Nat) (current : Nat) : Option Nat :=
  if 250 < current then largest else some (max (largest.getD 0) current)

/-- R27: a record after a valid report's figures have been gathered. -/
def LoadRecord.gathered (r : LoadRecord) (strokes : Byte) (current : Nat) : LoadRecord :=
  { r with
    baseline := some strokes
    figures :=
      { strokeSum := min 1023 (r.figures.strokeSum + strokeDelta r.baseline strokes)
        largest := largestCurrent r.figures.largest current
        seen := true } }

/-- R31: the sample of a record at a period end. -/
def LoadRecord.sample (r : LoadRecord) : Nat :=
  min 1023 (r.figures.strokeSum * r.tuning.strokeWeight + (r.figures.largest.getD 0 - r.tuning.currentFloor))

/-- R32: the new activity level from the old one, the smoothing shift and the sample. -/
def nextLevel (level smoothing sample : Nat) : Nat := min 65535 (level - level / 2 ^ smoothing + sample)

/-- R32: the level a record's period end writes. -/
def LoadRecord.newLevel (r : LoadRecord) : Nat := nextLevel r.level r.tuning.smoothing r.sample

/-- R39: the idle clock times the activity period reaches the idle delay. -/
def idleReached (idleClock period : Nat) (r : LoadRecord) : Bool := r.tuning.idleDelay * 60 ≤ idleClock * period

/-- R26, R35 to R39: what one record's period end does: the level, then at most one event, the figures emptied. -/
def State.periodEndOf (s : State) (n : Nat) : State :=
  match s.load n with
  | none => s
  | some r =>
    let kept := { r with figures := PeriodFigures.empty }
    if r.figures.seen = false then s.setLoad n kept
    else
      let r1 := { kept with level := r.newLevel }
      match r.state with
      | .run => if r.newLevel ≤ r.tuning.idleEnter then (s.setLoad n r1).moveTo n .idle none else s.setLoad n r1
      | .idle =>
        if r.tuning.idleLeave ≤ r.newLevel then (s.setLoad n r1).moveTo n .run none
        else
          let r2 := { r1 with idleClock := r.idleClock + 1 }
          if idleReached r2.idleClock s.period r then (s.setLoad n r2).moveTo n .due none else s.setLoad n r2
      | .due =>
        if r.tuning.idleLeave ≤ r.newLevel ∧ r.portStop = none then (s.setLoad n r1).moveTo n .run none
        else s.setLoad n r1
      | _ => s.setLoad n r1

end Sys2Proof.Machine
end

