-- ==== Sys2Proof/Machine/Reports.lean ====
section
/-! DEFINITION. A valid report and what it does to its record (R49 to R53, R55, R59, R62, R64, R68, R176), and the loss
and abandonment of a drop (R65, R66). -/

namespace Sys2Proof.Machine

/-- R148: the fields of a STATUS frame. -/
structure Report where
  run : RunState
  localFlag : Bool
  isolatorOpen : Bool
  declined : Bool
  released : Bool
  echo : BitVec 2
  button : BitVec 2
  strokes : Byte
  current : Nat
  deriving DecidableEq, Repr

/-- R175: the run state of bits 0 and 1 of the flags byte. -/
def runStateOfBits (b : BitVec 2) : RunState :=
  if b = 0 then .stopped else if b = 1 then .running else if b = 2 then .accelerating else .coasting

/-- R175: the report of the STATUS bytes 1 to 4. -/
def reportOfBytes (flags counts strokes current : Byte) : Report :=
  { run := runStateOfBits (flags.extractLsb' 0 2)
    localFlag := flags.getLsbD 2
    isolatorOpen := flags.getLsbD 3
    declined := flags.getLsbD 4
    released := flags.getLsbD 5
    echo := counts.extractLsb' 0 2
    button := counts.extractLsb' 2 2
    strokes := strokes
    current := current.toNat }

/-! ### The steps of R49 -/

/-- R79: the isolator hold follows the isolator-open flag; appearing and clearing each set the mark, a hold appearing
acts on the load (R83), and a hold clearing frees it (R84). -/
def State.followIsolator (s : State) (n : Nat) (isOpen : Bool) : State :=
  match s.load n with
  | none => s
  | some r =>
    if r.isolatorHold = isOpen then s
    else
      let s1 := (s.setLoad n { r with isolatorHold := isOpen }).mark n
      if isOpen = true then s1.keepOffAppears n else s1.keepOffLeft n

/-- R50: the state an UNKNOWN record leaves for at its first valid report. -/
def firstState (rep : Report) : LoadState :=
  if rep.localFlag = true then .inLocal else if rep.run = .stopped then .stopped else .run

/-- R50: the first valid report to an UNKNOWN record, its figures having been gathered. -/
def State.firstReport (s : State) (n : Nat) (rep : Report) : State :=
  let s1 := s.modifyLoad n (fun r => { r with buttonTaken := rep.button, lastRun := some rep.run })
  (s1.followIsolator n rep.isolatorOpen).moveTo n (firstState rep) none

/-- R51: the outcome that the local flag writes for the operation in flight. -/
def localOutcome (st : LoadState) : Option (Operation × OpResult) :=
  match st with
  | .stopping => some (.stop, .overtaken)
  | .queued | .starting => some (.start, .overtaken)
  | _ => none

/-- R51, R52: the local flag acts on the state. -/
def State.localStep (s : State) (n : Nat) (rep : Report) : State :=
  match s.stateOf n with
  | none => s
  | some .inLocal =>
    if rep.localFlag = true then s else s.moveTo n (if rep.run = .stopped then .stopped else .run) none
  | some .unknown | some .retiring => s
  | some st => if rep.localFlag = true then s.moveTo n .inLocal (localOutcome st) else s

/-- R77: a press places or refreshes the button hold. -/
def State.placeButtonHold (s : State) (n : Nat) : State :=
  (s.modifyLoad n (fun r => { r with buttonHold := some r.tuning.buttonTime })).mark n

/-- R53, R77: a press acts by the record's state. `changed` says that a step of the same report has already changed the
record's state: then the press makes no further change of state (R49). -/
def State.press (s : State) (n : Nat) (changed : Bool) : State :=
  match s.stateOf n with
  | some .run | some .idle => s.placeButtonHold n
  | some .due => if changed = true then s.placeButtonHold n else (s.placeButtonHold n).evaluate n
  | some .stopping => if changed = true then s.placeButtonHold n else (s.placeButtonHold n).overtake n 1
  | some .stopped => if changed = true then s else s.offerButton n
  | _ => s

/-- R49 step 5, R53: the button count acts. -/
def State.buttonStep (s : State) (n : Nat) (rep : Report) (changed : Bool) : State :=
  match s.load n with
  | none => s
  | some r =>
    if r.buttonTaken = rep.button then s
    else (s.setLoad n { r with buttonTaken := rep.button }).press n changed

/-- R68: a valid report to a RETIRING record; the released flag counts only in answer to a poll that carried RELEASE. -/
def State.retireStep (s : State) (n : Nat) (r : LoadRecord) (rep : Report) (sent : Commanded) : State :=
  if rep.released = true ∧ sent = .release then s.removeLoad n (.retire, .completed)
  else if Config.retirementExchanges ≤ r.retireExchanges + 1 then s.removeLoad n (.retire, .lost)
  else s.setLoad n { r with retireExchanges := r.retireExchanges + 1 }

/-- R49 step 6: the run state and the stop-declined and released flags act by the record's state (R55, R59, R62, R64,
R68). A stop-declined flag counts only in answer to a poll that carried STOP (R176). -/
def State.runStep (s : State) (n : Nat) (rep : Report) (sent : Commanded) : State :=
  match s.load n with
  | none => s
  | some r =>
    match r.state with
    | .run | .idle | .due => if rep.run = .stopped then s.moveTo n .stopped none else s
    | .stopped => if rep.run = .running ∨ rep.run = .accelerating then s.moveTo n .run none else s
    | .stopping =>
      if rep.run = .stopped then s.moveTo n .stopped (some (.stop, .completed))
      else if rep.declined = true ∧ sent = .stop then s.moveTo n .run (some (.stop, .declined))
      else s
    | .queued =>
      if rep.run = .running ∨ rep.run = .accelerating then s.moveTo n .run (some (.start, .overtaken)) else s
    | .starting =>
      if rep.run = .running ∧ rep.echo = r.startCount then
        (s.moveTo n .run (some (.start, .completed))).modifyLoad n (fun x => { x with level := x.tuning.idleLeave })
      else s
    | .retiring => s.retireStep n r rep sent
    | .unknown | .inLocal | .fault => s

/-- R49: a valid report to a record that is not in UNKNOWN, its figures having been gathered: steps 3 to 6, with at
most one change of state. `old` is the state the report found. -/
def State.laterReport (s : State) (n : Nat) (old : LoadState) (rep : Report) (sent : Commanded) : State :=
  let s1 := s.modifyLoad n (fun r => { r with lastRun := some rep.run })
  let s2 := s1.followIsolator n rep.isolatorOpen
  let s3 := if s2.stateOf n = some old then s2.localStep n rep else s2
  let s4 := s3.buttonStep n rep (s3.stateOf n != some old)
  if s4.stateOf n = some old then s4.runStep n rep sent else s4

/-- R117: a provider that a report has brought into RUN from state `old`, by a start that completed or otherwise, leaves the
failed-raise sets. The press that overtakes a stop is part of its report (log entry 25). -/
def State.ranByReport (s : State) (n : Nat) (old : LoadState) : State :=
  if old ≠ .run ∧ s.stateOf n = some .run then s.forgetFailed n else s

/-- R49: a valid report acts on the record of load `n`; `sent` is the commanded state its poll carried. -/
def State.report (s : State) (n : Nat) (rep : Report) (sent : Commanded) : State :=
  match s.load n with
  | none => s
  | some r =>
    let s1 := s.setLoad n (r.gathered rep.strokes rep.current)
    (if r.state = .unknown then s1.firstReport n rep else s1.laterReport n r.state rep sent).ranByReport n r.state

/-! ### Loss and disabling -/

/-- The outcome with which an operation in flight in this state ends by loss or by abandonment. -/
def endedOutcome (st : LoadState) (x : OpResult) : Option (Operation × OpResult) :=
  match st with
  | .stopping => some (.stop, x)
  | .queued | .starting => some (.start, x)
  | .retiring => some (.retire, x)
  | _ => none

/-- R65: the record of a drop declared LOST changes by its state. -/
def State.loseLoad (s : State) (n : Nat) : State :=
  match s.load n with
  | none => s
  | some r =>
    match r.state with
    | .run | .idle | .due | .stopped | .inLocal | .stopping | .queued | .starting =>
      s.moveTo n .unknown (endedOutcome r.state .lost)
    | .fault | .unknown => s.setLoad n { r with lastRun := none }
    | .retiring => s.removeLoad n (.retire, .lost)

/-- R66, R145: a record on a line that is disabled changes by its state, and its miss count becomes 0. -/
def State.abandonLoad (s : State) (n : Nat) : State :=
  match s.load n with
  | none => s
  | some r =>
    let s1 := s.setLoad n { r with missCount := 0 }
    match r.state with
    | .unknown => s1
    | .retiring => s1.removeLoad n (.retire, .aborted)
    | .run | .idle | .due | .stopped | .inLocal | .stopping | .queued | .starting | .fault =>
      s1.moveTo n .unknown (endedOutcome r.state .aborted)

end Sys2Proof.Machine
end

