-- ==== Sys2Proof/Machine/Lines.lean ====
section
/-! DEFINITION. The line controllers (chapter 9): the poll, the choice of the next drop, the judgement of a reply, failures and
loss, and the settings of a line. -/

namespace Sys2Proof.Machine

/-! ### The poll -/

/-- The code of a commanded state (R173, R175). -/
def Commanded.code : Commanded → BitVec 2
  | .run => 0
  | .stop => 1
  | .release => 2

/-- R148: the order taken from the record of load `n` when a poll begins. -/
def State.orderOf (s : State) (n : Nat) (r : LoadRecord) : Order :=
  { commanded := r.commanded, startCount := r.startCount, buttonTaken := r.buttonTaken, lamp := s.holdLamp n }

/-- R175: the order byte of a poll, bit 7 zero, the hold lamp in bit 6, and two bits each for the button count taken, the
start count and the commanded state. -/
def Order.toByte (o : Order) : Byte :=
  ((((BitVec.ofBool o.lamp).setWidth 2 ++ o.buttonTaken) ++ o.startCount) ++ o.commanded.code : BitVec 8)

/-- R148, R175: the three bytes of a poll. -/
def pollBytes (address : Nat) (o : Order) : List Byte :=
  [byte address, o.toByte, crc8 [byte address, o.toByte]]

/-- R147: the bits of a frame on TXD: the mark bit at mark in the first character of a poll and at space in the rest. -/
def frameBits : List Byte → List Bool
  | [] => []
  | b :: rest => charBits true b ++ rest.flatMap (charBits false)

/-! ### Choosing the next drop -/

/-- R152: search the ring from the cursor on this pass, and wrap as often as it takes. -/
def ringSearch (ring lost : NatSet) : Nat → Nat → Nat → Option (Nat × Nat)
  | 0, _, _ => none
  | tries + 1, pass, cursor =>
    match ring.find? (fun a => decide (cursor ≤ a) && (pass == 0 || !lost.contains a)) with
    | some a => some (a, pass)
    | none => ringSearch ring lost tries ((pass + 1) % 8) 1

/-- The level of DE over the bits of a poll and after the last stop bit (R149): asserted for the poll, and then released. -/
def pollDrive (bits : List Bool) : List Bool := bits.map (fun _ => true) ++ [false]

/-- The levels of TXD over the bits of a poll and after the last stop bit (R147, R149): the line then idles at mark. -/
def pollLevels (bits : List Bool) : List Bool := bits ++ [true]

/-- R149: DEn as it stands: released but over the bits of a poll. -/
def Line.deNow (x : Line) : Bool := x.de.getLast?.getD false

/-- R145, R149, R157: TXDn as it stands, `true` for mark: at mark but over the bits of a poll. -/
def Line.txdNow (x : Line) : Bool := x.txd.getLast?.getD true

/-- R145, R157: the controller with an exchange in flight abandoned, DE released at once and TXD held at mark. R157
names DE alone for a control reset; that TXD is at mark then is read from R149 (DEDUCED, log entry 12). -/
def Line.quieted (x : Line) : Line := { x with exchange := none, txd := [true], de := [false] }

/-- R152, R153: the address the line polls next and the controller once it has been taken: the head of the urgent list,
or else the drop of the ring. At most eight wraps lead to pass 0, on which every address can be polled. An empty ring gives
none, and then neither the cursor nor the pass number moves, which is the model's choice (log entry 24). -/
def State.nextDrop (s : State) (l : Fin 4) : Option (Nat × Line) :=
  let x := s.lineAt l
  match x.urgent with
  | a :: rest => some (a, { x with urgent := rest })
  | [] =>
    match ringSearch (s.ring l) x.lost 9 x.pass x.cursor with
    | some (a, pass) => some (a, { x with pass := pass, cursor := a + 1 })
    | none => none

/-- R149: the controller with the exchange begun and the poll sent. -/
def Line.polling (x : Line) (n address : Nat) (o : Order) : Line :=
  { x with
    exchange := some { address := address, load := some n, order := o, divisor := x.divisor, replyWindow := x.replyWindow }
    txd := pollLevels (frameBits (pollBytes address o))
    de := pollDrive (frameBits (pollBytes address o)) }

/-- R149, R152: a ready line takes the next drop and sends it a poll. -/
def State.startExchange (s : State) (l : Fin 4) : State :=
  if (s.lineAt l).enabled = true ∧ (s.lineAt l).exchange = none then
    match s.nextDrop l with
    | none => s
    | some (a, x) =>
      match s.findDrop l a with
      | none => s.setLine l x
      | some (n, r) => s.setLine l (x.polling n a (s.orderOf n r))
  else s

/-! ### The end of an exchange -/

/-- R150: the judgement of a reply. -/
inductive Judgement where
  | silent | framing | stray | check
  | valid (rep : Report)
  deriving DecidableEq, Repr

/-- R150: judge the characters of a reply to a poll of `address`; a reply ends at its sixth character (R149). A reply of no
characters is SILENT also where a falling edge came in the reply window and its start bit was back at mark when it was sampled:
R147 takes no character from such an edge, and R149 and R150 do not say whether it counts as a start bit that arrived. That it does
not is the model's choice (DESIGN CHOICE, log entry 29). -/
def judge (address : Nat) (chars : List RxChar) : Judgement :=
  if chars.isEmpty then .silent
  else if (chars.take 6).all rxWellFormed = false then .framing
  else
    match (chars.take 6).map (·.data) with
    | [a, flags, counts, strokes, current, crc] =>
      if crc8 [a, flags, counts, strokes, current] ≠ crc then .check
      else if a ≠ byte address then .stray
      else .valid (reportOfBytes flags counts strokes current)
    | _ => .stray

/-- R150: one more failure in a counter that saturates at 255. -/
def countUp (c : Nat) : Nat := if 255 ≤ c then 255 else c + 1

/-- R150: the controller with a failure counted; a counter already at 255 sets the overflow flag. -/
def Line.countFailure (x : Line) (j : Judgement) : Line :=
  match j with
  | .silent => { x with silent := countUp x.silent, overflow := x.overflow || decide (255 ≤ x.silent) }
  | .framing => { x with framing := countUp x.framing, overflow := x.overflow || decide (255 ≤ x.framing) }
  | .check => { x with check := countUp x.check, overflow := x.overflow || decide (255 ≤ x.check) }
  | .stray => { x with stray := countUp x.stray, overflow := x.overflow || decide (255 ≤ x.stray) }
  | .valid _ => x

/-- R151: declare the drop of load `n` LOST: its address joins the LOST set and its record changes (R65). -/
def State.declareLost (s : State) (l : Fin 4) (n address : Nat) : State :=
  (s.setLine l { s.lineAt l with lost := NatSet.add (s.lineAt l).lost address }).loseLoad n

/-- R151: a failed exchange, once counted, acts on the polled drop of load `n`. -/
def State.failDrop (s : State) (l : Fin 4) (n : Nat) : State :=
  match s.load n with
  | none => s
  | some r =>
    let loss := (s.lineAt l).lossCount
    let misses := if r.missCount = loss then r.missCount else r.missCount + 1
    let s1 := s.setLoad n { r with missCount := misses }
    if (s.lineAt l).lost.contains r.address = true then
      if r.state = .retiring then s1.removeLoad n (.retire, .lost) else s1
    else if loss ≤ misses then s1.declareLost l n r.address
    else s1

/-- R151: a valid exchange: the miss count, the LOST set, then the report. -/
def State.validDrop (s : State) (l : Fin 4) (n address : Nat) (rep : Report) (sent : Commanded) : State :=
  let s1 := s.modifyLoad n (fun r => { r with missCount := 0 })
  let s2 := s1.setLine l { s1.lineAt l with lost := NatSet.remove (s1.lineAt l).lost address }
  s2.report n rep sent

/-- R149 to R151: the exchange in flight on a line ends with this judgement. An exchange whose record has been removed
is counted as neither valid nor failed. -/
def State.endExchange (s : State) (l : Fin 4) (chars : List RxChar) : State :=
  match (s.lineAt l).exchange with
  | none => s
  | some e =>
    let x := { s.lineAt l with exchange := none }
    match e.load with
    | none => s.setLine l x
    | some n =>
      match judge e.address chars with
      | .valid rep => (s.setLine l x).validDrop l n e.address rep e.order.commanded
      | .silent => (s.setLine l (x.countFailure .silent)).failDrop l n
      | .framing => (s.setLine l (x.countFailure .framing)).failDrop l n
      | .check => (s.setLine l (x.countFailure .check)).failDrop l n
      | .stray => (s.setLine l (x.countFailure .stray)).failDrop l n

/-! ### Line settings -/

/-- The load numbers of the records on a line, ascending. -/
def State.loadsOnLine (s : State) (l : Fin 4) : List Nat :=
  (s.loads.filter (fun e => e.2.line == l)).map Prod.fst

/-- R145: the controller of a line that is disabled, with its new settings. -/
def Line.disabled (x : Line) : Line :=
  { x.quieted with enabled := false, urgent := [], lost := [], pass := 0 }

/-- R145: disable a line in one change: the controller, then each of its records. -/
def State.disableLine (s : State) (l : Fin 4) (x : Line) : State :=
  (s.loadsOnLine l).foldl State.abandonLoad (s.setLine l x.disabled)

/-- R146: one drop of a line under a loss count that has changed. -/
def State.applyLossCount (l : Fin 4) (loss : Nat) (s : State) (n : Nat) : State :=
  match s.load n with
  | none => s
  | some r =>
    if (s.lineAt l).lost.contains r.address = true then s.setLoad n { r with missCount := loss }
    else if loss ≤ r.missCount then (s.setLoad n { r with missCount := loss }).declareLost l n r.address
    else s

/-- R145, R146: write a line's settings, enabling or disabling it. A SET LINE that disables the line and also lowers its loss count to
a drop's miss count or below it ends each record of the line as R66 alone gives, with ABORTED, and declares no drop LOST: no rule
orders R146, which would end the same operations with LOST, against R66 (DESIGN CHOICE, log entry 28). -/
def State.writeLine (s : State) (l : Fin 4) (enable : Bool) (divisor window loss : Nat) : State :=
  let old := s.lineAt l
  let x := { old with divisor := divisor, replyWindow := window, lossCount := loss }
  if enable = true then
    let y := if old.enabled = true then x else { x with enabled := true, cursor := 1, pass := 0 }
    (s.loadsOnLine l).foldl (State.applyLossCount l loss) (s.setLine l y)
  else if old.enabled = true then s.disableLine l x
  else s.setLine l x

end Sys2Proof.Machine
end

