-- ==== Sys2Proof/Machine/Flags.lean ====
section
/-! DEFINITION. The attention flags and the ATTN line (section 10.4). -/

namespace Sys2Proof.Machine

/-- The number of records in FAULT. -/
def State.faultCount (s : State) : Nat := (s.loads.filter (fun e => e.2.state == .fault)).length

/-- The number of SHORT groups. -/
def State.shortCount (s : State) : Nat := (s.groups.filter (fun e => e.2.state == .short)).length

/-- The number of LOST drops on all lines. -/
def State.lostCount (s : State) : Nat := (s.lines.toList.map (fun x => x.lost.length)).sum

/-- The number of lines whose overflow flag is set. -/
def State.overflowCount (s : State) : Nat := (s.lines.toList.filter (·.overflow)).length

/-- R168: CHANGED is set while some slot's changed mark is set. -/
def State.changedFlag (s : State) : Bool := !s.marks.isEmpty

/-- R168: FAULT is set while some live record is in FAULT. -/
def State.faultFlag (s : State) : Bool := s.faultCount != 0

/-- R168: SHORT is set while some defined group is SHORT. -/
def State.shortFlag (s : State) : Bool := s.shortCount != 0

/-- R168: LINE is set while some line has a LOST drop or its overflow flag set. -/
def State.lineFlag (s : State) : Bool := s.lostCount != 0 || s.overflowCount != 0

/-- R168: CLOCK is set while the plant clock is UNSET. -/
def State.clockFlag (s : State) : Bool := s.clock.isNone

/-- R169, R170: the six flags as a sum, CHANGED 1, FAULT 2, SHORT 4, LINE 8, OVERRUN 16, CLOCK 32. -/
def State.attentionFlags (s : State) : BitVec 6 :=
  ((((BitVec.ofBool s.clockFlag ++ BitVec.ofBool s.overrun) ++ BitVec.ofBool s.lineFlag)
    ++ BitVec.ofBool s.shortFlag) ++ BitVec.ofBool s.faultFlag) ++ BitVec.ofBool s.changedFlag

/-- R169: ATTN is driven low while at least one flag is set whose enable is on. -/
def State.attnLow (s : State) : Bool := s.attentionFlags &&& s.mask != 0

end Sys2Proof.Machine
end

