-- ==== Sys2Proof/Machine/Authority.lean ====
section
/-! DEFINITION. The plant clock, the day types, the shed windows and the computation of the authority (chapter 5). -/

namespace Sys2Proof.Machine

/-- The code of a day type (R92, R93). -/
def DayType.code : DayType → Nat
  | .work => 0
  | .short => 1
  | .rest => 2

/-- The day type with a code, if it is one. -/
def DayType.ofCode : Nat → Option DayType
  | 0 => some .work
  | 1 => some .short
  | 2 => some .rest
  | _ => none

/-- R93: the day type in force today; none while the clock is UNSET. -/
def State.todayType (s : State) : Option DayType :=
  match s.clock with
  | none => none
  | some c => some (s.todayOverride.getD s.dayMap[c.day])

/-- R95: the place of a window in the table, six windows for each day type. -/
def windowIndex (t : DayType) (w : Nat) : Fin 18 := Fin.ofNat 18 (t.code * 6 + w)

/-- The window of a type and number. -/
def State.window (s : State) (t : DayType) (w : Nat) : Window := s.windows[windowIndex t w]

/-- R97: a window of today's type covers minute `m`. -/
def Window.coversToday (w : Window) (m : Nat) : Bool :=
  w.authority != 0 && decide (w.start ≤ m) && (decide (w.stop ≤ w.start) || decide (m < w.stop))

/-- R97: the tail of a window of yesterday's type covers minute `m`. -/
def Window.coversTail (w : Window) (m : Nat) : Bool :=
  w.authority != 0 && decide (w.stop ≤ w.start) && decide (m < w.stop)

/-- A covering window, as READ AUTHORITY lists it (R166). -/
structure Cover where
  type : DayType
  number : Nat
  tail : Bool
  authority : Nat
  deriving DecidableEq, Repr

/-- R166: the covering windows, today's first and yesterday's tails after, each in ascending window number. -/
def State.covering (s : State) : List Cover :=
  match s.clock, s.todayType with
  | some c, some t =>
    ((List.range 6).filter (fun w => (s.window t w).coversToday c.minute)).map
        (fun w => { type := t, number := w, tail := false, authority := (s.window t w).authority })
      ++ ((List.range 6).filter (fun w => (s.window s.yesterday w).coversTail c.minute)).map
        (fun w => { type := s.yesterday, number := w, tail := true, authority := (s.window s.yesterday w).authority })
  | _, _ => []

/-- R97: the greatest authority among the covering windows, 0 if none covers. -/
def State.windowAuthority (s : State) : Nat := (s.covering.map (·.authority)).foldr max 0

/-- R97, R100: some wake guard covers the present moment. -/
def State.guarded (s : State) : Bool := s.plans.any (fun e => e.2.guardEnd.isSome)

/-- R97: the authority as the state gives it. -/
def State.computedAuthority (s : State) : Nat :=
  if s.clock = none then 0 else if s.guarded = true then 0 else s.windowAuthority

/-- R98: recompute the authority. -/
def State.recompute (s : State) : State := { s with authority := s.computedAuthority }

end Sys2Proof.Machine
end

