-- ==== Sys2Proof/Machine/Plans.lean ====
section
/-! DEFINITION. Wake plans (chapter 8): slots, activation, the guard and the end of a run. -/

namespace Sys2Proof.Machine

/-- Wake plan `p`; none while it is NOT SET. -/
def State.plan (s : State) (p : Nat) : Option WakePlan := Table.find s.plans p

/-- Write wake plan `p`. -/
def State.setPlan (s : State) (p : Nat) (x : WakePlan) : State := { s with plans := Table.put s.plans p x }

/-- The number of slots of a plan (R134). -/
def WakePlan.slots (x : WakePlan) : Nat := 2 ^ x.bits

/-- R134: the mask of a plan contains a day type. -/
def WakePlan.contains (x : WakePlan) (t : DayType) : Bool := x.mask.getLsbD t.code

/-- The number of `k` binary digits whose digits are those of `x` in reverse order. -/
def reverseBits : Nat → Nat → Nat
  | 0, _ => 0
  | k + 1, x => (x % 2) * 2 ^ k + reverseBits k (x / 2)

/-- R139: the slot of an ordinal in a plan with `k` slot bits. -/
def slotOf (ordinal k : Nat) : Nat := reverseBits k (ordinal % 2 ^ k)

/-- R134, R142: the live records whose membership names plan `p`, in ascending load number. -/
def State.members (s : State) (p : Nat) : List (Nat × Membership) :=
  s.loads.filterMap (fun e => (e.2.membership.filter (fun m => m.plan == p)).map (fun m => (e.1, m)))

/-- R140: the members of slot `k` of plan `p`, in ascending load number. -/
def State.slotMembers (s : State) (p : Nat) (x : WakePlan) (k : Nat) : List Nat :=
  ((s.members p).filter (fun e => slotOf e.2.ordinal x.bits == k)).map Prod.fst

/-- R88, R139: the time-base second at which the next slot of an ACTIVE plan falls. -/
def WakePlan.nextFall (x : WakePlan) : Nat := x.activationSecond.getD 0 + x.cursor * x.spacing

/-- R141: today's day of week is still the plan's activation day. -/
def State.sameDay (s : State) (x : WakePlan) : Bool := x.activationDay == s.clock.map (·.day)

/-- R140, R141: the plan after a slot has fallen: the cursor moves on, and after the last slot the run ends. -/
def State.planAfterSlot (s : State) (x : WakePlan) : WakePlan :=
  { x with
    cursor := x.cursor + 1
    state := if x.cursor + 1 < x.slots then x.state else if s.sameDay x = true then .done else .waiting }

/-- R138, steps 1 and 2: the plan as an activation writes it. -/
def State.activated (s : State) (x : WakePlan) : WakePlan :=
  { x with
    state := .active
    activationDay := s.clock.map (·.day)
    activationSecond := some s.timeBase
    cursor := 0
    guardEnd := if x.guard = 0 then x.guardEnd else some (s.timeBase + x.guard * 60) }

/-- R135 step 1, R143: an ACTIVE plan ended by command or by a control reset. -/
def State.endedPlan (s : State) (x : WakePlan) : WakePlan :=
  { x with
    state := .done
    cursor := x.slots
    activationDay :=
      match s.clock with
      | some c => some c.day
      | none => x.activationDay }

/-- R136: the plans whose start minute is minute `m`, WAITING, with today's type in their mask. -/
def State.plansStarting (s : State) (m : Nat) : List Nat :=
  match s.todayType with
  | none => []
  | some t =>
    (s.plans.filter (fun e => e.2.state == .waiting && e.2.start == m && e.2.contains t)).map Prod.fst

/-- R137: the plans a forward setting within the day activates: WAITING, with today's type in their mask, and with a start
minute after `old` and at or before `new`. -/
def State.plansPassed (s : State) (old new : Nat) : List Nat :=
  match s.todayType with
  | none => []
  | some t =>
    (s.plans.filter (fun e =>
      e.2.state == .waiting && decide (old < e.2.start) && decide (e.2.start ≤ new) && e.2.contains t)).map Prod.fst

/-- R136: at a midnight every DONE plan becomes WAITING. -/
def WakePlan.newDay (x : WakePlan) : WakePlan := if x.state = .done then { x with state := .waiting } else x

/-- R137: at a setting that changes the day, a DONE plan of another day becomes WAITING. -/
def WakePlan.daySet (x : WakePlan) (day : Fin 7) : WakePlan :=
  if x.state = .done ∧ x.activationDay ≠ some day then { x with state := .waiting } else x

end Sys2Proof.Machine
end

