-- ==== Sys2Proof/Machine/Settle.lean ====
section
/-! DEFINITION. Hand-offs: what a change of the state calls for elsewhere in the part (R57, R84, R98, R110, R117, R124,
R128), and the loop that takes the hand-offs of one step one at a time, in an order the data sheet leaves open. -/

namespace Sys2Proof.Machine

/-- A hand-off waiting to be taken within a step. -/
inductive Work where
  /-- R57: evaluate a DUE record for stop permission. -/
  | evaluate (load : Nat)
  /-- R110, R117: a group tests for lack of supply. -/
  | testGroup (group : Nat)
  /-- R128: the arbiter examines the queue. -/
  | examine
  /-- R98: the authority is recomputed. -/
  | recompute
  /-- R26: one record's period end. -/
  | periodEnd (load : Nat)
  /-- R138: a wake plan becomes ACTIVE. -/
  | activate (plan : Nat)
  /-- R140: the members of a fallen slot that are still to be offered, in order. -/
  | offer (members : List Nat)
  deriving DecidableEq, Repr

/-! ### What a change calls for -/

/-- R110: a change of group `g` is handed to its DUE providers, to its supply test and, if the headroom has grown, to
the arbiter. -/
def groupHandoffs (s0 s1 : State) (g : Nat) : List Work :=
  if s0.groupView g = s1.groupView g then []
  else
    ((s1.providersByLoad g).filter (fun p => p.state == .due)).map (fun p => Work.evaluate p.load)
      ++ [.testGroup g]
      ++ (if s0.headroom g < s1.headroom g then [.examine] else [])

/-- R117: every SHORT group tests again. -/
def shortTests (s : State) : List Work :=
  (s.groups.filter (fun e => e.2.state == .short)).map (fun e => .testGroup e.1)

/-- The entries of `s0` that have left the queue in `s1`. -/
def departed (s0 s1 : State) : List Entry := s0.queue.filter (fun e => !s1.hasEntry e.load)

/-- R124: an entry's removal is handed to every SHORT group. -/
def removalHandoffs (s0 s1 : State) : List Work := if (departed s0 s1).isEmpty then [] else shortTests s1

/-- R125: some feeder has become FREE. -/
def feederFreed (s0 s1 : State) : Bool :=
  (List.finRange 8).any (fun f => s0.feeders[f] != .free && s1.feeders[f] == .free)

/-- R128: an entry was made, an entry was removed other than by a grant, a feeder became FREE, or a load's start ended. -/
def examinationDue (s0 s1 : State) : Bool :=
  s1.queue.any (fun e => !s0.hasEntry e.load)
    || (departed s0 s1).any (fun e => s1.stateOf e.load != some .starting)
    || feederFreed s0 s1
    || s0.loads.any (fun e => e.2.state == .starting && s1.stateOf e.1 != some .starting)

/-- R57, R98: every DUE record at a change of the authority, and otherwise each record that has entered DUE. -/
def dueHandoffs (s0 s1 : State) : List Work :=
  (s1.loads.filter (fun e =>
    e.2.state == .due && (s0.authority != s1.authority || s0.stateOf e.1 != some .due))).map (fun e => .evaluate e.1)

/-- R84: the loads that a KEEP-OFF hold has left and that carry none now: the group a load provides is told, and the
arbiter examines the queue. R84 names a release, an expiry and a report, and not the removal by a RETIRE LOAD. Both outcomes of
that removal are the model's choice (DESIGN CHOICE, log entry 21): on an enabled line, where the record lives on in RETIRING, the
arbiter examines the queue; on a disabled line, where the record goes in the same change, no load is left that a hold has left, and
the removal of its KEEP-OFF port hold calls for nothing. -/
def barHandoffs (s0 s1 : State) : List Work :=
  (s1.loads.filter (fun e => s0.keepOff e.1 && !s1.keepOff e.1)).flatMap (fun e =>
    (e.2.provides.map (fun p => Work.testGroup p.group)).toList ++ [.examine])

/-- Everything that the change from `s0` to `s1` calls for. -/
def handoffs (s0 s1 : State) : List Work :=
  dueHandoffs s0 s1
    ++ (s1.groups.map Prod.fst).flatMap (groupHandoffs s0 s1)
    ++ removalHandoffs s0 s1
    ++ barHandoffs s0 s1
    ++ (if examinationDue s0 s1 then [.examine] else [])

/-! ### Taking one hand-off -/

/-- A hand-off that would change nothing as the state stands; it is dropped, and a later change calls for it anew. -/
def Work.idle (w : Work) (s : State) : Bool :=
  match w with
  | .evaluate n => s.stateOf n != some .due
  | .testGroup g =>
    match s.group g with
    | none => true
    | some x =>
      match x.state with
      | .raising _ => true
      | .short => false
      | .normal => !s.lacks g && x.failed.isEmpty
  | .examine => s.queue.isEmpty
  | .recompute => s.authority == s.computedAuthority
  | .periodEnd n => (s.load n).isNone
  | .activate p => (s.plan p).isNone
  | .offer members => members.isEmpty

/-- R140: the next slot of plan `p` falls: the plan moves on, and the members are to be offered. -/
def State.fallSlot (s : State) (p : Nat) (x : WakePlan) : State × List Work :=
  (s.setPlan p (s.planAfterSlot x), [.offer (s.slotMembers p x x.cursor)])

/-- R138: one activation of plan `p`: the plan becomes ACTIVE, its guard begins and the authority is recomputed, and
slot 0 falls. -/
def State.activate (s : State) (p : Nat) : State × List Work :=
  match s.plan p with
  | none => (s, [])
  | some x =>
    let y := s.activated x
    let s1 := s.setPlan p y
    let s2 := if x.guard = 0 then s1 else s1.recompute
    s2.fallSlot p y

/-- R140: these members are offered one after another, with nothing between. -/
def State.offerMembers (s : State) (members : List Nat) : State := members.foldl State.offerWake s

/-- What taking a hand-off does, with any hand-off it leaves. The members of a slot are offered one at a time until the queue has
filled: the members after that point are offered with nothing between, so that each of them misses (R140). The queue is looked at
once each member has been taken, so the model has it fill at a member of this slot: an entry of another source (a SUPPLY entry of a
group's raise, a member of another plan) that takes the last free place between two members does not count by itself, and an
examination may still free a place before the next member. R140 does not say whose entry fills the queue: the model's choice (DESIGN
CHOICE, log entry 26). -/
def Work.run (w : Work) (s : State) : State × List Work :=
  match w with
  | .evaluate n => (s.evaluate n, [])
  | .testGroup g => (s.testGroup g, [])
  | .examine => (s.examine, [])
  | .recompute => (s.recompute, [])
  | .periodEnd n => (s.periodEndOf n, [])
  | .activate p => s.activate p
  | .offer [] => (s, [])
  | .offer (n :: rest) =>
    if (s.offerWake n).queue.length < Config.queueEntries then (s.offerWake n, [.offer rest])
    else (s.offerMembers (n :: rest), [])

/-! ### The loop -/

/-- Add hand-offs to those that wait, each at most once. -/
def addWork (waiting new : List Work) : List Work :=
  new.foldl (fun l w => if l.contains w then l else l ++ [w]) waiting

/-- Which waiting hand-off is taken next. With one waiting there is no choice; with more, the data sheet says that
either may be taken first, and the choice is the free value `Config.pick`. -/
def State.choose (s : State) (w : Work) (rest : List Work) : Work × List Work × State :=
  match rest with
  | [] => (w, [], s)
  | _ :: _ =>
    let i := Config.pick s.choices (rest.length + 1) % (rest.length + 1)
    ((w :: rest).getD i w, (w :: rest).eraseIdx i, { s with choices := s.choices + 1 })

/-- An evaluation or an offer that a hand-off taken at the bound leaves behind, taken in its turn. -/
def State.finishLeft (s : State) (w : Work) : State :=
  match w with
  | .evaluate n => s.evaluate n
  | .offer members => s.offerMembers members
  | .testGroup _ | .examine | .recompute | .periodEnd _ | .activate _ => s

/-- A hand-off taken at the bound of a step (log entry 3), with the offers it leaves (R140) and the evaluations that a change of
the authority or an entry to DUE calls for (R57, R98). -/
def Work.finish (w : Work) (s : State) : State :=
  ((w.run s).2 ++ dueHandoffs s (w.run s).1).foldl State.finishLeft (w.run s).1

/-- Take the waiting hand-offs one at a time until none waits that would change anything; at the bound, each that still waits is
taken once. -/
def settleLoop : Nat → List Work → State → State
  | 0, waiting, s => waiting.foldl (fun t w => w.finish t) s
  | fuel + 1, waiting, s =>
    match waiting.filter (fun w => !w.idle s) with
    | [] => s
    | w :: rest =>
      let (next, others, s1) := s.choose w rest
      let (s2, left) := next.run s1
      settleLoop fuel (addWork others (left ++ handoffs s1 s2)) s2

/-- The most hand-offs one step takes (log entry 3: no reachable step comes near it). -/
def settleFuel : Nat := 1000000

/-- The state after the hand-offs of the change from `s0` to `s1`, and the given ones, have been taken. -/
def State.settle (s0 s1 : State) (work : List Work) : State :=
  settleLoop settleFuel (addWork [] (work ++ handoffs s0 s1)) s1

end Sys2Proof.Machine
end

