-- ==== Sys2Proof/Machine/Holds.lean ====
section
/-! DEFINITION. Placing and removing holds (chapter 4), with what each calls for. -/

namespace Sys2Proof.Machine

/-- The state a change has made, and the hand-offs it calls for by name (R57, R128) beside those of `handoffs`. -/
structure Effect where
  state : State
  work : List Work

/-- R74: the lowest-numbered free entry of the hold table. -/
def State.freeHold (s : State) : Option Nat :=
  (List.range Config.holdEntries).find? (fun n => (Table.find s.holds n).isNone)

/-- R75, R82, R83: a port hold that has been placed acts on its load by its sense and by the load's state; a DUE record is
evaluated whatever the sense (R57, log entry 22). -/
def State.holdActs (s : State) (n : Nat) (sense : HoldSense) : Effect :=
  match sense with
  | .keepOff => { state := s.keepOffAppears n, work := [.evaluate n] }
  | .keepRun l => { state := s.overtake n l, work := [.evaluate n] }

/-- R75: write the entry, set the mark, and let the hold act. -/
def State.placePortHold (s : State) (number : Nat) (h : PortHold) : Effect :=
  (({ s with holds := Table.put s.holds number h } : State).mark h.load).holdActs h.load h.sense

/-- R82, R84: a port hold of this sense has left load `n`; a DUE record is evaluated whatever the sense (R57, log entry 22). -/
def State.holdLeft (s : State) (n : Nat) (sense : HoldSense) : Effect :=
  match sense with
  | .keepOff => { state := s.keepOffLeft n, work := [.evaluate n] }
  | .keepRun _ => { state := s, work := [.evaluate n] }

/-- R76, R80: free the entry of a port hold; the load's mark is set and the load takes the removal. -/
def State.removePortHold (s : State) (number : Nat) (h : PortHold) : Effect :=
  (({ s with holds := Table.drop s.holds number } : State).mark h.load).holdLeft h.load h.sense

/-- R78, R80: remove a button hold; the mark is set and the load takes the removal. -/
def State.removeButtonHold (s : State) (n : Nat) (r : LoadRecord) : Effect :=
  { state := (s.setLoad n { r with buttonHold := none }).mark n, work := [.evaluate n] }

/-- R80: one minute less; a hold whose minutes are absent does not count down. -/
def PortHold.countDown (h : PortHold) : PortHold := { h with remaining := h.remaining.map (· - 1) }

/-- R80: one minute less on a present button hold. -/
def LoadRecord.countDown (r : LoadRecord) : LoadRecord := { r with buttonHold := r.buttonHold.map (· - 1) }

end Sys2Proof.Machine
end

