-- ==== Sys2Proof/Machine/Port.lean ====
section
/-! DEFINITION. The command port (sections 10.1 and 10.2): transactions, the checks of a frame, taking the command in
execution, its answer, and FETCH. -/

namespace Sys2Proof.Machine

/-- R172: the number of a completion code. -/
def Completion.toByte : Completion → Byte
  | .done => 0
  | .pending => 1
  | .unknownCommand => 2
  | .badLength => 3
  | .badValue => 4
  | .wrongState => 5
  | .full => 6
  | .noSuch => 7
  | .conflict => 8

/-- R172: the codes of the part's commands. -/
def commandCodes : List Byte :=
  [0x02, 0x03, 0x04, 0x05, 0x06]
    ++ [0x10, 0x11, 0x12, 0x13, 0x14, 0x15, 0x16, 0x17, 0x18, 0x19, 0x1A, 0x1B, 0x1C, 0x1D]
    ++ [0x20, 0x21, 0x22, 0x23, 0x28, 0x29, 0x2A]
    ++ [0x30, 0x31, 0x32, 0x33, 0x34, 0x35, 0x38, 0x39, 0x40, 0x41]

/-- R159: the answer a frame is refused with by the checks of a frame, if it is. -/
def frameRefusal (frame : List Byte) : Option Completion :=
  match frame with
  | code :: len :: params =>
    if Config.maxParameters < len.toNat ∨ params.length ≠ len.toNat then some .badLength
    else if commandCodes.contains code = false then some .unknownCommand
    else none
  | _ => some .badLength

/-- R159: a transaction that comes now finds the port EXECUTING: there is a command in execution, or a READ ATTENTION or a RESET
CONTROL has been taken and the free value says that its answer is still unwritten (log entry 23). -/
def State.portExecuting (s : State) : Bool := s.executing.isSome || (s.finishing && Config.beforeAnswer s.choices)

/-- The state once a transaction has met the port: a port found IDLE has written its answer, and the choice counter has moved if
the free value was read. -/
def State.met (s : State) : State :=
  { s with
    finishing := s.finishing && s.portExecuting
    choices := if s.finishing = true ∧ s.executing = none then s.choices + 1 else s.choices }

/-- R159, R162: a command frame is received when CSN rises. One that finds the port EXECUTING is discarded and sets OVERRUN. -/
def State.receiveFrame (s : State) (frame : List Byte) : State :=
  if s.portExecuting = true then { s.met with overrun := true } else { s.met with executing := some frame }

/-- R160: the answer is written over any answer in the buffer, the command in execution becomes none, and the port
becomes IDLE. -/
def State.respond (s : State) (code : Completion) (data : List Byte) : State :=
  { s with answer := some { code := code, data := data }, executing := none }

/-! ### Taking a command -/

/-- What a command does: the state it makes, its answer, and the hand-offs it calls for by name. -/
structure Reply where
  state : State
  code : Completion
  data : List Byte
  work : List Work

/-- A refused command changes nothing (R163). -/
def refuse (s : State) (code : Completion) : Reply := { state := s, code := code, data := [], work := [] }

/-- A command that changes nothing and answers DONE with data. -/
def answerWith (s : State) (data : List Byte) : Reply := { state := s, code := .done, data := data, work := [] }

/-- A command that is taken, answers DONE, and calls for these hand-offs by name. -/
def taken (s : State) (work : List Work) : Reply := { state := s, code := .done, data := [], work := work }

/-- A command that is taken with this effect and answers DONE with data. -/
def Effect.reply (e : Effect) (data : List Byte) : Reply :=
  { state := e.state, code := .done, data := data, work := e.work }

/-- The parameter bytes of the command in execution, if it is a well-formed frame of this code (R159). -/
def State.commandParams (s : State) (code : Byte) : Option (List Byte) :=
  match s.executing with
  | some (c :: len :: params) =>
    if frameRefusal (c :: len :: params) = none ∧ c = code then some params else none
  | _ => none

/-- R160: take the command in execution as one event, with the hand-offs it calls for, and write its answer. If the
command in execution is not a well-formed frame of this code, the command is not being taken: nothing happens (log
entry 4). -/
def State.runCommand (s : State) (code : Byte) (body : List Byte → State → Reply) : State :=
  match s.commandParams code with
  | none => s
  | some params =>
    let r := body params s
    (s.settle r.state r.work).respond r.code r.data

/-- An event of the part, taken with the hand-offs it calls for. -/
def State.runEvent (s : State) (e : Effect) : State := s.settle e.state e.work

/-! ### FETCH -/

/-- The bytes of an answer on MISO after the first byte of a FETCH (R161, R172). -/
def Answer.bytes (a : Answer) : List Byte := a.code.toByte :: be16 a.data.length ++ a.data

/-- R161: what a FETCH shifts out: PENDING while the port is EXECUTING, else the buffered answer, else DONE, length 0. -/
def State.fetched (s : State) : Answer :=
  if s.portExecuting = true then { code := .pending, data := [] } else s.answer.getD { code := .done, data := [] }

/-- R161, R172: the whole answer is clocked out by a FETCH of this many whole bytes. -/
def Answer.clockedOut (a : Answer) (bytes : Nat) : Bool := 4 + a.data.length ≤ bytes

/-- R161, R172: MISO over a FETCH of `n` whole bytes: 0x00 under the first byte, the answer, then zeros. -/
def fetchStream (a : Answer) (n : Nat) : List Byte :=
  (0 :: a.bytes ++ List.replicate n 0).take n

/-- R158: MISO over a transaction that shifts these whole bytes out: driven while CSN is low, and at high impedance once CSN has
risen. -/
def misoOver (bytes : List Byte) : List (Option Byte) := bytes.map some ++ [none]

/-- R158: MISO as it stands: `none` is high impedance, where it is while CSN is high. -/
def State.misoNow (s : State) : Option Byte := s.miso.getLast?.getD none

/-- R161: a FETCH transaction of `n` whole bytes, taken at its first byte: the port and the buffer at that moment decide what it
shifts out, whatever command ends before CSN rises. A buffered answer can meet no command before CSN rises, so it leaves the
buffer in the same step (log entry 11). -/
def State.fetchTransaction (s : State) (n : Nat) : State :=
  { s.met with
    miso := misoOver (fetchStream s.fetched n)
    answer := if s.portExecuting = false ∧ s.fetched.clockedOut n = true then none else s.answer }

/-- R158: a transaction by its whole bytes: none has no effect, a first byte of 1 makes it a FETCH,
and any other first byte makes it a command frame, during which MISO reads 0. CSN rises at its end, and MISO goes to high
impedance. -/
def State.transaction (s : State) (bytes : List Byte) : State :=
  match bytes with
  | [] => s
  | b :: rest =>
    if b = 1 then s.fetchTransaction (b :: rest).length
    else ({ s with miso := misoOver (List.replicate (b :: rest).length 0) } : State).receiveFrame (b :: rest)

end Sys2Proof.Machine
end

