-- ==== Sys2Proof/Machine/Clock.lean ====
section
/-! DEFINITION. The carry of the plant clock (R89): a new minute, a midnight, and what each calls for. The table has a row for
each, so a second that has reached 60 stands until its carry is taken (log entry 7). -/

namespace Sys2Proof.Machine

/-- R89 step 2: the plant clock at a new minute of the same day. -/
def PlantClock.nextMinute (c : PlantClock) : PlantClock := { c with minute := c.minute + 1, second := c.second - 60 }

/-- R89 step 3: the plant clock at a midnight. -/
def PlantClock.nextDay (c : PlantClock) : PlantClock := { day := c.day + 1, minute := 0, second := c.second - 60 }

/-- What a new minute calls for (R89, R98, R136): the recomputation, and the activation of each plan that starts at it. -/
def State.minuteWork (s : State) (m : Nat) : List Work := .recompute :: (s.plansStarting m).map Work.activate

/-- R89, R136: a midnight before its recomputation: the type in force for the day that has ended becomes yesterday's, the
override goes, and the DONE plans become WAITING. -/
def State.atMidnight (s : State) (c : PlantClock) : State :=
  { s with
    clock := some c.nextDay
    yesterday := s.todayType.getD s.yesterday
    todayOverride := none
    plans := Table.mapEach (fun _ x => x.newDay) s.plans }

/-- R89: the state after the carry of a clock whose second has reached 60, before the recomputation. -/
def State.carry (s : State) (c : PlantClock) : State :=
  if c.minute < 1439 then { s with clock := some c.nextMinute } else s.atMidnight c

/-- R89, R98, R136: the new minute of a clock whose second has reached 60, with what it calls for. -/
def State.newMinute (s : State) (c : PlantClock) : State :=
  s.runEvent
    { state := s.carry c, work := (s.carry c).minuteWork (if c.minute < 1439 then c.minute + 1 else 0) }

/-- How many carries wait to be taken. -/
def State.carriesDue (s : State) : Nat :=
  match s.clock with
  | none => 0
  | some c => c.second / 60

/-- The state with `k` carries made, as a reader sees it: nothing is called for. -/
def State.carriedBy : Nat → State → State
  | 0, s => s
  | k + 1, s =>
    match s.clock with
    | none => s
    | some c => State.carriedBy k (s.carry c)

/-- R92: the plant time and the day types as READ CLOCK gives them, of one second: the carries of that second made. -/
def State.carried (s : State) : State := State.carriedBy s.carriesDue s

/-- The state with `k` new minutes taken, each with what it calls for. -/
def State.minutesTaken : Nat → State → State
  | 0, s => s
  | k + 1, s =>
    match s.clock with
    | none => s
    | some c => State.minutesTaken k (s.newMinute c)

/-- R90: the second that is taken before a setting is taken whole: its new minute or midnight comes before the setting. -/
def State.secondTaken (s : State) : State := State.minutesTaken s.carriesDue s

end Sys2Proof.Machine
end

