-- ==== Sys2Proof/Machine/Operands.lean ====
section
/-! DEFINITION. Operand forms: how parameter bytes name loads, links, plans and settings, and how values are clamped. -/

namespace Sys2Proof.Machine

/-- A timing or tuning value clamped to its range (00_scope.md, Refusal and clamping). -/
def clamp (low high n : Nat) : Nat := min high (max low n)

/-- A load number outside the table (R9, R11, R13 and others answer BAD VALUE). -/
def badLoad (b : Byte) : Bool := decide (239 < b.toNat)

/-- A drop address outside 1 to 60. -/
def badAddress (b : Byte) : Bool := b == 0 || decide (60 < b.toNat)

/-- An inrush weight outside 1 to 15. -/
def badWeight (b : Byte) : Bool := b == 0 || decide (15 < b.toNat)

/-- A line byte as a line; used once the byte has been found to be within 0 to 3. -/
def lineOf (b : Byte) : Fin 4 := Fin.ofNat 4 b.toNat

/-- A feeder byte as a feeder; used once the byte has been found to be within 0 to 7. -/
def feederOf (b : Byte) : Fin 8 := Fin.ofNat 8 b.toNat

/-- Section 1.5: a link is absent when its group byte is 255. -/
def absent (b : Byte) : Bool := b == 255

/-- R13 step 2: a group byte of 16 to 254. -/
def badGroupByte (b : Byte) : Bool := decide (15 < b.toNat) && !absent b

/-- The provides link of LINK LOAD's parameters. -/
def providesOf (group rank capacity : Byte) : Option Provides :=
  if absent group then none else some { group := group.toNat, rank := rank.toNat, capacity := capacity.toNat }

/-- A draws link of LINK LOAD's parameters. -/
def drawsOf (group demand : Byte) : Option Draws :=
  if absent group then none else some { group := group.toNat, demand := demand.toNat }

/-- The clamped tuning that TUNE LOAD writes (R3, R11). -/
def clampedTuning (tl th : Nat) (k sw cf : Byte) (delay : Nat) (mr mo : Byte) (sv tv : Nat) (bt : Byte) : Tuning :=
  { idleEnter := tl
    idleLeave := th
    smoothing := clamp 0 7 k.toNat
    strokeWeight := clamp 0 15 sw.toNat
    currentFloor := clamp 0 250 cf.toNat
    idleDelay := clamp 1 720 delay
    minimumRun := clamp 0 255 mr.toNat
    minimumOff := clamp 0 255 mo.toNat
    stopVerify := clamp 10 1800 sv
    startVerify := clamp 2 300 tv
    buttonTime := clamp 1 240 bt.toNat }

/-- R3: the tuning a record takes at enrolment. -/
def defaultTuning : Tuning :=
  { idleEnter := 100, idleLeave := 200, smoothing := 3, strokeWeight := 4, currentFloor := 20, idleDelay := 30,
    minimumRun := 10, minimumOff := 5, stopVerify := 300, startVerify := 60, buttonTime := 60 }

/-- R10: a record at enrolment, at time-base second `now`. -/
def newRecord (line : Fin 4) (address : Nat) (feeder : Fin 8) (weight now : Nat) : LoadRecord :=
  { line := line
    address := address
    feeder := feeder
    weight := weight
    tuning := defaultTuning
    provides := none
    drawsA := none
    drawsB := none
    membership := none
    state := .unknown
    commanded := .run
    startCount := 0
    buttonTaken := 0
    runSince := now
    offSince := now
    blockReason := .none
    portStop := none
    lastRun := none
    retireExchanges := 0
    level := 200
    idleClock := 0
    baseline := none
    figures := PeriodFigures.empty
    missCount := 0
    lastOutcome := none
    buttonHold := none
    isolatorHold := false
    verifyEnd := none }

end Sys2Proof.Machine
end

