-- ==== Sys2Proof/Machine/Answers.lean ====
section
/-! DEFINITION. The byte layouts of the answers (chapter 11 and the rules of the READ commands). -/

namespace Sys2Proof.Machine

/-- R173: the code of a record state. -/
def LoadState.code : LoadState → Byte
  | .unknown => 0
  | .run => 1
  | .idle => 2
  | .due => 3
  | .stopping => 4
  | .stopped => 5
  | .queued => 6
  | .starting => 7
  | .inLocal => 8
  | .fault => 9
  | .retiring => 10

/-- R173: the code of a slot's state, VACANT coded 255. -/
def State.slotCode (s : State) (n : Nat) : Byte :=
  match s.stateOf n with
  | some st => st.code
  | none => 255

/-- R173: the code of a block reason. -/
def BlockReason.code : BlockReason → Byte
  | .none => 0
  | .authority => 1
  | .hold => 2
  | .minRun => 3
  | .supply => 4
  | .pacing => 5

/-- R173: the code of a run state. -/
def RunState.code : RunState → Byte
  | .stopped => 0
  | .running => 1
  | .accelerating => 2
  | .coasting => 3

/-- R173: the code of an outcome's operation. -/
def Operation.code : Operation → Byte
  | .stop => 1
  | .start => 2
  | .retire => 3

/-- R173: the code of an outcome's result. -/
def OpResult.code : OpResult → Byte
  | .completed => 0
  | .declined => 1
  | .timedOut => 2
  | .overtaken => 3
  | .cancelled => 4
  | .lost => 5
  | .aborted => 6
  | .missed => 7

/-- R173, R174: a plant time in three bytes, day 255 and minute 0 for "clock unset". -/
def stampBytes (t : Option Stamp) : List Byte :=
  match t with
  | some x => byte x.day.val :: be16 x.minute
  | none => [255, 0, 0]

/-- R173: the five bytes of an outcome, all 0 when it is absent. -/
def outcomeBytes (o : Option Outcome) : List Byte :=
  match o with
  | some x => x.operation.code :: x.result.code :: stampBytes x.time
  | none => [0, 0, 0, 0, 0]

/-- R173: bytes 6 to 21 of READ LOAD. -/
def Tuning.bytes (t : Tuning) : List Byte :=
  be16 t.idleEnter ++ be16 t.idleLeave ++ [byte t.smoothing, byte t.strokeWeight, byte t.currentFloor]
    ++ be16 t.idleDelay ++ [byte t.minimumRun, byte t.minimumOff] ++ be16 t.stopVerify ++ be16 t.startVerify
    ++ [byte t.buttonTime]

/-- R173: bytes 22 to 28 of READ LOAD. The bytes that follow an absent link's group byte are free (log entry 5). -/
def LoadRecord.linkBytes (r : LoadRecord) (choice : Nat) : List Byte :=
  (match r.provides with
    | some p => [byte p.group, byte p.rank, byte p.capacity]
    | none => [255, Config.absentByte choice 23, Config.absentByte choice 24])
  ++ (match r.drawsA with
    | some d => [byte d.group, byte d.demand]
    | none => [255, Config.absentByte choice 26])
  ++ (match r.drawsB with
    | some d => [byte d.group, byte d.demand]
    | none => [255, Config.absentByte choice 28])

/-- R173: bytes 29 and 30 of READ LOAD. The byte that follows an absent plan byte is free (log entry 5). -/
def membershipBytes (m : Option Membership) (choice : Nat) : List Byte :=
  match m with
  | some x => [byte x.plan, byte x.ordinal]
  | none => [255, Config.absentByte choice 30]

/-- R173: byte 44 of READ LOAD. -/
def lastRunByte (x : Option RunState) : Byte :=
  match x with
  | some y => y.code
  | none => 255

/-- R173: bytes 50 to 55 of READ LOAD. -/
def LoadRecord.figureBytes (r : LoadRecord) : List Byte :=
  (match r.baseline with
    | some b => be16 b.toNat
    | none => be16 65535)
  ++ be16 r.figures.strokeSum ++ [byte (r.figures.largest.getD 255), flagByte r.figures.seen]

/-- R173: the 64 data bytes of READ LOAD for a live record; `choice` is the choice counter the free bytes are read at.
A button hold counted down to 0 whose expiry row has not been taken reads 0, the code of absent (DESIGN CHOICE, log entry 9). -/
def LoadRecord.bytes (n : Nat) (r : LoadRecord) (choice : Nat) : List Byte :=
  [byte n, r.state.code, byte r.line.val, byte r.address, byte r.feeder.val, byte r.weight]
    ++ r.tuning.bytes ++ r.linkBytes choice ++ membershipBytes r.membership choice
    ++ [r.commanded.code.setWidth 8, r.startCount.setWidth 8, r.buttonTaken.setWidth 8]
    ++ be32 r.runSince ++ be32 r.offSince
    ++ [r.blockReason.code, byte (r.portStop.getD 0), lastRunByte r.lastRun, byte r.retireExchanges]
    ++ be16 r.level ++ be16 r.idleClock ++ r.figureBytes
    ++ [byte r.missCount, byte (r.buttonHold.getD 0), flagByte r.isolatorHold]
    ++ outcomeBytes r.lastOutcome

/-- R173: the 7 data bytes of READ LOAD for a VACANT slot. -/
def vacantBytes (n : Nat) (o : Option Outcome) : List Byte := [byte n, 255] ++ outcomeBytes o

/-- R174: the eight bytes of a port hold. A hold counted down to 0 whose expiry row has not been taken answers its 0, the code
of absent (DESIGN CHOICE, log entry 9). -/
def PortHold.bytes (number : Nat) (h : PortHold) : List Byte :=
  (match h.sense with
    | .keepRun l => [byte number, 0, byte l]
    | .keepOff => [byte number, 1, 0])
  ++ be16 (h.remaining.getD 0) ++ stampBytes h.placedAt

/-- R85, R174: the data of READ HOLDS. R85 gives a present hold 1 to 1440 minutes, or 1 to 240, or absent; a hold that HOLD_MINUTE has
counted down to 0 and whose expiry row has not been taken is still in the answer, with remaining minutes 0: a port hold then
reads as one until released and a button hold as absent (DESIGN CHOICE, log entry 9). -/
def State.holdsAnswer (s : State) (n : Nat) (r : LoadRecord) : List Byte :=
  [byte (s.holdsOn n).length] ++ (s.holdsOn n).flatMap (fun e => e.2.bytes e.1)
    ++ [byte (r.buttonHold.getD 0), flagByte r.isolatorHold]

/-- R174: the code of a group state. -/
def GroupState.code : GroupState → Byte
  | .normal => 0
  | .raising _ => 1
  | .short => 2

/-- R174: the byte of a group's raised provider, 255 when absent. -/
def GroupState.raisedByte : GroupState → Byte
  | .raising p => byte p
  | .normal => 255
  | .short => 255

/-- R174: the six bytes of a provider. -/
def Provider.bytes (x : Group) (p : Provider) : List Byte :=
  [byte p.load, byte p.rank, byte p.capacity, p.state.code, flagByte p.supplying, flagByte (x.failed.contains p.load)]

/-- R119, R174: the data of READ GROUP. -/
def State.groupAnswer (s : State) (g : Nat) (x : Group) : List Byte :=
  [byte x.margin, x.state.code, x.state.raisedByte]
    ++ be16 (s.demand g) ++ be16 (s.capacity g) ++ be32 (s.required g)
    ++ [byte (s.consumers g).length, byte ((s.consumers g).filter (fun c => c.state == .queued)).length,
        byte (s.providers g).length]
    ++ (s.providers g).flatMap (Provider.bytes x)

/-- R132: the code of a wait reason. -/
def WaitReason.code : WaitReason → Byte
  | .none => 0
  | .rest => 1
  | .feeder => 2
  | .budget => 3
  | .supply => 4

/-- R132: the three bytes of a feeder. -/
def State.feederBytes (s : State) (f : Feeder) : List Byte :=
  match f with
  | .free => [0, 255, 0]
  | .starting n => [1, byte n, 0]
  | .settling ends => [2, 255, byte (ends - s.timeBase)]

/-- R132: the eleven bytes of an entry. -/
def Entry.bytes (e : Entry) : List Byte :=
  [byte e.load, byte e.cls.order, e.reason.code] ++ be32 e.sequence.toNat ++ be32 e.queuedAt

/-- R132: the data of READ QUEUE. -/
def State.queueAnswer (s : State) : List Byte :=
  [byte s.queue.length, byte s.startingSum, byte s.inrushLimit, byte s.settleTime]
    ++ s.feeders.toList.flatMap s.feederBytes ++ s.queue.flatMap Entry.bytes

/-- R92: the plant time and the day types of READ CLOCK. -/
def State.timeBytes (s : State) : List Byte :=
  match s.clock, s.todayType with
  | some c, some t =>
    [1, byte c.day.val] ++ be16 c.minute ++ [byte c.second, byte t.code]
      ++ [match s.todayOverride with
          | some o => byte o.code
          | none => 255]
      ++ [byte s.yesterday.code]
  | _, _ => [0, 0, 0, 0, 0, 255, 255, 255]

/-- R92: the nineteen data bytes of READ CLOCK, all of one second. -/
def State.clockAnswer (s : State) : List Byte :=
  s.carried.timeBytes ++ s.dayMap.toList.map (fun t => byte t.code) ++ be32 s.timeBase

/-- R166: the seconds until the last running wake guard ends, 0 if none runs. -/
def State.guardSeconds (s : State) : Nat :=
  (s.plans.map (fun e => match e.2.guardEnd with | some t => t - s.timeBase | none => 0)).foldr max 0

/-- R166: the source of the plant authority. -/
def State.authoritySource (s : State) : Byte :=
  if s.clock = none then 0 else if s.guarded = true then 1 else 2

/-- R166: the number of DUE records, and of those whose block reason is AUTHORITY. -/
def State.dueCount (s : State) : Nat := (s.loads.filter (fun e => e.2.state == .due)).length

/-- R166: the number of DUE records whose block reason is AUTHORITY. -/
def State.dueOnAuthority (s : State) : Nat :=
  (s.loads.filter (fun e => e.2.state == .due && e.2.blockReason == .authority)).length

/-- R166: the two bytes of a covering window, with 128 added to the type byte of a tail. -/
def Cover.bytes (c : Cover) : List Byte := [byte (c.type.code + if c.tail then 128 else 0), byte c.number]

/-- R166: the data of READ AUTHORITY. -/
def State.authorityAnswer (s : State) : List Byte :=
  [byte s.authority, s.authoritySource, byte s.windowAuthority] ++ be16 s.guardSeconds
    ++ [byte s.dueCount, byte s.dueOnAuthority, byte s.covering.length] ++ s.covering.flatMap Cover.bytes

/-- R142: the code of a set plan's state. -/
def PlanState.code : PlanState → Byte
  | .waiting => 1
  | .active => 2
  | .done => 3

/-- R142: the twenty data bytes of READ WAKE PLAN. -/
def State.planAnswer (s : State) (p : Nat) : List Byte :=
  match s.plan p with
  | none => [0, 0, 0, 0, 0, 0, 0, 0, 255] ++ be32 0 ++ [0] ++ be16 0 ++ [byte (s.members p).length] ++ be24 0
  | some x =>
    [x.state.code, x.mask.setWidth 8] ++ be16 x.start ++ be16 x.spacing ++ [byte x.bits, byte x.guard]
      ++ [match x.activationDay with
          | some d => byte d.val
          | none => 255]
      ++ be32 (x.activationSecond.getD 0) ++ [byte x.cursor]
      ++ be16 (match x.guardEnd with
          | some t => t - s.timeBase
          | none => 0)
      ++ [byte (s.members p).length]
      ++ be24 (if x.state = .active then x.nextFall - s.timeBase else 0)

/-- R155: the data of READ LINE. -/
def State.lineAnswer (s : State) (l : Fin 4) : List Byte :=
  let x := s.lineAt l
  [flagByte x.enabled] ++ be16 x.divisor
    ++ [byte x.replyWindow, byte x.lossCount, byte (s.ring l).length, byte x.cursor, byte x.pass, byte x.urgent.length]
    ++ [byte x.silent, byte x.framing, byte x.check, byte x.stray, flagByte x.overflow, byte x.lost.length]
    ++ x.lost.map byte

/-- R164: the twelve data bytes of IDENTIFY. -/
def identity : List Byte :=
  be16 Config.vendorCode ++ be16 Config.partCode
    ++ [byte Config.revision, byte Config.loadSlots, byte Config.holdEntries, byte Config.groupEntries,
        byte Config.queueEntries, byte Config.wakePlans, 8, 4]

/-- R170: 1 if the part is in its first minute after a hardware reset with no SET CLOCK yet taken. The clock is UNSET
exactly until the first SET CLOCK that is taken (R89). -/
def State.firstMinute (s : State) : Bool := decide (s.timeBase < 60) && s.clock.isNone

/-- R170: the nine data bytes of READ ATTENTION. -/
def State.attentionAnswer (s : State) : List Byte :=
  [s.attentionFlags.setWidth 8, s.mask.setWidth 8] ++ be16 s.marks.length
    ++ [byte s.faultCount, byte s.shortCount, byte s.lostCount, byte s.overflowCount, flagByte s.firstMinute]

end Sys2Proof.Machine
end

