-- ==== Sys2Proof/Machine/ClockCommands.lean ====
section
/-! DEFINITION. The meanings of the plant clock commands (chapter 5 and R166): SET_CLOCK to READ_AUTHORITY. -/

namespace Sys2Proof.Machine

/-- R90: the clock is set; at a change of day, or from UNSET, the override goes and yesterday's type is the map's entry for
the day before, and at a change of day the DONE plans of other days become WAITING (R137). -/
def State.clockSet (s : State) (c : PlantClock) : State :=
  match s.clock with
  | none => { s with clock := some c, todayOverride := none, yesterday := s.dayMap[(c.day - 1 : Fin 7)] }
  | some old =>
    if old.day = c.day then { s with clock := some c }
    else
      { s with
        clock := some c
        todayOverride := none
        yesterday := s.dayMap[(c.day - 1 : Fin 7)]
        plans := Table.mapEach (fun _ x => x.daySet c.day) s.plans }

/-- R137: the plans a setting activates: only a forward setting within the day activates any. -/
def State.plansAtSetting (s : State) (c : PlantClock) : List Nat :=
  match s.clock with
  | none => []
  | some old => if old.day = c.day then (s.clockSet c).plansPassed old.minute c.minute else []

/-- R90: the part after a setting of the clock, with the recomputation and the activations it calls for. -/
def State.setTheClock (s : State) (c : PlantClock) : Reply :=
  taken (s.clockSet c) (.recompute :: (s.plansAtSetting c).map Work.activate)

/-- SET CLOCK, code 48 (R90, R91, R137). -/
def setClock (params : List Byte) (s : State) : Reply :=
  match params with
  | [d, mh, ml, sec] =>
    if 6 < d.toNat ∨ 1439 < word16 mh ml ∨ 59 < sec.toNat then refuse s .badValue
    else s.setTheClock { day := Fin.ofNat 7 d.toNat, minute := word16 mh ml, second := sec.toNat }
  | _ => refuse s .badLength

/-- R90: the parameters of a SET CLOCK that is taken. -/
def settingTaken (params : List Byte) : Bool :=
  match params with
  | [d, mh, ml, sec] => decide (d.toNat ≤ 6) && decide (word16 mh ml ≤ 1439) && decide (sec.toNat ≤ 59)
  | _ => false

/-- SET_CLOCK (R90): a setting that is taken comes after the second before it, whole (log entry 7). -/
def execSetClock (s : State) : Host.Outcome State Fault Refusal :=
  match s.commandParams 0x30 with
  | none => .next s
  | some params => .next ((if settingTaken params = true then s.secondTaken else s).runCommand 0x30 setClock)

/-- READ CLOCK, code 49 (R92). -/
def readClock (params : List Byte) (s : State) : Reply :=
  match params with
  | [] => answerWith s s.clockAnswer
  | _ => refuse s .badLength

/-- READ_CLOCK (R92). -/
def execReadClock (s : State) : Host.Outcome State Fault Refusal := .next (s.runCommand 0x31 readClock)

/-- SET DAY MAP, code 50 (R93). -/
def setDayMap (params : List Byte) (s : State) : Reply :=
  match params with
  | [a, b, c, d, e, f, g] =>
    match DayType.ofCode a.toNat, DayType.ofCode b.toNat, DayType.ofCode c.toNat, DayType.ofCode d.toNat,
      DayType.ofCode e.toNat, DayType.ofCode f.toNat, DayType.ofCode g.toNat with
    | some t0, some t1, some t2, some t3, some t4, some t5, some t6 =>
      taken { s with dayMap := #v[t0, t1, t2, t3, t4, t5, t6] } [.recompute]
    | _, _, _, _, _, _, _ => refuse s .badValue
  | _ => refuse s .badLength

/-- SET_DAY_MAP (R93). -/
def execSetDayMap (s : State) : Host.Outcome State Fault Refusal := .next (s.runCommand 0x32 setDayMap)

/-- OVERRIDE TODAY, code 51 (R94). -/
def overrideToday (params : List Byte) (s : State) : Reply :=
  match params with
  | [t] =>
    if 2 < t.toNat ∧ absent t = false then refuse s .badValue
    else if s.clock = none then refuse s .wrongState
    else taken { s with todayOverride := DayType.ofCode t.toNat } [.recompute]
  | _ => refuse s .badLength

/-- OVERRIDE_TODAY (R94). -/
def execOverrideToday (s : State) : Host.Outcome State Fault Refusal := .next (s.runCommand 0x33 overrideToday)

/-- SET WINDOW, code 52 (R95). -/
def setWindow (params : List Byte) (s : State) : Reply :=
  match params with
  | [t, w, sh, sl, eh, el, a] =>
    match DayType.ofCode t.toNat with
    | none => refuse s .badValue
    | some ty =>
      if 5 < w.toNat ∨ 3 < a.toNat then refuse s .badValue
      else
        taken
          { s with
            windows :=
              s.windows.set (windowIndex ty w.toNat)
                { start := clamp 0 1439 (word16 sh sl), stop := clamp 0 1439 (word16 eh el), authority := a.toNat } }
          [.recompute]
  | _ => refuse s .badLength

/-- SET_WINDOW (R95). -/
def execSetWindow (s : State) : Host.Outcome State Fault Refusal := .next (s.runCommand 0x34 setWindow)

/-- READ AUTHORITY, code 53 (R166). -/
def readAuthority (params : List Byte) (s : State) : Reply :=
  match params with
  | [] => answerWith s s.authorityAnswer
  | _ => refuse s .badLength

/-- READ_AUTHORITY (R166). -/
def execReadAuthority (s : State) : Host.Outcome State Fault Refusal := .next (s.runCommand 0x35 readAuthority)

end Sys2Proof.Machine
end

