-- ==== Sys2Proof/Machine/GroupCommands.lean ====
section
/-! DEFINITION. The meanings of the supply group commands (chapter 6): DEFINE_GROUP, REMOVE_GROUP and READ_GROUP. -/

namespace Sys2Proof.Machine

/-- R103: a group as it is defined. -/
def newGroup (margin : Nat) : Group := { margin := margin, state := .normal, failed := [] }

/-- DEFINE GROUP, code 40 (R103). -/
def defineGroup (params : List Byte) (s : State) : Reply :=
  match params with
  | [g, margin] =>
    if 15 < g.toNat then refuse s .badValue
    else
      match s.group g.toNat with
      | none => taken { s with groups := Table.put s.groups g.toNat (newGroup (clamp 0 50 margin.toNat)) } []
      | some x =>
        taken { s with groups := Table.put s.groups g.toNat { x with margin := clamp 0 50 margin.toNat } } []
  | _ => refuse s .badLength

/-- DEFINE_GROUP (R103). -/
def execDefineGroup (s : State) : Host.Outcome State Fault Refusal := .next (s.runCommand 0x28 defineGroup)

/-- R104: a present link of this record names group `g`. -/
def LoadRecord.namesGroup (r : LoadRecord) (g : Nat) : Bool :=
  r.provides.any (fun p => p.group == g) || r.drawsA.any (fun d => d.group == g) || r.drawsB.any (fun d => d.group == g)

/-- REMOVE GROUP, code 41 (R104). -/
def removeGroup (params : List Byte) (s : State) : Reply :=
  match params with
  | [g] =>
    if 15 < g.toNat then refuse s .badValue
    else
      match s.group g.toNat with
      | none => refuse s .noSuch
      | some _ =>
        if s.loads.any (fun e => e.2.namesGroup g.toNat) = true then refuse s .wrongState
        else taken { s with groups := Table.drop s.groups g.toNat } []
  | _ => refuse s .badLength

/-- REMOVE_GROUP (R104). -/
def execRemoveGroup (s : State) : Host.Outcome State Fault Refusal := .next (s.runCommand 0x29 removeGroup)

/-- READ GROUP, code 42 (R119). -/
def readGroup (params : List Byte) (s : State) : Reply :=
  match params with
  | [g] =>
    if 15 < g.toNat then refuse s .badValue
    else
      match s.group g.toNat with
      | none => refuse s .noSuch
      | some x => answerWith s (s.groupAnswer g.toNat x)
  | _ => refuse s .badLength

/-- READ_GROUP (R119). -/
def execReadGroup (s : State) : Host.Outcome State Fault Refusal := .next (s.runCommand 0x2A readGroup)

end Sys2Proof.Machine
end

