-- ==== Sys2Proof/Machine/OperationCommands.lean ====
section
/-! DEFINITION. The meanings of the operation commands (sections 3.9, 3.11 and 7.4): START_LOAD to READ_QUEUE. -/

namespace Sys2Proof.Machine

/-- A command with one parameter byte, a load number, on a live record: BAD LENGTH, BAD VALUE and NO SUCH, in that
order, and then the command's own rule. -/
def onLoad (body : Nat → LoadRecord → State → Reply) (params : List Byte) (s : State) : Reply :=
  match params with
  | [n] =>
    if badLoad n then refuse s .badValue
    else
      match s.load n.toNat with
      | none => refuse s .noSuch
      | some r => body n.toNat r s
  | _ => refuse s .badLength

/-- R69: START LOAD on a live record, by its state. -/
def startLoadBody (n : Nat) (r : LoadRecord) (s : State) : Reply :=
  match r.state with
  | .stopped =>
    match s.startOffer n with
    | .entered => taken (s.enqueue n .call) []
    | .full => refuse s .full
    | .barred => refuse s .wrongState
  | .run | .idle | .due | .queued | .starting => taken s []
  | .stopping | .unknown | .inLocal | .fault | .retiring => refuse s .wrongState

/-- START_LOAD, code 24 (R69). -/
def execStartLoad (s : State) : Host.Outcome State Fault Refusal := .next (s.runCommand 0x18 (onLoad startLoadBody))

/-- R70: STOP LOAD of authority `a` on a live record, by its state. -/
def stopLoadBody (n a : Nat) (r : LoadRecord) (s : State) : Reply :=
  match r.state with
  | .run | .idle => taken ((s.setLoad n { r with portStop := some a }).moveTo n .due none) [.evaluate n]
  | .due => taken (s.setLoad n { r with portStop := some a }) [.evaluate n]
  | .stopped | .stopping => taken s []
  | .unknown | .queued | .starting | .inLocal | .fault | .retiring => refuse s .wrongState

/-- STOP LOAD, code 25 (R70). -/
def stopLoad (params : List Byte) (s : State) : Reply :=
  match params with
  | [n, a] =>
    if badLoad n || a == 0 || decide (3 < a.toNat) then refuse s .badValue
    else
      match s.load n.toNat with
      | none => refuse s .noSuch
      | some r => stopLoadBody n.toNat a.toNat r s
  | _ => refuse s .badLength

/-- STOP_LOAD (R70). -/
def execStopLoad (s : State) : Host.Outcome State Fault Refusal := .next (s.runCommand 0x19 stopLoad)

/-- R71: CANCEL STOP on a live record. -/
def cancelStopBody (n : Nat) (r : LoadRecord) (s : State) : Reply :=
  if r.portStop = none then taken s []
  else
    let s1 := s.setLoad n { r with portStop := none }
    if r.state = .due then
      if idleReached r.idleClock s.period r = true then taken s1 [.evaluate n]
      else if r.tuning.idleLeave ≤ r.level then taken (s1.moveTo n .run none) []
      else taken (s1.moveTo n .idle none) []
    else taken s1 []

/-- CANCEL_STOP, code 26 (R71). -/
def execCancelStop (s : State) : Host.Outcome State Fault Refusal := .next (s.runCommand 0x1A (onLoad cancelStopBody))

/-- R67: CLEAR FAULT on a live record. -/
def clearFaultBody (n : Nat) (r : LoadRecord) (s : State) : Reply :=
  if r.state = .fault then taken (s.moveTo n .unknown none) [] else refuse s .wrongState

/-- CLEAR_FAULT, code 27 (R67). -/
def execClearFault (s : State) : Host.Outcome State Fault Refusal := .next (s.runCommand 0x1B (onLoad clearFaultBody))

/-- R131: CANCEL START on a live record; one not in QUEUED is answered NO SUCH. -/
def cancelStartBody (n : Nat) (r : LoadRecord) (s : State) : Reply :=
  if r.state = .queued then taken (s.moveTo n .stopped (some (.start, .cancelled))) [] else refuse s .noSuch

/-- CANCEL_START, code 28 (R131). -/
def execCancelStart (s : State) : Host.Outcome State Fault Refusal :=
  .next (s.runCommand 0x1C (onLoad cancelStartBody))

/-- READ QUEUE, code 29 (R132). -/
def readQueue (params : List Byte) (s : State) : Reply :=
  match params with
  | [] => answerWith s s.queueAnswer
  | _ => refuse s .badLength

/-- READ_QUEUE (R132). -/
def execReadQueue (s : State) : Host.Outcome State Fault Refusal := .next (s.runCommand 0x1D readQueue)

end Sys2Proof.Machine
end

