-- ==== Sys2Proof/Machine/HoldCommands.lean ====
section
/-! DEFINITION. The meanings of the hold commands (chapter 4): PLACE_HOLD to READ_HOLDS. -/

namespace Sys2Proof.Machine

/-- R74: the sense and level of PLACE HOLD's parameters; for KEEP-OFF the level byte is ignored. -/
def senseOf (sense level : Byte) : HoldSense := if sense = 0 then .keepRun level.toNat else .keepOff

/-- R74: the remaining minutes of an expiry: 0 means until released, and above 1440 is clamped to 1440. -/
def remainingOf (expiry : Nat) : Option Nat := if expiry = 0 then none else some (min 1440 expiry)

/-- PLACE HOLD, code 32 (R74, R75). -/
def placeHold (params : List Byte) (s : State) : Reply :=
  match params with
  | [n, sense, level, eh, el] =>
    if badLoad n || decide (1 < sense.toNat) || (sense == 0 && (level == 0 || decide (3 < level.toNat))) then
      refuse s .badValue
    else
      match s.load n.toNat with
      | none => refuse s .noSuch
      | some r =>
        if r.state = .retiring then refuse s .wrongState
        else if Config.holdsPerLoad ≤ (s.holdsOn n.toNat).length then refuse s .full
        else
          match s.freeHold with
          | none => refuse s .full
          | some number =>
            (s.placePortHold number
              { load := n.toNat, sense := senseOf sense level, remaining := remainingOf (word16 eh el),
                placedAt := s.stamp }).reply [byte number]
  | _ => refuse s .badLength

/-- PLACE_HOLD (R74). -/
def execPlaceHold (s : State) : Host.Outcome State Fault Refusal := .next (s.runCommand 0x20 placeHold)

/-- RELEASE HOLD, code 33 (R76). -/
def releaseHold (params : List Byte) (s : State) : Reply :=
  match params with
  | [number] =>
    if 95 < number.toNat then refuse s .badValue
    else
      match Table.find s.holds number.toNat with
      | none => refuse s .noSuch
      | some h => (s.removePortHold number.toNat h).reply []
  | _ => refuse s .badLength

/-- RELEASE_HOLD (R76). -/
def execReleaseHold (s : State) : Host.Outcome State Fault Refusal := .next (s.runCommand 0x21 releaseHold)

/-- R78: RELEASE BUTTON HOLD on a live record; one without a button hold is answered NO SUCH. -/
def releaseButtonHoldBody (n : Nat) (r : LoadRecord) (s : State) : Reply :=
  if r.buttonHold = none then refuse s .noSuch else (s.removeButtonHold n r).reply []

/-- RELEASE_BUTTON_HOLD, code 34 (R78). -/
def execReleaseButtonHold (s : State) : Host.Outcome State Fault Refusal :=
  .next (s.runCommand 0x22 (onLoad releaseButtonHoldBody))

/-- R85: READ HOLDS on a live record. -/
def readHoldsBody (n : Nat) (r : LoadRecord) (s : State) : Reply := answerWith s (s.holdsAnswer n r)

/-- READ_HOLDS, code 35 (R85). -/
def execReadHolds (s : State) : Host.Outcome State Fault Refusal := .next (s.runCommand 0x23 (onLoad readHoldsBody))

end Sys2Proof.Machine
end

