-- ==== Sys2Proof/Machine/LineCommands.lean ====
section
/-! DEFINITION. The meanings of the line commands and of the lines' own events (chapter 9): SET_LINE, READ_LINE,
EXCHANGE_START, REPLY_WINDOW_EXPIRY and REPLY_END. -/

namespace Sys2Proof.Machine

/-- SET LINE, code 64 (R144, R145, R146). -/
def setLine (params : List Byte) (s : State) : Reply :=
  match params with
  | [l, enable, dh, dl, window, loss] =>
    if 3 < l.toNat ∨ 1 < enable.toNat then refuse s .badValue
    else
      taken
        (s.writeLine (lineOf l) (enable == 1) (clamp 1 1023 (word16 dh dl)) (clamp 2 63 window.toNat)
          (clamp 1 15 loss.toNat))
        []
  | _ => refuse s .badLength

/-- SET_LINE (R144). -/
def execSetLine (s : State) : Host.Outcome State Fault Refusal := .next (s.runCommand 0x40 setLine)

/-- R155: a line with its counters and its overflow flag cleared. -/
def Line.cleared (x : Line) : Line :=
  { x with silent := 0, framing := 0, check := 0, stray := 0, overflow := false }

/-- READ LINE, code 65 (R155): the answer is formed, then the counters and the overflow flag clear. -/
def readLine (params : List Byte) (s : State) : Reply :=
  match params with
  | [l] =>
    if 3 < l.toNat then refuse s .badValue
    else answerWith (s.setLine (lineOf l) (s.lineAt (lineOf l)).cleared) (s.lineAnswer (lineOf l))
  | _ => refuse s .badLength

/-- READ_LINE (R155). -/
def execReadLine (s : State) : Host.Outcome State Fault Refusal := .next (s.runCommand 0x41 readLine)

/-- EXCHANGE_START (R149, R152, R153): on a line that is off or has an exchange in flight, or with nothing to poll, no
exchange begins. -/
def execExchangeStart (l : Fin 4) (s : State) : Host.Outcome State Fault Refusal := .next (s.startExchange l)

/-- REPLY_WINDOW_EXPIRY (R149, R150, R151): no start bit arrived; the exchange in flight fails as SILENT. -/
def execReplyWindowExpiry (l : Fin 4) (s : State) : Host.Outcome State Fault Refusal :=
  .next (s.runEvent { state := s.endExchange l [], work := [] })

/-- REPLY_END (R147, R149, R150, R151): the reply to the exchange in flight has ended with the characters of these samples.
Samples that hold no character end the exchange as SILENT (log entry 29). -/
def execReplyEnd (l : Fin 4) (samples : List (BitVec 11)) (s : State) : Host.Outcome State Fault Refusal :=
  .next (s.runEvent { state := s.endExchange l (receivedChars samples), work := [] })

end Sys2Proof.Machine
end

