-- ==== Sys2Proof/Machine/LoadCommands.lean ====
section
/-! DEFINITION. The meanings of the load table's commands (chapter 1): ENROL_LOAD to LIST_CHANGED. -/

namespace Sys2Proof.Machine

/-- R10: the record is created, the slot outcome becomes absent and the mark is set. The drop address joins the poll ring
with the record (R152). -/
def State.enrol (s : State) (n : Nat) (line : Fin 4) (address : Nat) (feeder : Fin 8) (weight : Nat) : State :=
  (({ s with slotOutcomes := Table.drop s.slotOutcomes n } : State).setLoad n
    (newRecord line address feeder weight s.timeBase)).mark n

/-- ENROL LOAD, code 16 (R9, R10). -/
def enrolLoad (params : List Byte) (s : State) : Reply :=
  match params with
  | [n, line, address, feeder, weight] =>
    if badLoad n || decide (3 < line.toNat) || badAddress address || decide (7 < feeder.toNat) || badWeight weight then
      refuse s .badValue
    else
      match s.stateOf n.toNat with
      | some .retiring => refuse s .wrongState
      | some _ => refuse s .conflict
      | none =>
        if (s.findDrop (lineOf line) address.toNat).isSome then refuse s .conflict
        else taken (s.enrol n.toNat (lineOf line) address.toNat (feederOf feeder) weight.toNat) []
  | _ => refuse s .badLength

/-- ENROL_LOAD (R9). -/
def execEnrolLoad (s : State) : Host.Outcome State Fault Refusal := .next (s.runCommand 0x10 enrolLoad)

/-- R12: what a TUNE LOAD that is taken calls for: a DUE record whose minimum run has changed is evaluated, and the arbiter
examines the queue for a QUEUED record whose minimum off, feeder or inrush weight has changed. -/
def tuneWork (n : Nat) (old new : LoadRecord) : List Work :=
  (if old.state = .due ∧ old.tuning.minimumRun ≠ new.tuning.minimumRun then [.evaluate n] else [])
    ++ (if old.state = .queued
            ∧ (old.tuning.minimumOff ≠ new.tuning.minimumOff ∨ old.feeder ≠ new.feeder ∨ old.weight ≠ new.weight) then
          [.examine] else [])

/-- TUNE LOAD, code 17 (R11, R12). -/
def tuneLoad (params : List Byte) (s : State) : Reply :=
  match params with
  | [n, feeder, weight, tlh, tll, thh, thl, k, sw, cf, idh, idl, mr, mo, svh, svl, tvh, tvl, bt] =>
    if badLoad n || decide (7 < feeder.toNat) || badWeight weight || decide (word16 thh thl ≤ word16 tlh tll) then
      refuse s .badValue
    else
      match s.load n.toNat with
      | none => refuse s .noSuch
      | some r =>
        if r.state = .starting ∧ (r.feeder ≠ feederOf feeder ∨ r.weight ≠ weight.toNat) then refuse s .wrongState
        else
          let r' :=
            { r with
              feeder := feederOf feeder
              weight := weight.toNat
              tuning := clampedTuning (word16 tlh tll) (word16 thh thl) k sw cf (word16 idh idl) mr mo
                (word16 svh svl) (word16 tvh tvl) bt }
          taken (s.setLoad n.toNat r') (tuneWork n.toNat r r')
  | _ => refuse s .badLength

/-- TUNE_LOAD (R11). -/
def execTuneLoad (s : State) : Host.Outcome State Fault Refusal := .next (s.runCommand 0x11 tuneLoad)

/-! ### Links -/

/-- The groups that the links of LINK LOAD's parameters name. -/
def namedGroups (p : Option Provides) (a b : Option Draws) : List Nat :=
  (p.map (·.group)).toList ++ (a.map (·.group)).toList ++ (b.map (·.group)).toList

/-- R13 step 6: draws A and draws B name one group, or a draws link names the group of the provides link. -/
def linksClash (p : Option Provides) (a b : Option Draws) : Bool :=
  (a.isSome && a.map (·.group) == b.map (·.group))
    || (p.isSome && (p.map (·.group) == a.map (·.group) || p.map (·.group) == b.map (·.group)))

/-- The providers of group `g` other than load `n`. -/
def State.otherProviders (s : State) (g n : Nat) : List Provider := (s.providersByLoad g).filter (fun q => q.load != n)

/-- R13 steps 5 to 9, on a live record, with the links of the command in place of its own. -/
def State.linkRefusal (s : State) (n : Nat) (r r' : LoadRecord) : Option Completion :=
  if r.state = .stopping ∨ r.state = .queued ∨ r.state = .starting ∨ r.state = .retiring then some .wrongState
  else if linksClash r'.provides r'.drawsA r'.drawsB = true then some .conflict
  else if r'.provides.any (fun p => Config.providersPerGroup ≤ (s.otherProviders p.group n).length) then some .full
  else if r'.provides.any (fun p => (s.otherProviders p.group n).any (fun q => q.rank == p.rank)) then some .conflict
  else if graphRefused (dependencyEdges (s.setLoad n r').loads) = true then some .conflict
  else none

/-- R14, R117: write the links; a provides link removed or moved to another group takes the load out of the failed-raise
sets. -/
def State.writeLinks (s : State) (n : Nat) (r r' : LoadRecord) : State :=
  let s1 := s.setLoad n r'
  if r.provides.map (·.group) = r'.provides.map (·.group) then s1 else s1.forgetFailed n

/-- R57: what a LINK LOAD that is taken calls for by name: a DUE record whose links it changes is evaluated. -/
def linkWork (n : Nat) (r r' : LoadRecord) : List Work := if r = r' then [] else [.evaluate n]

/-- LINK LOAD, code 18 (R13, R14). -/
def linkLoad (params : List Byte) (s : State) : Reply :=
  match params with
  | [n, pg, pr, pc, ag, ad, bg, bd] =>
    if badLoad n || badGroupByte pg || badGroupByte ag || badGroupByte bg
        || (!absent pg && (decide (5 < pr.toNat) || pc == 0)) || (!absent ag && ad == 0) || (!absent bg && bd == 0) then
      refuse s .badValue
    else
      match s.load n.toNat with
      | none => refuse s .noSuch
      | some r =>
        let r' := { r with provides := providesOf pg pr pc, drawsA := drawsOf ag ad, drawsB := drawsOf bg bd }
        if (namedGroups r'.provides r'.drawsA r'.drawsB).any (fun g => (s.group g).isNone) then refuse s .noSuch
        else
          match s.linkRefusal n.toNat r r' with
          | some code => refuse s code
          | none => taken (s.writeLinks n.toNat r r') (linkWork n.toNat r r')
  | _ => refuse s .badLength

/-- LINK_LOAD (R13). -/
def execLinkLoad (s : State) : Host.Outcome State Fault Refusal := .next (s.runCommand 0x12 linkLoad)

/-- PLAN LOAD, code 19 (R15). -/
def planLoad (params : List Byte) (s : State) : Reply :=
  match params with
  | [n, plan, ordinal] =>
    if badLoad n || (!absent plan && (decide (3 < plan.toNat) || decide (63 < ordinal.toNat))) then refuse s .badValue
    else
      match s.load n.toNat with
      | none => refuse s .noSuch
      | some r =>
        if r.state = .retiring then refuse s .wrongState
        else
          let m : Option Membership :=
            if absent plan then none else some { plan := plan.toNat, ordinal := ordinal.toNat }
          taken (s.setLoad n.toNat { r with membership := m }) []
  | _ => refuse s .badLength

/-- PLAN_LOAD (R15). -/
def execPlanLoad (s : State) : Host.Outcome State Fault Refusal := .next (s.runCommand 0x13 planLoad)

/-- READ LOAD, code 20 (R16, R173). The choice counter moves on, so that the free bytes of two answers are free of each
other (log entry 5). -/
def readLoad (params : List Byte) (s : State) : Reply :=
  match params with
  | [n] =>
    if badLoad n then refuse s .badValue
    else
      match s.load n.toNat with
      | none => answerWith s (vacantBytes n.toNat (Table.find s.slotOutcomes n.toNat))
      | some r => answerWith { s with choices := s.choices + 1 } (r.bytes n.toNat s.choices)
  | _ => refuse s .badLength

/-- READ_LOAD (R16). -/
def execReadLoad (s : State) : Host.Outcome State Fault Refusal := .next (s.runCommand 0x14 readLoad)

/-- FIND LOAD, code 21 (R17). -/
def findLoad (params : List Byte) (s : State) : Reply :=
  match params with
  | [line, address] =>
    if 3 < line.toNat ∨ badAddress address = true then refuse s .badValue
    else
      match s.findDrop (lineOf line) address.toNat with
      | none => refuse s .noSuch
      | some (n, _) => answerWith s [byte n]
  | _ => refuse s .badLength

/-- FIND_LOAD (R17). -/
def execFindLoad (s : State) : Host.Outcome State Fault Refusal := .next (s.runCommand 0x15 findLoad)

/-! ### Retirement -/

/-- R21: the record without its links, its button hold and its membership; in RETIRING its port stop request goes too. -/
def LoadRecord.stripped (r : LoadRecord) : LoadRecord :=
  { r with provides := none, drawsA := none, drawsB := none, membership := none, buttonHold := none, portStop := none }

/-- R21: every port hold naming the load is removed, its links, button hold and membership go, and its slot is marked. -/
def State.stripLoad (s : State) (n : Nat) (r : LoadRecord) : State :=
  ((({ s with holds := s.holds.filter (fun e => e.2.load != n) } : State).setLoad n r.stripped).forgetFailed n).mark n

/-- R21: a RETIRE LOAD that is taken. -/
def State.retire (s : State) (n : Nat) (r : LoadRecord) : State :=
  if (s.lineAt r.line).enabled = true then (s.stripLoad n r).moveTo n .retiring none
  else (s.stripLoad n r).removeLoad n (.retire, .aborted)

/-- RETIRE LOAD, code 22 (R20, R21). -/
def retireLoad (params : List Byte) (s : State) : Reply :=
  match params with
  | [n] =>
    if badLoad n then refuse s .badValue
    else
      match s.load n.toNat with
      | none => refuse s .noSuch
      | some r =>
        if r.state = .stopping ∨ r.state = .queued ∨ r.state = .starting ∨ r.state = .retiring then
          refuse s .wrongState
        else taken (s.retire n.toNat r) []
  | _ => refuse s .badLength

/-- RETIRE_LOAD (R20). -/
def execRetireLoad (s : State) : Host.Outcome State Fault Refusal := .next (s.runCommand 0x16 retireLoad)

/-- R19: the marked slots in the order LIST CHANGED meets them, from just after the cursor, at most twelve. -/
def State.listed (s : State) : List Nat :=
  ((s.marks.filter (fun n => decide (s.listCursor < n))) ++ (s.marks.filter (fun n => decide (n ≤ s.listCursor)))).take
    Config.listedSlots

/-- R19: the part after LIST CHANGED: the reported marks are clear and the cursor is the last slot reported. -/
def State.afterListing (s : State) : State :=
  { s with
    marks := s.marks.filter (fun n => !s.listed.contains n)
    listCursor := s.listed.getLast?.getD s.listCursor }

/-- LIST CHANGED, code 23 (R19, R173), taken whole, so that no event sets a mark between the listing of a slot and the count of
the marks left: the model's choice (R160, log entry 27). -/
def listChanged (params : List Byte) (s : State) : Reply :=
  match params with
  | [] =>
    answerWith s.afterListing
      ([byte s.listed.length, byte s.afterListing.marks.length] ++ s.listed.flatMap (fun n => [byte n, s.slotCode n]))
  | _ => refuse s .badLength

/-- LIST_CHANGED (R19). -/
def execListChanged (s : State) : Host.Outcome State Fault Refusal := .next (s.runCommand 0x17 listChanged)

end Sys2Proof.Machine
end

