-- ==== Sys2Proof/Machine/PlanCommands.lean ====
section
/-! DEFINITION. The meanings of the wake plan commands and of the wake plans' own events (chapter 8): SET_WAKE_PLAN,
READ_WAKE_PLAN, WAKE_SLOT and GUARD_END. -/

namespace Sys2Proof.Machine

/-- The settings of SET WAKE PLAN, clamped (R135). -/
structure PlanSettings where
  mask : BitVec 3
  start : Nat
  spacing : Nat
  bits : Nat
  guard : Nat
  deriving DecidableEq, Repr

/-- R135 step 3: a plan with new settings. -/
def WakePlan.withSettings (x : WakePlan) (c : PlanSettings) : WakePlan :=
  { x with mask := c.mask, start := c.start, spacing := c.spacing, bits := c.bits, guard := c.guard }

/-- R135 step 4: a plan set for the first time. -/
def freshPlan (c : PlanSettings) : WakePlan :=
  { mask := c.mask, start := c.start, spacing := c.spacing, bits := c.bits, guard := c.guard, state := .waiting,
    activationDay := none, activationSecond := none, cursor := 0, guardEnd := none }

/-- R135: the plan after SET WAKE PLAN: an ACTIVE plan is ended, a running guard ends, and the settings are written. -/
def State.resetPlan (s : State) (x : WakePlan) (c : PlanSettings) : WakePlan :=
  ({ (if x.state = .active then s.endedPlan x else x) with guardEnd := none } : WakePlan).withSettings c

/-- R135: a SET WAKE PLAN that is taken; the authority is recomputed if a guard of the plan ran. -/
def State.setWakePlan (s : State) (p : Nat) (c : PlanSettings) : Reply :=
  match s.plan p with
  | none => taken (s.setPlan p (freshPlan c)) []
  | some x => taken (s.setPlan p (s.resetPlan x c)) (if x.guardEnd = none then [] else [.recompute])

/-- SET WAKE PLAN, code 56 (R135). -/
def setWakePlan (params : List Byte) (s : State) : Reply :=
  match params with
  | [p, mask, sh, sl, gh, gl, k, guard] =>
    if 3 < p.toNat ∨ 7 < mask.toNat then refuse s .badValue
    else
      s.setWakePlan p.toNat
        { mask := mask.setWidth 3
          start := clamp 0 1439 (word16 sh sl)
          spacing := clamp 10 900 (word16 gh gl)
          bits := clamp 0 6 k.toNat
          guard := clamp 0 240 guard.toNat }
  | _ => refuse s .badLength

/-- SET_WAKE_PLAN (R135). -/
def execSetWakePlan (s : State) : Host.Outcome State Fault Refusal := .next (s.runCommand 0x38 setWakePlan)

/-- READ WAKE PLAN, code 57 (R142). -/
def readWakePlan (params : List Byte) (s : State) : Reply :=
  match params with
  | [p] => if 3 < p.toNat then refuse s .badValue else answerWith s (s.planAnswer p.toNat)
  | _ => refuse s .badLength

/-- READ_WAKE_PLAN (R142). -/
def execReadWakePlan (s : State) : Host.Outcome State Fault Refusal := .next (s.runCommand 0x39 readWakePlan)

/-- WAKE_SLOT (R140, R141): the next slot of an ACTIVE plan falls once the time base has reached its second. Otherwise no
slot falls (log entry 4). -/
def execWakeSlot (p : Nat) (s : State) : Host.Outcome State Fault Refusal :=
  match s.plan p with
  | none => .next s
  | some x =>
    if x.state = .active ∧ x.nextFall ≤ s.timeBase then
      .next (s.runEvent { state := (s.fallSlot p x).1, work := (s.fallSlot p x).2 })
    else .next s

/-- GUARD_END (R138, R100): the time base has reached the plan's guard end; the guard ends and the authority is
recomputed. Otherwise no guard ends (log entry 4). -/
def execGuardEnd (p : Nat) (s : State) : Host.Outcome State Fault Refusal :=
  match s.plan p with
  | none => .next s
  | some x =>
    match x.guardEnd with
    | none => .next s
    | some t =>
      if t ≤ s.timeBase then
        .next (s.runEvent { state := s.setPlan p { x with guardEnd := none }, work := [.recompute] })
      else .next s

end Sys2Proof.Machine
end

