-- ==== Sys2Proof/Machine/PortCommands.lean ====
section
/-! DEFINITION. The meanings of the port's own rows: COMMAND_FRAME, UNKNOWN_COMMAND, FETCH, HARDWARE_RESET, IDENTIFY,
READ_ATTENTION, SET_ATTENTION_MASK, RESET_CONTROL and SET_PLANT (chapter 10). -/

namespace Sys2Proof.Machine

/-- COMMAND_FRAME (R158, R159, R162). -/
def execCommandFrame (mosi : List Bool) (s : State) : Host.Outcome State Fault Refusal :=
  .next (s.transaction (wholeBytes mosi))

/-- UNKNOWN_COMMAND (R159, R160): the frame in execution is refused by the checks of a frame and changes no state. -/
def execUnknownCommand (s : State) : Host.Outcome State Fault Refusal :=
  match s.executing with
  | none => .next s
  | some frame =>
    match frameRefusal frame with
    | none => .next s
    | some code => .next (s.respond code [])

/-- FETCH (R158, R161, R172): the bits of a byte left incomplete when CSN rises are discarded, and a transaction with no
whole byte has no effect. -/
def execFetch (clocks : Nat) (s : State) : Host.Outcome State Fault Refusal :=
  if clocks / 8 = 0 then .next s else .next (s.fetchTransaction (clocks / 8))

/-- HARDWARE_RESET (R158, R171 with R23, R44, R87, R101, R120, R133, R143, R157): every block returns to its hardware reset
values. The waiting commands and the choice counter are the model's own and stay. -/
def execHardwareReset (s : State) : Host.Outcome State Fault Refusal :=
  .next { State.reset with pending := s.pending, choices := s.choices }

/-- IDENTIFY, code 2 (R164). -/
def identify (params : List Byte) (s : State) : Reply :=
  match params with
  | [] => answerWith s identity
  | _ => refuse s .badLength

/-- IDENTIFY (R164). -/
def execIdentify (s : State) : Host.Outcome State Fault Refusal := .next (s.runCommand 0x02 identify)

/-- READ ATTENTION, code 3 (R170): the answer is formed, then OVERRUN clears. Until the answer is written a frame is still
discarded (R162). -/
def readAttention (params : List Byte) (s : State) : Reply :=
  match params with
  | [] => answerWith { s with overrun := false, finishing := true } s.attentionAnswer
  | _ => refuse s .badLength

/-- READ_ATTENTION (R170). -/
def execReadAttention (s : State) : Host.Outcome State Fault Refusal := .next (s.runCommand 0x03 readAttention)

/-- SET ATTENTION MASK, code 4 (R169). -/
def setAttentionMask (params : List Byte) (s : State) : Reply :=
  match params with
  | [m] => if 63 < m.toNat then refuse s .badValue else taken { s with mask := m.setWidth 6 } []
  | _ => refuse s .badLength

/-- SET_ATTENTION_MASK (R169). -/
def execSetAttentionMask (s : State) : Host.Outcome State Fault Refusal := .next (s.runCommand 0x04 setAttentionMask)

/-! ### The control reset -/

/-- R72: the outcome a control reset writes for the operation in flight. -/
def resetOutcome (s : State) (r : LoadRecord) : Option Outcome :=
  match endedOutcome r.state .aborted with
  | some o => some (s.outcomeOf o)
  | none => r.lastOutcome

/-- R24, R44, R72: a record after a control reset. -/
def LoadRecord.afterReset (s : State) (r : LoadRecord) : LoadRecord :=
  { r with
    state := .unknown
    commanded := if r.commanded = .release then .run else r.commanded
    blockReason := .none
    portStop := none
    lastRun := none
    retireExchanges := 0
    idleClock := 0
    baseline := none
    figures := PeriodFigures.empty
    missCount := 0
    lastOutcome := resetOutcome s r
    verifyEnd := none }

/-- R157: a line controller after a control reset. -/
def Line.afterReset (x : Line) : Line :=
  { x.quieted with
    cursor := 1, pass := 0, urgent := [], lost := [], silent := 0, framing := 0, check := 0,
    stray := 0, overflow := false }

/-- R143: a wake plan after a control reset. -/
def WakePlan.afterReset (s : State) (x : WakePlan) : WakePlan :=
  if x.state = .active then { s.endedPlan x with guardEnd := none } else { x with guardEnd := none }

/-- R120, R121: a group after a control reset. -/
def Group.afterReset (x : Group) : Group := { x with state := .normal, failed := [] }

/-- R167: the control reset, one change of the whole part (R24, R72, R44, R87, R101, R120, R133, R143, R157). The authority
is recomputed after the guards have ended (R101). No DUE record and no queue entry is left to hand anything to. -/
def State.controlReset (s : State) : State :=
  ({ s with
      loads := Table.mapEach (fun _ r => r.afterReset s) s.loads
      marks := List.range Config.loadSlots
      listCursor := 239
      groups := Table.mapEach (fun _ x => x.afterReset) s.groups
      queue := []
      arrivals := 0
      feeders := Vector.replicate 8 .free
      plans := Table.mapEach (fun _ x => x.afterReset s) s.plans
      lines := s.lines.map Line.afterReset
      overrun := false
      finishing := true } : State).recompute

/-- RESET CONTROL, code 5 (R167): the whole change is the reset's own, and the queue's removals hand nothing on (R133), so
no hand-off follows it. Until the answer is written a frame is still discarded (R162). -/
def resetControl (params : List Byte) (s : State) : State :=
  match params with
  | [] => s.controlReset.respond .done []
  | _ => s.respond .badLength []

/-- RESET_CONTROL (R167). -/
def execResetControl (s : State) : Host.Outcome State Fault Refusal :=
  match s.commandParams 0x05 with
  | none => .next s
  | some params => .next (resetControl params s)

/-- SET PLANT, code 6 (R165, R126, R25). -/
def setPlant (params : List Byte) (s : State) : Reply :=
  match params with
  | [p, limit, settle] =>
    if 2 ≤ s.startingCount ∧ clamp 1 60 limit.toNat < s.startingSum then refuse s .wrongState
    else
      taken
        { s with
          period := clamp 5 60 p.toNat, inrushLimit := clamp 1 60 limit.toNat, settleTime := clamp 0 60 settle.toNat }
        [.examine]
  | _ => refuse s .badLength

/-- SET_PLANT (R165). -/
def execSetPlant (s : State) : Host.Outcome State Fault Refusal := .next (s.runCommand 0x06 setPlant)

end Sys2Proof.Machine
end

