-- ==== Sys2Proof/Machine/TimeEvents.lean ====
section
/-! DEFINITION. The meanings of the events of the time base and the plant clock (chapters 2 to 5 and 7). An event that is not
due does not happen: it leaves the part as it is (log entry 4). -/

namespace Sys2Proof.Machine

/-- R88: the time base one second later. What follows its greatest value is free (log entry 1). -/
def State.nextTimeBase (s : State) : Nat :=
  if s.timeBase < Config.timeBaseTop then s.timeBase + 1 else (Config.timeBaseAfterTop s.choices).toNat

/-- R89 step 1: the second of a set plant clock goes up by 1. -/
def PlantClock.tick (c : PlantClock) : PlantClock := { c with second := c.second + 1 }

/-- TIME_BASE_SECOND (R88, R89): the time base goes up by one second, and so does a set plant clock. A second that has
reached 60 stands so until the new minute is taken (PLANT_CLOCK_MINUTE or MIDNIGHT). -/
def execTimeBaseSecond (s : State) : Host.Outcome State Fault Refusal :=
  .next
    { s with
      timeBase := s.nextTimeBase
      choices := if s.timeBase < Config.timeBaseTop then s.choices else s.choices + 1
      clock := s.clock.map PlantClock.tick }

/-- PLANT_CLOCK_MINUTE (R89, R98, R136): the seconds have reached 60 within the day. -/
def execPlantClockMinute (s : State) : Host.Outcome State Fault Refusal :=
  match s.clock with
  | none => .next s
  | some c => if 60 ≤ c.second ∧ c.minute < 1439 then .next (s.newMinute c) else .next s

/-- MIDNIGHT (R89, R98, R136): the seconds have reached 60 in the last minute of the day. -/
def execMidnight (s : State) : Host.Outcome State Fault Refusal :=
  match s.clock with
  | none => .next s
  | some c => if 60 ≤ c.second ∧ 1439 ≤ c.minute then .next (s.newMinute c) else .next s

/-- ACTIVITY_PERIOD_END (R25, R26): the period end schedules the next one, and every live record takes its own. What happens
to a period end that would be scheduled after the greatest second of the time base the spec does not say; the model schedules it
at a second that is never reached (log entry 1). -/
def execActivityPeriodEnd (s : State) : Host.Outcome State Fault Refusal :=
  if s.periodEnd ≤ s.timeBase then
    .next (s.runEvent
      { state := { s with periodEnd := s.periodEnd + s.period }, work := s.loads.map (fun e => .periodEnd e.1) })
  else .next s

/-- MINIMUM_RUN_REACHED (R57): a DUE record's run time has reached its minimum run, and the record is evaluated. -/
def execMinimumRunReached (n : Nat) (s : State) : Host.Outcome State Fault Refusal :=
  match s.load n with
  | none => .next s
  | some r =>
    if r.state = .due ∧ r.runSince + r.tuning.minimumRun * 60 ≤ s.timeBase then
      .next (s.runEvent { state := s, work := [.evaluate n] })
    else .next s

/-- HOLD_MINUTE (R80): the time base has reached a whole minute; every counting hold has one minute less. -/
def execHoldMinute (s : State) : Host.Outcome State Fault Refusal :=
  if s.nextHoldMinute ≤ s.timeBase then
    .next
      { s with
        nextHoldMinute := s.nextHoldMinute + 60
        holds := Table.mapEach (fun _ h => h.countDown) s.holds
        loads := Table.mapEach (fun _ r => r.countDown) s.loads }
  else .next s

/-- PORT_HOLD_EXPIRY (R80): the remaining minutes of a port hold have reached 0. -/
def execPortHoldExpiry (number : Nat) (s : State) : Host.Outcome State Fault Refusal :=
  match Table.find s.holds number with
  | none => .next s
  | some h => if h.remaining = some 0 then .next (s.runEvent (s.removePortHold number h)) else .next s

/-- BUTTON_HOLD_EXPIRY (R80): the remaining minutes of a button hold have reached 0. -/
def execButtonHoldExpiry (n : Nat) (s : State) : Host.Outcome State Fault Refusal :=
  match s.load n with
  | none => .next s
  | some r => if r.buttonHold = some 0 then .next (s.runEvent (s.removeButtonHold n r)) else .next s

/-- The verify timer of a record has expired: it runs, and the time base has reached its end. -/
def verifyExpired (s : State) (r : LoadRecord) : Bool :=
  match r.verifyEnd with
  | some t => decide (t ≤ s.timeBase)
  | none => false

/-- STOP_VERIFY_TIMER_EXPIRY (R61): a STOPPING record enters FAULT commanded RUN with STOP TIMED OUT. -/
def execStopVerifyTimerExpiry (n : Nat) (s : State) : Host.Outcome State Fault Refusal :=
  match s.load n with
  | none => .next s
  | some r =>
    if r.state = .stopping ∧ verifyExpired s r = true then
      .next (s.runEvent { state := s.moveTo n .fault (some (.stop, .timedOut)), work := [] })
    else .next s

/-- START_VERIFY_TIMER_EXPIRY (R61): a STARTING record enters FAULT commanded STOP with START TIMED OUT, and its feeder
enters SETTLING. -/
def execStartVerifyTimerExpiry (n : Nat) (s : State) : Host.Outcome State Fault Refusal :=
  match s.load n with
  | none => .next s
  | some r =>
    if r.state = .starting ∧ verifyExpired s r = true then
      .next (s.runEvent { state := s.moveTo n .fault (some (.start, .timedOut)), work := [] })
    else .next s

/-- R129: a REST end is scheduled for load `n`: its entry failed REST at the last examination. -/
def State.restScheduled (s : State) (n : Nat) : Bool := s.queue.any (fun e => e.load == n && e.reason == .rest)

/-- REST_END (R128, R129): a QUEUED record's off time has reached its minimum off, and the arbiter examines the queue. -/
def execRestEnd (n : Nat) (s : State) : Host.Outcome State Fault Refusal :=
  match s.load n with
  | none => .next s
  | some r =>
    if r.state = .queued ∧ s.restScheduled n = true ∧ s.rested r = true then
      .next (s.runEvent { state := s, work := [.examine] })
    else .next s

/-- SETTLE_END (R125): a SETTLING feeder has reached its settle end and becomes FREE. -/
def execSettleEnd (f : Fin 8) (s : State) : Host.Outcome State Fault Refusal :=
  match s.feeders[f] with
  | .settling ends =>
    if ends ≤ s.timeBase then
      .next (s.runEvent { state := { s with feeders := s.feeders.set f .free }, work := [] })
    else .next s
  | .free => .next s
  | .starting _ => .next s

end Sys2Proof.Machine
end

