-- ==== Sys2Proof/Machine/Dispatch.lean ====
section
/-! DEFINITION. The effect of every command and event on everything but the queue of waiting commands. -/

namespace Sys2Proof.Machine

def exec (i : Instr) (s : State) : Host.Outcome State Fault Refusal :=
  match i with
  | .commandFrame mosi => Sys2Proof.Machine.execCommandFrame mosi s
  | .unknownCommand => Sys2Proof.Machine.execUnknownCommand s
  | .fetch clocks => Sys2Proof.Machine.execFetch clocks s
  | .hardwareReset => Sys2Proof.Machine.execHardwareReset s
  | .identify => Sys2Proof.Machine.execIdentify s
  | .readAttention => Sys2Proof.Machine.execReadAttention s
  | .setAttentionMask => Sys2Proof.Machine.execSetAttentionMask s
  | .resetControl => Sys2Proof.Machine.execResetControl s
  | .setPlant => Sys2Proof.Machine.execSetPlant s
  | .enrolLoad => Sys2Proof.Machine.execEnrolLoad s
  | .tuneLoad => Sys2Proof.Machine.execTuneLoad s
  | .linkLoad => Sys2Proof.Machine.execLinkLoad s
  | .planLoad => Sys2Proof.Machine.execPlanLoad s
  | .readLoad => Sys2Proof.Machine.execReadLoad s
  | .findLoad => Sys2Proof.Machine.execFindLoad s
  | .retireLoad => Sys2Proof.Machine.execRetireLoad s
  | .listChanged => Sys2Proof.Machine.execListChanged s
  | .startLoad => Sys2Proof.Machine.execStartLoad s
  | .stopLoad => Sys2Proof.Machine.execStopLoad s
  | .cancelStop => Sys2Proof.Machine.execCancelStop s
  | .clearFault => Sys2Proof.Machine.execClearFault s
  | .cancelStart => Sys2Proof.Machine.execCancelStart s
  | .readQueue => Sys2Proof.Machine.execReadQueue s
  | .placeHold => Sys2Proof.Machine.execPlaceHold s
  | .releaseHold => Sys2Proof.Machine.execReleaseHold s
  | .releaseButtonHold => Sys2Proof.Machine.execReleaseButtonHold s
  | .readHolds => Sys2Proof.Machine.execReadHolds s
  | .defineGroup => Sys2Proof.Machine.execDefineGroup s
  | .removeGroup => Sys2Proof.Machine.execRemoveGroup s
  | .readGroup => Sys2Proof.Machine.execReadGroup s
  | .setClock => Sys2Proof.Machine.execSetClock s
  | .readClock => Sys2Proof.Machine.execReadClock s
  | .setDayMap => Sys2Proof.Machine.execSetDayMap s
  | .overrideToday => Sys2Proof.Machine.execOverrideToday s
  | .setWindow => Sys2Proof.Machine.execSetWindow s
  | .readAuthority => Sys2Proof.Machine.execReadAuthority s
  | .setWakePlan => Sys2Proof.Machine.execSetWakePlan s
  | .readWakePlan => Sys2Proof.Machine.execReadWakePlan s
  | .setLine => Sys2Proof.Machine.execSetLine s
  | .readLine => Sys2Proof.Machine.execReadLine s
  | .timeBaseSecond => Sys2Proof.Machine.execTimeBaseSecond s
  | .plantClockMinute => Sys2Proof.Machine.execPlantClockMinute s
  | .midnight => Sys2Proof.Machine.execMidnight s
  | .activityPeriodEnd => Sys2Proof.Machine.execActivityPeriodEnd s
  | .minimumRunReached load => Sys2Proof.Machine.execMinimumRunReached load s
  | .portHoldExpiry hold => Sys2Proof.Machine.execPortHoldExpiry hold s
  | .buttonHoldExpiry load => Sys2Proof.Machine.execButtonHoldExpiry load s
  | .holdMinute => Sys2Proof.Machine.execHoldMinute s
  | .stopVerifyTimerExpiry load => Sys2Proof.Machine.execStopVerifyTimerExpiry load s
  | .startVerifyTimerExpiry load => Sys2Proof.Machine.execStartVerifyTimerExpiry load s
  | .restEnd load => Sys2Proof.Machine.execRestEnd load s
  | .settleEnd feeder => Sys2Proof.Machine.execSettleEnd feeder s
  | .wakeSlot plan => Sys2Proof.Machine.execWakeSlot plan s
  | .guardEnd plan => Sys2Proof.Machine.execGuardEnd plan s
  | .exchangeStart line => Sys2Proof.Machine.execExchangeStart line s
  | .replyWindowExpiry line => Sys2Proof.Machine.execReplyWindowExpiry line s
  | .replyEnd line samples => Sys2Proof.Machine.execReplyEnd line samples s

end Sys2Proof.Machine
end

