-- ==== Sys2Proof/Safety.lean ====
section
/-! DEFINITION. What counts as a safe state of the part: the laws the data sheet says the part keeps at all times, in the terms the
claims use. -/

namespace Sys2Proof.Machine

/-- The tables of the part are in their canonical form: each in rising order of number, each number within its range. -/
structure Canonical (s : State) : Prop where
  loads : Table.Canonical 240 s.loads
  holds : Table.Canonical 96 s.holds
  groups : Table.Canonical 16 s.groups
  plans : Table.Canonical 4 s.plans
  slotOutcomes : Table.Canonical 240 s.slotOutcomes

/-- R122: the start queue holds at most 32 entries, at most one per load, and a load has an entry exactly when its state
is QUEUED; SUPPLY entries stand before CALL entries and CALL before WAKE. -/
structure QueueLaw (s : State) : Prop where
  room : s.queue.length ≤ 32
  order : (s.queue.map (fun e => e.cls.order)).Pairwise (· ≤ ·)
  single : (s.queue.map (·.load)).Nodup
  exact : ∀ n, s.hasEntry n = true ↔ s.stateOf n = some .queued

/-- R125: a feeder is STARTING with a load exactly when that load is in STARTING on that feeder. -/
def FeederLaw (s : State) : Prop :=
  ∀ (f : Fin 8) (n : Nat),
    s.feeders[f] = .starting n ↔ ∃ r, s.load n = some r ∧ r.state = .starting ∧ r.feeder = f

/-- R125: the starting weight sum does not exceed the plant inrush limit unless at most one load is in STARTING. -/
def BudgetLaw (s : State) : Prop := s.startingCount ≤ 1 ∨ s.startingSum ≤ s.inrushLimit

/-- R57, R112: at most one provider of each group is in STOPPING. -/
def PacingLaw (s : State) : Prop :=
  ∀ (n m : Nat) (rn rm : LoadRecord) (pn pm : Provides),
    s.load n = some rn → s.load m = some rm → rn.provides = some pn → rm.provides = some pm →
      pn.group = pm.group → rn.state = .stopping → rm.state = .stopping → n = m

/-- R62, R83: no QUEUED or STARTING load carries a KEEP-OFF hold. -/
def KeepOffLaw (s : State) : Prop :=
  ∀ n, s.keepOff n = true → s.stateOf n ≠ some .queued ∧ s.stateOf n ≠ some .starting

/-- R102, R114: the raised provider of a RAISING group is in QUEUED or STARTING. -/
def RaiseLaw (s : State) : Prop :=
  ∀ (g p : Nat) (x : Group), s.group g = some x → x.state = .raising p →
    s.stateOf p = some .queued ∨ s.stateOf p = some .starting

/-- R73, R74: every port hold names a live record that is not RETIRING, and a load carries at most three. -/
structure HoldLaw (s : State) : Prop where
  live : ∀ e ∈ s.holds, ∃ st, s.stateOf e.2.load = some st ∧ st ≠ .retiring
  three : ∀ n, (s.holdsOn n).length ≤ 3

/-- R3, R38: TL is less than TH in every record. -/
def ThresholdLaw (s : State) : Prop :=
  ∀ (n : Nat) (r : LoadRecord), s.load n = some r → r.tuning.idleEnter < r.tuning.idleLeave

/-- R9: no two live records name the same line and drop address. -/
def DropLaw (s : State) : Prop :=
  ∀ (n m : Nat) (rn rm : LoadRecord), s.load n = some rn → s.load m = some rm →
    rn.line = rm.line → rn.address = rm.address → n = m

/-- R106: a dependency graph, as its edges, has no cycle and no chain of more than four groups. -/
structure GraphSound (edges : List (Nat × Nat)) : Prop where
  acyclic : ∀ g, ¬ Relation.TransGen (fun a b => (a, b) ∈ edges) g g
  short : ∀ chain : List Nat, chain.IsChain (fun a b => (a, b) ∈ edges) → chain.length ≤ 4

/-- R106: the dependency graph has no cycle and no chain of more than four groups. -/
def GraphLaw (s : State) : Prop := GraphSound (dependencyEdges s.loads)

/-- R18, R19: the changed marks are marks of slots, each slot once and in rising order, and the LIST CHANGED cursor names a
slot. -/
structure SlotLaw (s : State) : Prop where
  rising : s.marks.Pairwise (· < ·)
  slots : ∀ n ∈ s.marks, n < 240
  cursor : s.listCursor < 240

/-- What the state of a record rules out: the idle clock is 0 outside IDLE and DUE (R40), the block reason is NONE outside
DUE (R6, R45), no port stop request stands outside DUE and STOPPING (R45), and a verify timer runs exactly in STOPPING and
STARTING (R58, R63). -/
structure RecordLaw (s : State) : Prop where
  idle : ∀ n r, s.load n = some r → r.idleClock ≠ 0 → r.state = .idle ∨ r.state = .due
  reason : ∀ n r, s.load n = some r → r.blockReason ≠ .none → r.state = .due
  request : ∀ n r, s.load n = some r → r.portStop ≠ none → r.state = .due ∨ r.state = .stopping
  timer : ∀ n r, s.load n = some r → (r.verifyEnd ≠ none ↔ r.state = .stopping ∨ r.state = .starting)

/-- R97, R98: the plant authority is the one that the clock, the windows and the wake guards give. -/
def AuthorityLaw (s : State) : Prop := s.authority = s.computedAuthority

/-- R152: address `a` is in the poll ring of line `l`: a live record names it. -/
def State.inRing (s : State) (l : Fin 4) (a : Nat) : Prop := ∃ n r, s.load n = some r ∧ r.line = l ∧ r.address = a

/-- What each line controller keeps: at most eight addresses on the urgent list, each once (R153), every one of them and every
LOST drop in the poll ring (R22, R152), an exchange in flight for a load that is live at the address polled, or for none
(R154), and TXD at mark with DE released (R145, R149, R157), for EXCHANGE_START takes a poll whole (log entry 12). -/
structure LineLaw (s : State) : Prop where
  room : ∀ l, (s.lineAt l).urgent.length ≤ 8
  single : ∀ l, (s.lineAt l).urgent.Nodup
  urgent : ∀ l, ∀ a ∈ (s.lineAt l).urgent, s.inRing l a
  lost : ∀ l, ∀ a ∈ (s.lineAt l).lost, s.inRing l a
  polled : ∀ l e n, (s.lineAt l).exchange = some e → e.load = some n →
    ∃ r, s.load n = some r ∧ r.line = l ∧ r.address = e.address
  atMark : ∀ l, (s.lineAt l).txdNow = true
  released : ∀ l, (s.lineAt l).deNow = false

/-! ### What a hand-off may do to a record -/

/-- What the hand-offs that follow a change may do to a record of any load (R57, R58, R62, R63, R115): a DUE record is
evaluated, and stays DUE with a block reason or enters STOPPING; a STOPPED provider is queued by its group, and may then be
granted; a QUEUED record may be granted. Every other record stays exactly as it is. `now` is the time base. -/
def HandedOn (now : Nat) (r r' : LoadRecord) : Prop :=
  r' = r
    ∨ (r.state = .due ∧ ((∃ b, r' = { r with blockReason := b }) ∨ r' = r.entering .stopping now))
    ∨ (r.state = .stopped ∧ r.provides.isSome = true
        ∧ (r' = r.entering .queued now ∨ r' = (r.entering .queued now).entering .starting now))
    ∨ (r.state = .queued ∧ r' = r.entering .starting now)

/-- R56, R57, R58: `r'` is the DUE record `r` of load `n` once it has been evaluated under this plant authority: the first condition
that fails is its block reason, and with all of them met it has entered STOPPING. Whether the group of a provider can spare it,
and whether another provider is in STOPPING, may change within the step, so that for a provider those two are left open. -/
def State.Judged (s : State) (authority n : Nat) (r r' : LoadRecord) : Prop :=
  ∀ E, E = max authority (r.portStop.getD 0) →
    (E = 0 → r' = { r with blockReason := .authority })
    ∧ (0 < E → (∃ l ∈ s.keepRunLevels n, E ≤ l) → r' = { r with blockReason := .hold })
    ∧ (0 < E → (∀ l ∈ s.keepRunLevels n, l < E) →
      (s.timeBase < r.runSince + r.tuning.minimumRun * 60 → r' = { r with blockReason := .minRun })
      ∧ (r.runSince + r.tuning.minimumRun * 60 ≤ s.timeBase →
        r' = { r with
            state := .stopping, commanded := .stop, blockReason := .none, idleClock := 0
            verifyEnd := some (s.timeBase + r.tuning.stopVerify) }
        ∨ (r.provides ≠ none ∧ (r' = { r with blockReason := .supply } ∨ r' = { r with blockReason := .pacing }))))

/-- R56, R57, R58: `r'` is the DUE record `r` of load `n` after one evaluation at the state `s`: STOPPING where stop permission holds
there, else DUE with the first condition that fails as its block reason. -/
def State.Evaluated (s : State) (n : Nat) (r r' : LoadRecord) : Prop :=
  (s.permission n r = .none → r' =
    { r with
      state := .stopping, commanded := .stop, blockReason := .none, idleClock := 0
      verifyEnd := some (s.timeBase + r.tuning.stopVerify) })
  ∧ (s.permission n r ≠ .none → r' = { r with blockReason := s.permission n r })

/-- R56, R57, R110: `r'` is the DUE record `r` of load `n` once it has been evaluated in a step that began in the state `s`, other
hand-offs of the step perhaps coming first. No hand-off raises a group's headroom or ends a stop, so a condition that fails in `s`
is still found failing, and none that `Evaluated` finds met fails but the two of a provider: its group may have been drawn on
(SUPPLY), or another provider of it may have entered STOPPING (PACING). -/
def State.EvaluatedAmong (s : State) (n : Nat) (r r' : LoadRecord) : Prop :=
  s.Evaluated n r r'
    ∨ ((s.permission n r = .none ∨ s.permission n r = .pacing) ∧ r.provides ≠ none
      ∧ (r' = { r with blockReason := .supply } ∨ r' = { r with blockReason := .pacing }))

/-- R57, R98: where the authority has changed between `s` and `t`, every DUE record of `s` has been evaluated under the new one. -/
def State.DueJudged (s t : State) : Prop :=
  t.authority ≠ s.authority → ∀ n r, s.load n = some r → r.state = .due →
    ∃ r', t.load n = some r' ∧ s.Judged t.authority n r r'

/-- R125: a start on feeder `f` has ended between `s` and `t`: the feeder is SETTLING for the settle time in force, or, where that is 0,
it has become FREE, and an examination of the same step may have given it to a start. -/
def State.Released (s t : State) (f : Fin 8) : Prop :=
  (s.settleTime ≠ 0 → t.feeders[f] = .settling (s.timeBase + s.settleTime))
    ∧ (s.settleTime = 0 → t.feeders[f] = .free ∨ ∃ m, t.feeders[f] = .starting m ∧ t.stateOf m = some .starting)

/-- R116, R117: a raise of load `n` by its group `g` has failed between `s` and `t`, the load having entered state `st`: the load is in the
failed-raise set of a group that is RAISING or SHORT, or the group has found no lack of supply since and the set is empty. In a
part with this one group, which of the two it is follows from the lack of supply after the load's change. -/
def State.RaiseFailed (s t : State) (g n : Nat) (st : LoadState) : Prop :=
  ∃ y, t.group g = some y ∧ ((n ∈ y.failed ∧ y.state ≠ .normal) ∨ y.failed = [])
    ∧ ∀ x r u, s.groups = [(g, x)] → s.load n = some r → u = s.setLoad n { r with state := st } →
      (u.lacks g = true → n ∈ y.failed ∧ y.state ≠ .normal)
      ∧ (u.lacks g = false → y.state = .normal ∧ y.failed = [])

/-! ### Commands as they are sent -/

/-- The command in execution is the frame of this code with these parameter bytes (R159). -/
def State.Sent (s : State) (code : Byte) (params : List Byte) : Prop :=
  s.executing = some (code :: byte params.length :: params)

/-- The commands of the port (R172) with the number of parameter bytes each one's own rule asks for. -/
def commandTable : List (Instr × Byte × Nat) :=
  [(.identify, 0x02, 0), (.readAttention, 0x03, 0), (.setAttentionMask, 0x04, 1), (.resetControl, 0x05, 0), (.setPlant, 0x06, 3),
   (.enrolLoad, 0x10, 5), (.tuneLoad, 0x11, 19), (.linkLoad, 0x12, 8), (.planLoad, 0x13, 3), (.readLoad, 0x14, 1),
   (.findLoad, 0x15, 2), (.retireLoad, 0x16, 1), (.listChanged, 0x17, 0), (.startLoad, 0x18, 1), (.stopLoad, 0x19, 2),
   (.cancelStop, 0x1A, 1), (.clearFault, 0x1B, 1), (.cancelStart, 0x1C, 1), (.readQueue, 0x1D, 0)]
  ++ [(.placeHold, 0x20, 5), (.releaseHold, 0x21, 1), (.releaseButtonHold, 0x22, 1), (.readHolds, 0x23, 1),
   (.defineGroup, 0x28, 2), (.removeGroup, 0x29, 1), (.readGroup, 0x2A, 1), (.setClock, 0x30, 4), (.readClock, 0x31, 0),
   (.setDayMap, 0x32, 7), (.overrideToday, 0x33, 1), (.setWindow, 0x34, 7), (.readAuthority, 0x35, 0), (.setWakePlan, 0x38, 8),
   (.readWakePlan, 0x39, 1), (.setLine, 0x40, 6), (.readLine, 0x41, 1)]

/-- The commands of one load: the parameter frame names the load in its first byte. -/
def loadCommandTable : List (Instr × Byte) :=
  [(.tuneLoad, 0x11), (.linkLoad, 0x12), (.planLoad, 0x13), (.retireLoad, 0x16), (.startLoad, 0x18), (.stopLoad, 0x19),
   (.cancelStop, 0x1A), (.clearFault, 0x1B), (.cancelStart, 0x1C), (.placeHold, 0x20), (.releaseButtonHold, 0x22)]

/-! ### A plan that has started -/

/-- R138, R140: a plan after an activation on this day at this second, its slot 0 having fallen: a plan of one slot is DONE. -/
def WakePlan.started (x : WakePlan) (day : Fin 7) (now : Nat) : WakePlan :=
  { x with
    state := if 1 < 2 ^ x.bits then .active else .done
    activationDay := some day
    activationSecond := some now
    cursor := 1
    guardEnd := if x.guard = 0 then x.guardEnd else some (now + x.guard * 60) }

/-! ### Which rows may write which state -/

/-- Rows that may write the plant clock. -/
def writesClock : Instr → Bool
  | .timeBaseSecond | .plantClockMinute | .midnight | .setClock | .hardwareReset => true
  | _ => false

/-- Rows that may write the plant authority (R98, R101). -/
def writesAuthority : Instr → Bool
  | .plantClockMinute | .midnight | .setClock | .setDayMap | .overrideToday | .setWindow | .setWakePlan | .guardEnd _
  | .resetControl | .hardwareReset => true
  | _ => false

/-- Rows that may write today's override or yesterday's type (R89, R90, R94). -/
def writesDayTypes : Instr → Bool
  | .overrideToday | .midnight | .setClock | .hardwareReset => true
  | _ => false

/-- Rows that may write the hold table. -/
def writesHolds : Instr → Bool
  | .placeHold | .releaseHold | .portHoldExpiry _ | .holdMinute | .retireLoad | .hardwareReset => true
  | _ => false

/-- Rows that may write the wake plans. -/
def writesPlans : Instr → Bool
  | .setWakePlan | .wakeSlot _ | .guardEnd _ | .plantClockMinute | .midnight | .setClock | .resetControl | .hardwareReset =>
    true
  | _ => false

/-- Rows that may create or remove a record. -/
def writesSlots : Instr → Bool
  | .enrolLoad | .retireLoad | .setLine | .replyEnd _ _ | .replyWindowExpiry _ | .hardwareReset => true
  | _ => false

/-- Rows that may write a line's error counters or its overflow flag (R150, R155, R157). -/
def writesCounters : Instr → Bool
  | .readLine | .replyEnd _ _ | .replyWindowExpiry _ | .resetControl | .hardwareReset => true
  | _ => false

/-- Rows that may write OVERRUN (R162). -/
def writesOverrun : Instr → Bool
  | .commandFrame _ | .readAttention | .resetControl | .hardwareReset => true
  | _ => false

/-- Rows after which no group tests, no queue entry is made, removed or examined, and no record changes its state. -/
def quiet : Instr → Bool
  | .commandFrame _ | .fetch _ | .unknownCommand | .identify | .readAttention | .setAttentionMask | .enrolLoad | .planLoad
  | .readLoad | .findLoad | .listChanged | .readQueue | .readHolds | .removeGroup | .readGroup | .readClock
  | .readAuthority | .readWakePlan | .readLine | .timeBaseSecond | .holdMinute | .exchangeStart _ => true
  | _ => false

/-- The transactions of the command port. -/
def isTransaction : Instr → Bool
  | .commandFrame _ | .fetch _ => true
  | _ => false

/-- Events of the part: rows that neither come over the command port nor reset the part. -/
def isEvent : Instr → Bool
  | .timeBaseSecond | .plantClockMinute | .midnight | .activityPeriodEnd | .minimumRunReached _ | .portHoldExpiry _
  | .buttonHoldExpiry _ | .holdMinute | .stopVerifyTimerExpiry _ | .startVerifyTimerExpiry _ | .restEnd _ | .settleEnd _
  | .wakeSlot _ | .guardEnd _ | .exchangeStart _ | .replyWindowExpiry _ | .replyEnd _ _ => true
  | _ => false

end Sys2Proof.Machine
end

