-- ==== Sys2Proof/Certificates/Slice0/Obligations.lean ====
section
/-! DEFINITION. The statements about the NB3240, for the provers. Each docstring names the rules of spec/ it formalises; `t` is
always the state after the command. `s.Sent code params` says that the frame of that code with those parameter bytes is the
command in execution, and `s.respond code data` is `s` with that answer written and the port IDLE (R160). -/

open Sys2Proof Sys2Proof.Machine

/-! ### The machine and its resets -/

/-- One step takes the command at the front of the queue of waiting commands, and on an empty queue the part idles (the idling
is the model's choice, log entry 6). -/
def Obligations.StepTakesFrontCommand : Prop :=
  (∀ (s : State) (c : Instr) (rest : List Instr), s.pending = c :: rest → step s = exec c { s with pending := rest })
    ∧ ∀ s : State, s.pending = [] → step s = .next s

/-- The part never stops: every command and event, in every state, answers a next state, and none touches the commands
that wait behind it. This is the model's reading (log entry 20: no rule stops the part); a row that is not due leaves the
state as it is (log entry 4), and a hardware reset keeps the commands that wait (log entry 17). -/
def Obligations.EveryCommandCompletes : Prop :=
  ∀ (i : Instr) (s : State), ∃ t, exec i s = .next t ∧ t.pending = s.pending

/-- R23, R44, R87, R101, R120, R133, R143, R157, R171: what a hardware reset leaves. `finishing` is the model's own field (log
entries 17 and 23). That MISO is at high impedance after the reset is the model's inference (DEDUCED, log entry 11): R158 says so only
while CSN is high. -/
def Obligations.HardwareResetValues : Prop :=
  ∀ s : State, ∃ t, exec .hardwareReset s = .next t
    ∧ t.timeBase = 0 ∧ t.clock = none ∧ (∀ d : Fin 7, t.dayMap[d] = .work) ∧ t.todayOverride = none ∧ t.yesterday = .work
    ∧ (∀ w : Fin 18, t.windows[w] = { start := 0, stop := 0, authority := 0 }) ∧ t.authority = 0
    ∧ t.period = 10 ∧ t.periodEnd = 10
    ∧ (∀ n, t.load n = none) ∧ t.marks = [] ∧ (∀ n, Table.find t.slotOutcomes n = none) ∧ t.listCursor = 239
    ∧ t.holds = [] ∧ (∀ g, t.group g = none) ∧ t.queue = [] ∧ t.arrivals = 0
    ∧ (∀ f : Fin 8, t.feeders[f] = .free) ∧ t.inrushLimit = 8 ∧ t.settleTime = 5 ∧ (∀ p, t.plan p = none)
    ∧ (∀ l : Fin 4, (t.lineAt l).enabled = false ∧ (t.lineAt l).divisor = 48 ∧ (t.lineAt l).replyWindow = 8
        ∧ (t.lineAt l).lossCount = 3 ∧ (t.lineAt l).exchange = none ∧ t.ring l = [] ∧ (t.lineAt l).cursor = 1
        ∧ (t.lineAt l).pass = 0 ∧ (t.lineAt l).urgent = [] ∧ (t.lineAt l).lost = [] ∧ (t.lineAt l).silent = 0
        ∧ (t.lineAt l).framing = 0 ∧ (t.lineAt l).check = 0 ∧ (t.lineAt l).stray = 0 ∧ (t.lineAt l).overflow = false
        ∧ (t.lineAt l).deNow = false ∧ (t.lineAt l).txdNow = true)
    ∧ t.executing = none ∧ t.answer = none ∧ t.finishing = false ∧ t.overrun = false ∧ t.mask = 63 ∧ t.misoNow = none
    ∧ t.attentionFlags = 32 ∧ t.attnLow = true

/-- Every law of Safety.lean holds right after reset. -/
def Obligations.LawsHoldAtReset : Prop :=
  Canonical State.reset ∧ SlotLaw State.reset ∧ QueueLaw State.reset ∧ FeederLaw State.reset ∧ BudgetLaw State.reset
    ∧ PacingLaw State.reset ∧ KeepOffLaw State.reset ∧ RaiseLaw State.reset ∧ HoldLaw State.reset
    ∧ ThresholdLaw State.reset ∧ DropLaw State.reset ∧ GraphLaw State.reset ∧ RecordLaw State.reset
    ∧ AuthorityLaw State.reset ∧ LineLaw State.reset

/-! ### The command port -/

/-- R158, R159, R161, R162, R172: the transactions of the port. The whole bytes of a transaction whose first byte is not 1, sent most
significant bit first, are a command frame; the bits of an incomplete last byte are discarded; MISO reads 0 throughout; a
transaction with no whole byte has no effect. MISO is at high impedance (`none`) once CSN has risen. On an IDLE port the frame becomes the command in execution; on an EXECUTING port
it is discarded and OVERRUN is set; where a READ ATTENTION or a RESET CONTROL has been taken and its answer may still be
unwritten, either happens, which the model leaves free (log entry 23). A FETCH of `clocks` SCLK cycles is taken at its first
byte (log entry 11): it shifts out PENDING while the port is EXECUTING, and a command that ends during it changes nothing of
what it shifts out; else the buffered answer, which leaves the buffer when its last byte has been clocked out, or DONE with
length 0. After such a READ ATTENTION or RESET CONTROL a FETCH may likewise find the port still EXECUTING and shift PENDING, and
the port may go on so for the next transaction; or it finds the answer written, and no later transaction comes before it. -/
def Obligations.TransactionsReachPort : Prop :=
  (∀ (s t : State) (i : Instr), isTransaction i = true → exec i s = .next t → t = s ∨ t.misoNow = none)
  ∧ (∀ (s : State) (extra : List Bool), extra.length < 8 →
    exec (.commandFrame extra) s = .next s
    ∧ ∀ (b : Byte) (rest : List Byte), b ≠ 1 →
      (s.executing = none → s.finishing = false →
        exec (.commandFrame ((b :: rest).flatMap portBits ++ extra)) s
          = .next { s with miso := List.replicate (rest.length + 1) (some 0) ++ [none], executing := some (b :: rest) })
      ∧ (s.executing = none → s.finishing = true →
        exec (.commandFrame ((b :: rest).flatMap portBits ++ extra)) s
            = .next { s with
                miso := List.replicate (rest.length + 1) (some 0) ++ [none], executing := some (b :: rest), finishing := false
                choices := s.choices + 1 }
          ∨ exec (.commandFrame ((b :: rest).flatMap portBits ++ extra)) s
            = .next { s with miso := List.replicate (rest.length + 1) (some 0) ++ [none], overrun := true, choices := s.choices + 1 })
      ∧ (s.executing ≠ none →
        exec (.commandFrame ((b :: rest).flatMap portBits ++ extra)) s
          = .next { s with miso := List.replicate (rest.length + 1) (some 0) ++ [none], overrun := true }))
  ∧ ∀ (s : State) (clocks n : Nat), n = clocks / 8 →
    (n = 0 → exec (.fetch clocks) s = .next s)
    ∧ (0 < n → s.executing ≠ none →
        exec (.fetch clocks) s = .next { s with miso := (([0, 1, 0, 0] ++ List.replicate n 0 : List Byte).take n).map some ++ [none] }
        ∧ ∀ t i u, exec (.fetch clocks) s = .next t → (i = .unknownCommand ∨ ∃ c k, (i, c, k) ∈ commandTable) →
            exec i t = .next u → u.miso = (([0, 1, 0, 0] ++ List.replicate n 0 : List Byte).take n).map some ++ [none])
    ∧ ∀ (stream : List Byte) (left : Option Answer), 0 < n → s.executing = none →
        ((s.answer = none ∧ stream = List.replicate n 0 ∧ left = none)
          ∨ ∃ a, s.answer = some a ∧ left = (if 4 + a.data.length ≤ n then none else some a)
            ∧ stream = ([0, a.code.toByte, byte (a.data.length / 256), byte a.data.length] ++ a.data
              ++ List.replicate n 0).take n) →
      (s.finishing = false → exec (.fetch clocks) s = .next { s with miso := stream.map some ++ [none], answer := left })
      ∧ (s.finishing = true →
        exec (.fetch clocks) s
            = .next { s with miso := stream.map some ++ [none], answer := left, finishing := false, choices := s.choices + 1 }
          ∨ exec (.fetch clocks) s
            = .next { s with miso := (([0, 1, 0, 0] ++ List.replicate n 0 : List Byte).take n).map some ++ [none], choices := s.choices + 1 })

/-- R159, R160, R163: a frame with fewer than two bytes, with a length byte above 38, or with a number of parameter bytes that
differs from the length byte is answered BAD LENGTH; otherwise a code that names no command is answered UNKNOWN COMMAND; and a
frame well formed as a frame, but with another number of parameter bytes than its command asks for, is answered BAD LENGTH.
Nothing else changes. That a malformed frame of an unknown code is answered BAD LENGTH, and not UNKNOWN COMMAND, is the model's
choice of an order the rules do not give (log entry 10). -/
def Obligations.BadFramesAnswered : Prop :=
  (∀ (s : State) (frame : List Byte), s.executing = some frame →
    (frame.length < 2 → exec .unknownCommand s = .next (s.respond .badLength []))
    ∧ ∀ (c len : Byte) (params : List Byte), frame = c :: len :: params →
      (38 < len.toNat ∨ params.length ≠ len.toNat → exec .unknownCommand s = .next (s.respond .badLength []))
      ∧ (len.toNat ≤ 38 → params.length = len.toNat → (∀ e ∈ commandTable, e.2.1 ≠ c) →
          exec .unknownCommand s = .next (s.respond .unknownCommand [])))
  ∧ ∀ (s : State) (i : Instr) (c : Byte) (k : Nat) (params : List Byte), Canonical s → (i, c, k) ∈ commandTable →
    params.length ≤ 38 → params.length ≠ k → s.Sent c params → exec i s = .next (s.respond .badLength [])

/-- R163, R172: a command answered with any code but DONE has changed nothing and its answer carries no data. -/
def Obligations.RefusedCommandChangesNothing : Prop :=
  ∀ (s t : State) (i : Instr) (c : Byte) (k : Nat) (params : List Byte) (a : Answer), Canonical s →
    (i, c, k) ∈ commandTable → params.length ≤ 38 → s.Sent c params → exec i s = .next t → t.answer = some a →
    a.code ≠ .done → a.data = [] ∧ t = s.respond a.code []

/-- R168, R169, R170: what each attention flag is set by, and when ATTN is low; READ ATTENTION answers the nine bytes and then clears
OVERRUN; SET ATTENTION MASK writes the mask, or is answered BAD VALUE for a byte above 63. The ninth byte is 1 while the time
base is below 60 with the clock UNSET, which is the model's reading of the first minute after a hardware reset (log entry
18); `finishing` is the model's own way to hold the frame that R162 lets arrive before the answer (log entry 23). -/
def Obligations.AttentionFollowsState : Prop :=
  (∀ s : State, Canonical s →
    (s.attentionFlags.getLsbD 0 = true ↔ ∃ n, n ∈ s.marks)
    ∧ (s.attentionFlags.getLsbD 1 = true ↔ ∃ n, s.stateOf n = some .fault)
    ∧ (s.attentionFlags.getLsbD 2 = true ↔ ∃ g x, s.group g = some x ∧ x.state = .short)
    ∧ (s.attentionFlags.getLsbD 3 = true ↔ ∃ l : Fin 4, (s.lineAt l).lost ≠ [] ∨ (s.lineAt l).overflow = true)
    ∧ (s.attentionFlags.getLsbD 4 = true ↔ s.overrun = true)
    ∧ (s.attentionFlags.getLsbD 5 = true ↔ s.clock = none)
    ∧ (s.attnLow = true ↔ ∃ k, k < 6 ∧ s.attentionFlags.getLsbD k = true ∧ s.mask.getLsbD k = true))
  ∧ ∀ s : State, Canonical s →
    (s.Sent 0x03 [] → exec .readAttention s = .next (({ s with overrun := false, finishing := true } : State).respond .done
        [s.attentionFlags.setWidth 8, s.mask.setWidth 8, byte (s.marks.length / 256), byte s.marks.length,
         byte s.faultCount, byte s.shortCount, byte s.lostCount, byte s.overflowCount,
         if s.timeBase < 60 ∧ s.clock = none then 1 else 0]))
    ∧ ∀ m : Byte, s.Sent 0x04 [m] →
      (m.toNat ≤ 63 → exec .setAttentionMask s = .next (({ s with mask := m.setWidth 6 } : State).respond .done []))
      ∧ (63 < m.toNat → exec .setAttentionMask s = .next (s.respond .badValue []))

/-- R164: IDENTIFY answers, in every state, vendor 19, part 3240, revision 1 and the sizes of the tables; with parameter bytes
it is answered BAD LENGTH. -/
def Obligations.IdentifyAnswersTwelveBytes : Prop :=
  ∀ s : State, Canonical s →
    (s.Sent 0x02 [] →
      exec .identify s = .next (s.respond .done [0, 19, 0x0C, 0xA8, 1, 240, 96, 16, 32, 4, 8, 4]))
    ∧ ∀ params : List Byte, params ≠ [] → params.length ≤ 38 → s.Sent 0x02 params →
      exec .identify s = .next (s.respond .badLength [])

/-- R167 with R24, R72, R44, R87, R101, R120, R121, R133, R143, R157: what RESET CONTROL leaves. The activation day of a plan
that the reset ends is stated for a set clock (no ACTIVE plan meets an UNSET clock). That TXD is at mark is the model's inference from
R149, for R157 names DE alone (log entry 12). That a frame may still arrive before the
answer (`finishing`) is the model's own way to hold R162's late frame (log entry 23). -/
def Obligations.ResetControlValues : Prop :=
  ∀ s : State, s.Sent 0x05 [] → ∃ t, exec .resetControl s = .next t
    ∧ (∀ n, t.load n = (s.load n).map (fun r =>
        { r with
          state := .unknown
          commanded := if r.commanded = .release then .run else r.commanded
          blockReason := .none, portStop := none, lastRun := none, retireExchanges := 0, idleClock := 0, baseline := none
          figures := { strokeSum := 0, largest := none, seen := false }
          missCount := 0, verifyEnd := none
          lastOutcome :=
            match r.state with
            | .stopping => some { operation := .stop, result := .aborted, time := s.stamp }
            | .queued | .starting => some { operation := .start, result := .aborted, time := s.stamp }
            | .retiring => some { operation := .retire, result := .aborted, time := s.stamp }
            | .unknown | .run | .idle | .due | .stopped | .inLocal | .fault => r.lastOutcome }))
    ∧ (∀ n, n ∈ t.marks ↔ n < 240) ∧ t.listCursor = 239 ∧ t.slotOutcomes = s.slotOutcomes ∧ t.holds = s.holds
    ∧ (∀ g, t.group g = (s.group g).map (fun x => { x with state := .normal, failed := [] }))
    ∧ t.queue = [] ∧ t.arrivals = 0 ∧ (∀ f : Fin 8, t.feeders[f] = .free)
    ∧ t.inrushLimit = s.inrushLimit ∧ t.settleTime = s.settleTime ∧ t.period = s.period ∧ t.periodEnd = s.periodEnd
    ∧ (∀ c, s.clock = some c → ∀ p, t.plan p = (s.plan p).map (fun x =>
        if x.state = .active then
          { x with state := .done, cursor := 2 ^ x.bits, activationDay := some c.day, guardEnd := none }
        else { x with guardEnd := none }))
    ∧ (∀ l : Fin 4, t.lineAt l = { s.lineAt l with
        exchange := none, txd := [true], de := [false], cursor := 1, pass := 0, urgent := [], lost := [], silent := 0
        framing := 0, check := 0, stray := 0, overflow := false }
        ∧ (t.lineAt l).txdNow = true ∧ (t.lineAt l).deNow = false)
    ∧ t.timeBase = s.timeBase ∧ t.nextHoldMinute = s.nextHoldMinute ∧ t.clock = s.clock ∧ t.dayMap = s.dayMap
    ∧ t.todayOverride = s.todayOverride ∧ t.yesterday = s.yesterday ∧ t.windows = s.windows
    ∧ t.authority = t.computedAuthority ∧ t.guarded = false
    ∧ t.overrun = false ∧ t.finishing = true ∧ t.mask = s.mask ∧ t.executing = none ∧ t.answer = some { code := .done, data := [] }
    ∧ t.changedFlag = true ∧ t.faultFlag = false ∧ t.shortFlag = false ∧ t.lineFlag = false

/-- R165, R25, R126, R128: SET PLANT clamps and writes its three values together, and the arbiter examines the queue under them,
unless two or more loads are in STARTING and the clamped limit is below their weight sum: then it is answered WRONG STATE and
writes none. Where there is no group to tell, or where the examination grants nothing, the step is exactly one examination of the
state with the values written. -/
def Obligations.SetPlantWritesOrRefuses : Prop :=
  ∀ (s : State) (p limit settle : Byte), Canonical s → s.Sent 0x06 [p, limit, settle] →
    (2 ≤ s.startingCount → max 1 (min 60 limit.toNat) < s.startingSum →
      exec .setPlant s = .next (s.respond .wrongState []))
    ∧ (s.startingCount < 2 ∨ s.startingSum ≤ max 1 (min 60 limit.toNat) →
      ∃ t, exec .setPlant s = .next t ∧ t.period = max 5 (min 60 p.toNat) ∧ t.inrushLimit = max 1 (min 60 limit.toNat)
        ∧ t.settleTime = min 60 settle.toNat ∧ t.periodEnd = s.periodEnd
        ∧ t.answer = some { code := .done, data := [] } ∧ t.executing = none
        ∧ ∀ u, u = { s with
              period := max 5 (min 60 p.toNat), inrushLimit := max 1 (min 60 limit.toNat), settleTime := min 60 settle.toNat } →
            s.groups = [] ∨ u.examine.queue.length = s.queue.length → t = u.examine.respond .done [])

/-! ### The load table -/

/-- R9, R10: ENROL LOAD is refused by the first check that fails, and otherwise creates the record with the values of R10. -/
def Obligations.EnrolLoadCreatesRecord : Prop :=
  ∀ (s : State) (n line address feeder weight : Byte), Canonical s → s.Sent 0x10 [n, line, address, feeder, weight] →
    (239 < n.toNat ∨ 3 < line.toNat ∨ address = 0 ∨ 60 < address.toNat ∨ 7 < feeder.toNat ∨ weight = 0 ∨ 15 < weight.toNat →
      exec .enrolLoad s = .next (s.respond .badValue []))
    ∧ (n.toNat ≤ 239 → line.toNat ≤ 3 → address ≠ 0 → address.toNat ≤ 60 → feeder.toNat ≤ 7 → weight ≠ 0 →
        weight.toNat ≤ 15 →
      (s.stateOf n.toNat = some .retiring → exec .enrolLoad s = .next (s.respond .wrongState []))
      ∧ (∀ st, s.stateOf n.toNat = some st → st ≠ .retiring → exec .enrolLoad s = .next (s.respond .conflict []))
      ∧ (s.load n.toNat = none →
        (∃ m r, s.load m = some r ∧ r.line.val = line.toNat ∧ r.address = address.toNat) →
          exec .enrolLoad s = .next (s.respond .conflict []))
      ∧ (s.load n.toNat = none →
        (∀ m r, s.load m = some r → ¬ (r.line.val = line.toNat ∧ r.address = address.toNat)) →
        ∃ t r, exec .enrolLoad s = .next t ∧ t.load n.toNat = some r
          ∧ r.line.val = line.toNat ∧ r.address = address.toNat ∧ r.feeder.val = feeder.toNat ∧ r.weight = weight.toNat
          ∧ r.tuning =
            { idleEnter := 100, idleLeave := 200, smoothing := 3, strokeWeight := 4, currentFloor := 20,
              idleDelay := 30, minimumRun := 10, minimumOff := 5, stopVerify := 300, startVerify := 60, buttonTime := 60 }
          ∧ r.provides = none ∧ r.drawsA = none ∧ r.drawsB = none ∧ r.membership = none ∧ r.state = .unknown
          ∧ r.commanded = .run ∧ r.startCount = 0 ∧ r.buttonTaken = 0 ∧ r.runSince = s.timeBase ∧ r.offSince = s.timeBase
          ∧ r.blockReason = .none ∧ r.portStop = none ∧ r.lastRun = none ∧ r.retireExchanges = 0 ∧ r.level = 200
          ∧ r.idleClock = 0 ∧ r.baseline = none
          ∧ r.figures = { strokeSum := 0, largest := none, seen := false } ∧ r.missCount = 0 ∧ r.buttonHold = none
          ∧ r.isolatorHold = false ∧ r.lastOutcome = none ∧ r.verifyEnd = none
          ∧ (∀ m, m ≠ n.toNat → t.load m = s.load m) ∧ Table.find t.slotOutcomes n.toNat = none ∧ n.toNat ∈ t.marks
          ∧ address.toNat ∈ t.ring r.line ∧ t.lines = s.lines ∧ t.holds = s.holds ∧ t.groups = s.groups
          ∧ t.queue = s.queue ∧ t.feeders = s.feeders
          ∧ t.answer = some { code := .done, data := [] } ∧ t.executing = none))

/-- R11, R3, R12, R57, R128: TUNE LOAD is refused by the first check that fails, and otherwise writes feeder, weight, TL and TH as given and
each other value clamped to its range; the record's state and everything else in it stay, but for a hand-off: a DUE record whose
minimum run has changed is evaluated (R12, R57), and a QUEUED record whose minimum off, feeder or weight has changed has the queue
examined (R12, R128), which is stated whole where there is no group to tell or nothing is granted; every other TUNE LOAD writes
the record and hands on nothing. -/
def Obligations.TuneLoadClampsAndWrites : Prop :=
  ∀ (s : State) (n feeder weight tlh tll thh thl k sw cf idh idl mr mo svh svl tvh tvl bt : Byte), Canonical s →
    s.Sent 0x11 [n, feeder, weight, tlh, tll, thh, thl, k, sw, cf, idh, idl, mr, mo, svh, svl, tvh, tvl, bt] →
    (239 < n.toNat ∨ 7 < feeder.toNat ∨ weight = 0 ∨ 15 < weight.toNat
        ∨ thh.toNat * 256 + thl.toNat ≤ tlh.toNat * 256 + tll.toNat →
      exec .tuneLoad s = .next (s.respond .badValue []))
    ∧ (n.toNat ≤ 239 → feeder.toNat ≤ 7 → weight ≠ 0 → weight.toNat ≤ 15 →
        tlh.toNat * 256 + tll.toNat < thh.toNat * 256 + thl.toNat →
      (s.load n.toNat = none → exec .tuneLoad s = .next (s.respond .noSuch []))
      ∧ ∀ r, s.load n.toNat = some r →
        (r.state = .starting → (r.feeder.val ≠ feeder.toNat ∨ r.weight ≠ weight.toNat) →
          exec .tuneLoad s = .next (s.respond .wrongState []))
        ∧ (r.state ≠ .starting ∨ (r.feeder.val = feeder.toNat ∧ r.weight = weight.toNat) →
          ∃ t r1 r', exec .tuneLoad s = .next t ∧ t.load n.toNat = some r' ∧ HandedOn s.timeBase r1 r'
            ∧ r1.feeder.val = feeder.toNat
            ∧ r1 = { r with
                feeder := r1.feeder
                weight := weight.toNat
                tuning :=
                  { idleEnter := tlh.toNat * 256 + tll.toNat
                    idleLeave := thh.toNat * 256 + thl.toNat
                    smoothing := min 7 k.toNat
                    strokeWeight := min 15 sw.toNat
                    currentFloor := min 250 cf.toNat
                    idleDelay := min 720 (max 1 (idh.toNat * 256 + idl.toNat))
                    minimumRun := mr.toNat
                    minimumOff := mo.toNat
                    stopVerify := min 1800 (max 10 (svh.toNat * 256 + svl.toNat))
                    startVerify := min 300 (max 2 (tvh.toNat * 256 + tvl.toNat))
                    buttonTime := min 240 (max 1 bt.toNat) } }
            ∧ t.answer = some { code := .done, data := [] } ∧ t.executing = none
            ∧ (r.state = .due → r1.tuning.minimumRun ≠ r.tuning.minimumRun →
              s.Judged s.authority n.toNat r1 r' ∧ (s.setLoad n.toNat r1).Evaluated n.toNat r1 r')
            ∧ (r.state = .queued → (r1.tuning.minimumOff ≠ r.tuning.minimumOff ∨ r1.feeder ≠ r.feeder ∨ r1.weight ≠ r.weight) →
              ∀ u, u = s.setLoad n.toNat r1 → s.groups = [] ∨ u.examine.queue.length = s.queue.length →
                t = u.examine.respond .done [])
            ∧ ((r.state ≠ .due ∨ r1.tuning.minimumRun = r.tuning.minimumRun) →
              (r.state ≠ .queued ∨ (r1.tuning.minimumOff = r.tuning.minimumOff ∧ r1.feeder = r.feeder ∧ r1.weight = r.weight)) →
                t = (s.setLoad n.toNat r1).respond .done [])))

/-- R13, R14, R57, R117, R15: LINK LOAD with values in range is refused by the first check of steps 3 to 9 that fails, and otherwise writes the
three links; the record's state and everything else in it stay, but for a hand-off. A DUE record whose links have changed is
evaluated (R57); its groups test in the same step, so that for a provider SUPPLY or PACING may have come to fail
(`EvaluatedAmong`). A provider whose link is removed
or moved leaves the failed-raise sets, and one that keeps its group stays in its set until the group is NORMAL (R117). Links
written as they were change nothing. Values out of range are answered BAD VALUE. Step 9 is the property of R106: no cycle and no chain of more than four groups. PLAN LOAD is refused by the first check
that fails, and otherwise writes the membership and nothing else. -/
def Obligations.LinkAndPlanLoadCheckAndWrite : Prop :=
  (∀ (s : State) (n pg pr pc ag ad bg bd : Byte), Canonical s → s.Sent 0x12 [n, pg, pr, pc, ag, ad, bg, bd] →
    (239 < n.toNat ∨ (15 < pg.toNat ∧ pg ≠ 255) ∨ (15 < ag.toNat ∧ ag ≠ 255) ∨ (15 < bg.toNat ∧ bg ≠ 255)
        ∨ (pg ≠ 255 ∧ (5 < pr.toNat ∨ pc = 0)) ∨ (ag ≠ 255 ∧ ad = 0) ∨ (bg ≠ 255 ∧ bd = 0) →
      exec .linkLoad s = .next (s.respond .badValue []))
    ∧ (n.toNat ≤ 239 → (pg.toNat ≤ 15 ∧ pr.toNat ≤ 5 ∧ pc ≠ 0 ∨ pg = 255) → (ag.toNat ≤ 15 ∧ ad ≠ 0 ∨ ag = 255) →
        (bg.toNat ≤ 15 ∧ bd ≠ 0 ∨ bg = 255) →
      (s.load n.toNat = none → exec .linkLoad s = .next (s.respond .noSuch []))
      ∧ ∀ (r r1 : LoadRecord), s.load n.toNat = some r →
        r1 = { r with
          provides :=
            if pg = 255 then none else some { group := pg.toNat, rank := pr.toNat, capacity := pc.toNat }
          drawsA := if ag = 255 then none else some { group := ag.toNat, demand := ad.toNat }
          drawsB := if bg = 255 then none else some { group := bg.toNat, demand := bd.toNat } } →
        -- step 4
        ((∃ g : Byte, (g = pg ∨ g = ag ∨ g = bg) ∧ g ≠ 255 ∧ s.group g.toNat = none) →
          exec .linkLoad s = .next (s.respond .noSuch []))
        ∧ ((∀ g : Byte, (g = pg ∨ g = ag ∨ g = bg) → g ≠ 255 → s.group g.toNat ≠ none) →
          -- step 5
          (r.state = .stopping ∨ r.state = .queued ∨ r.state = .starting ∨ r.state = .retiring →
            exec .linkLoad s = .next (s.respond .wrongState []))
          ∧ (r.state ≠ .stopping → r.state ≠ .queued → r.state ≠ .starting → r.state ≠ .retiring →
            -- step 6
            ((ag ≠ 255 ∧ ag = bg) ∨ (pg ≠ 255 ∧ (pg = ag ∨ pg = bg)) →
              exec .linkLoad s = .next (s.respond .conflict []))
            ∧ (¬ (ag ≠ 255 ∧ ag = bg) → ¬ (pg ≠ 255 ∧ (pg = ag ∨ pg = bg)) →
              -- step 7
              (pg ≠ 255 → 6 ≤ (s.otherProviders pg.toNat n.toNat).length →
                exec .linkLoad s = .next (s.respond .full []))
              ∧ (pg = 255 ∨ (s.otherProviders pg.toNat n.toNat).length < 6 →
                -- step 8
                (pg ≠ 255 → (∃ m rm pm, m ≠ n.toNat ∧ s.load m = some rm ∧ rm.provides = some pm
                    ∧ pm.group = pg.toNat ∧ pm.rank = pr.toNat) →
                  exec .linkLoad s = .next (s.respond .conflict []))
                ∧ (pg = 255 ∨ (∀ m rm pm, m ≠ n.toNat → s.load m = some rm → rm.provides = some pm →
                    pm.group = pg.toNat → pm.rank ≠ pr.toNat) →
                  -- step 9
                  (¬ GraphSound (dependencyEdges (s.setLoad n.toNat r1).loads) →
                    exec .linkLoad s = .next (s.respond .conflict []))
                  ∧ (GraphSound (dependencyEdges (s.setLoad n.toNat r1).loads) →
                    ∃ t r', exec .linkLoad s = .next t ∧ t.load n.toNat = some r' ∧ HandedOn s.timeBase r1 r'
                      ∧ t.answer = some { code := .done, data := [] } ∧ t.executing = none
                      ∧ (r1 = r → t = s.respond .done [])
                      ∧ (r.state = .due → r1 ≠ r →
                        s.Judged s.authority n.toNat r1 r' ∧ (s.setLoad n.toNat r1).EvaluatedAmong n.toNat r1 r')
                      ∧ (∀ p, r.provides = some p → pg.toNat ≠ p.group ∨ pg = 255 → RaiseLaw s →
                        ∀ g x, t.group g = some x → n.toNat ∉ x.failed)
                      ∧ (∀ p x, r.provides = some p → pg.toNat = p.group → pg ≠ 255 → s.group p.group = some x →
                        n.toNat ∈ x.failed → ∃ y, t.group p.group = some y ∧ (n.toNat ∈ y.failed ∨ y.failed = []))))))))))
  ∧ ∀ (s : State) (n plan ordinal : Byte), Canonical s → s.Sent 0x13 [n, plan, ordinal] →
    (239 < n.toNat ∨ (plan ≠ 255 ∧ (3 < plan.toNat ∨ 63 < ordinal.toNat)) →
      exec .planLoad s = .next (s.respond .badValue []))
    ∧ (n.toNat ≤ 239 → (plan = 255 ∨ (plan.toNat ≤ 3 ∧ ordinal.toNat ≤ 63)) →
      (s.load n.toNat = none → exec .planLoad s = .next (s.respond .noSuch []))
      ∧ ∀ r, s.load n.toNat = some r →
        (r.state = .retiring → exec .planLoad s = .next (s.respond .wrongState []))
        ∧ (r.state ≠ .retiring →
          exec .planLoad s = .next ((s.setLoad n.toNat { r with
            membership :=
              if plan = 255 then none else some { plan := plan.toNat, ordinal := ordinal.toNat } }).respond .done [])))

/-- R16, R173: the codes of the fields, and READ LOAD answers 64 bytes for a live record and 7 for a VACANT slot, each field at its offset; the bytes
that follow the group byte of an absent link or the plan byte of an absent membership are free (log entry 5), and nothing is
said of them. A button hold counted down to 0, its expiry row not yet taken, reads as absent, which is the model's choice (log entry
9). The choice counter, the model's own field, is all that moves. -/
def Obligations.ReadLoadAnswersRecord : Prop :=
  ([LoadState.unknown, .run, .idle, .due, .stopping, .stopped, .queued, .starting, .inLocal, .fault, .retiring].map
      LoadState.code = [0, 1, 2, 3, 4, 5, 6, 7, 8, 9, 10]
    ∧ [Commanded.run, .stop, .release].map Commanded.code = [0, 1, 2]
    ∧ [BlockReason.none, .authority, .hold, .minRun, .supply, .pacing].map BlockReason.code = [0, 1, 2, 3, 4, 5]
    ∧ [RunState.stopped, .running, .accelerating, .coasting].map RunState.code = [0, 1, 2, 3]
    ∧ [Operation.stop, .start, .retire].map Operation.code = [1, 2, 3]
    ∧ [OpResult.completed, .declined, .timedOut, .overtaken, .cancelled, .lost, .aborted, .missed].map OpResult.code
      = [0, 1, 2, 3, 4, 5, 6, 7])
  ∧ ∀ (s : State) (n : Byte), Canonical s → s.Sent 0x14 [n] →
    (239 < n.toNat → exec .readLoad s = .next (s.respond .badValue []))
    ∧ (n.toNat ≤ 239 → s.load n.toNat = none →
        (Table.find s.slotOutcomes n.toNat = none →
          exec .readLoad s = .next (s.respond .done [n, 255, 0, 0, 0, 0, 0]))
        ∧ ∀ o, Table.find s.slotOutcomes n.toNat = some o →
          (∀ x, o.time = some x → exec .readLoad s = .next (s.respond .done
            [n, 255, o.operation.code, o.result.code, byte x.day.val, byte (x.minute / 256), byte x.minute]))
          ∧ (o.time = none → exec .readLoad s = .next (s.respond .done
            [n, 255, o.operation.code, o.result.code, 255, 0, 0])))
    ∧ ∀ r, n.toNat ≤ 239 → s.load n.toNat = some r →
      ∃ d, exec .readLoad s = .next (({ s with choices := s.choices + 1 } : State).respond .done d) ∧ d.length = 64
        ∧ d.take 22 = [n, r.state.code, byte r.line.val, byte r.address, byte r.feeder.val, byte r.weight,
            byte (r.tuning.idleEnter / 256), byte r.tuning.idleEnter, byte (r.tuning.idleLeave / 256),
            byte r.tuning.idleLeave, byte r.tuning.smoothing, byte r.tuning.strokeWeight, byte r.tuning.currentFloor,
            byte (r.tuning.idleDelay / 256), byte r.tuning.idleDelay, byte r.tuning.minimumRun, byte r.tuning.minimumOff,
            byte (r.tuning.stopVerify / 256), byte r.tuning.stopVerify, byte (r.tuning.startVerify / 256),
            byte r.tuning.startVerify, byte r.tuning.buttonTime]
        ∧ (r.provides = none → d[22]? = some 255)
        ∧ (∀ p, r.provides = some p → (d.drop 22).take 3 = [byte p.group, byte p.rank, byte p.capacity])
        ∧ (r.drawsA = none → d[25]? = some 255)
        ∧ (∀ x, r.drawsA = some x → (d.drop 25).take 2 = [byte x.group, byte x.demand])
        ∧ (r.drawsB = none → d[27]? = some 255)
        ∧ (∀ x, r.drawsB = some x → (d.drop 27).take 2 = [byte x.group, byte x.demand])
        ∧ (r.membership = none → d[29]? = some 255)
        ∧ (∀ x, r.membership = some x → (d.drop 29).take 2 = [byte x.plan, byte x.ordinal])
        ∧ (d.drop 31).take 19 = [r.commanded.code.setWidth 8, r.startCount.setWidth 8, r.buttonTaken.setWidth 8,
            byte (r.runSince / 16777216), byte (r.runSince / 65536), byte (r.runSince / 256), byte r.runSince,
            byte (r.offSince / 16777216), byte (r.offSince / 65536), byte (r.offSince / 256), byte r.offSince,
            r.blockReason.code, byte (r.portStop.getD 0),
            (match r.lastRun with
              | none => 255
              | some x => x.code),
            byte r.retireExchanges, byte (r.level / 256), byte r.level, byte (r.idleClock / 256), byte r.idleClock]
        ∧ (r.baseline = none → (d.drop 50).take 2 = [255, 255])
        ∧ (∀ b, r.baseline = some b → (d.drop 50).take 2 = [0, b])
        ∧ (d.drop 52).take 7 = [byte (r.figures.strokeSum / 256), byte r.figures.strokeSum,
            byte (r.figures.largest.getD 255), (if r.figures.seen = true then 1 else 0), byte r.missCount,
            byte (r.buttonHold.getD 0), (if r.isolatorHold = true then 1 else 0)]
        ∧ (r.lastOutcome = none → d.drop 59 = [0, 0, 0, 0, 0])
        ∧ ∀ o, r.lastOutcome = some o →
          (d.drop 59).take 2 = [o.operation.code, o.result.code]
          ∧ (o.time = none → d.drop 61 = [255, 0, 0])
          ∧ ∀ x, o.time = some x → d.drop 61 = [byte x.day.val, byte (x.minute / 256), byte x.minute]

/-- R17: FIND LOAD answers the load number of the live record, in any state, that names the line and drop address. -/
def Obligations.FindLoadAnswersHolder : Prop :=
  ∀ s : State, Canonical s → DropLaw s →
    (∀ params : List Byte, params.length ≤ 38 → params.length ≠ 2 → s.Sent 0x15 params →
      exec .findLoad s = .next (s.respond .badLength []))
    ∧ ∀ line address : Byte, s.Sent 0x15 [line, address] →
      (3 < line.toNat ∨ address = 0 ∨ 60 < address.toNat → exec .findLoad s = .next (s.respond .badValue []))
      ∧ (line.toNat ≤ 3 → address ≠ 0 → address.toNat ≤ 60 →
        (∀ n r, s.load n = some r → r.line.val = line.toNat → r.address = address.toNat →
          exec .findLoad s = .next (s.respond .done [byte n]))
        ∧ ((∀ n r, s.load n = some r → ¬ (r.line.val = line.toNat ∧ r.address = address.toNat)) →
          exec .findLoad s = .next (s.respond .noSuch [])))

/-- R19: LIST CHANGED takes the first twelve marked slots it meets going round from just after the cursor, reports each with its
state or VACANT, clears their marks, counts the marks left, and moves the cursor to the last slot reported. Where a slot
stands on the way round is `(n + 239 - cursor) % 240`. The command is taken whole, so that no mark appears between the listing and
the count: the model's choice between R19 and R160 (log entry 27). -/
def Obligations.ListChangedReportsMarks : Prop :=
  ∀ s : State, Canonical s → SlotLaw s → s.Sent 0x17 [] →
    ∃ (L : List Nat) (t : State), exec .listChanged s = .next (t.respond .done
        ([byte L.length, byte t.marks.length] ++ L.flatMap (fun n => [byte n, s.slotCode n])))
      ∧ t = { s with marks := s.marks.filter (fun n => !L.contains n), listCursor := L.getLast?.getD s.listCursor }
      ∧ L.length = min 12 s.marks.length ∧ (∀ n ∈ L, n ∈ s.marks)
      ∧ L.Pairwise (fun a b => (a + 239 - s.listCursor) % 240 < (b + 239 - s.listCursor) % 240)
      ∧ ∀ m ∈ s.marks, m ∉ L → ∀ n ∈ L, (n + 239 - s.listCursor) % 240 < (m + 239 - s.listCursor) % 240

/-- R20, R21, R22: RETIRE LOAD is refused by the first check that fails. On an enabled line the record enters RETIRING
commanded RELEASE with its links, its button hold, its membership and its port stop request gone; on a disabled line it is
removed at once with RETIRE ABORTED. Either way no port hold names the load, and no other hold has gone. -/
def Obligations.RetireLoadBegins : Prop :=
  ∀ (s : State) (n : Byte), Canonical s → s.Sent 0x16 [n] →
    (239 < n.toNat → exec .retireLoad s = .next (s.respond .badValue []))
    ∧ (n.toNat ≤ 239 → s.load n.toNat = none → exec .retireLoad s = .next (s.respond .noSuch []))
    ∧ ∀ r, n.toNat ≤ 239 → s.load n.toNat = some r →
      (r.state = .stopping ∨ r.state = .queued ∨ r.state = .starting ∨ r.state = .retiring →
        exec .retireLoad s = .next (s.respond .wrongState []))
      ∧ (r.state ≠ .stopping → r.state ≠ .queued → r.state ≠ .starting → r.state ≠ .retiring →
        ∃ t, exec .retireLoad s = .next t ∧ t.holds = s.holds.filter (fun e => e.2.load != n.toNat) ∧ n.toNat ∈ t.marks
          ∧ t.answer = some { code := .done, data := [] } ∧ t.executing = none
          ∧ ((s.lineAt r.line).enabled = true → t.slotOutcomes = s.slotOutcomes ∧ t.load n.toNat = some
              { r with
                state := .retiring, commanded := .release, retireExchanges := 0, idleClock := 0, blockReason := .none
                portStop := none, buttonHold := none, membership := none, provides := none, drawsA := none
                drawsB := none, verifyEnd := none })
          ∧ ((s.lineAt r.line).enabled = false → t.load n.toNat = none
            ∧ Table.find t.slotOutcomes n.toNat = some { operation := .retire, result := .aborted, time := s.stamp }
            ∧ r.address ∉ (t.lineAt r.line).lost))

/-! ### The operation commands -/

/-- R69, R123: START LOAD by the record's state. A request that the queue enters leaves the record QUEUED with an entry of class CALL,
numbered with the arrival count and dated with the time base, or already STARTING where an examination of the same step grants
it. Where nothing but the request moves the queue (no group is defined and no feeder is FREE) the entry stands after the last of
the classes SUPPLY and CALL and before the first WAKE, and every other entry keeps its place. -/
def Obligations.StartLoadByState : Prop :=
  ∀ (s : State) (n : Byte), Canonical s → s.Sent 0x18 [n] →
    (239 < n.toNat → exec .startLoad s = .next (s.respond .badValue []))
    ∧ (n.toNat ≤ 239 → s.load n.toNat = none → exec .startLoad s = .next (s.respond .noSuch []))
    ∧ ∀ r, n.toNat ≤ 239 → s.load n.toNat = some r →
      (r.state = .stopped → s.keepOff n.toNat = true → exec .startLoad s = .next (s.respond .wrongState []))
      ∧ (r.state = .stopped → s.keepOff n.toNat = false → 32 ≤ s.queue.length →
        exec .startLoad s = .next (s.respond .full []))
      ∧ (r.state = .stopped → s.keepOff n.toNat = false → s.queue.length < 32 →
        ∃ t r', exec .startLoad s = .next t ∧ t.answer = some { code := .done, data := [] } ∧ t.executing = none
          ∧ n.toNat ∈ t.marks ∧ t.load n.toNat = some r' ∧ r'.offSince = r.offSince ∧ r'.lastOutcome = r.lastOutcome
          ∧ ((r'.state = .queued ∧ r'.commanded = r.commanded ∧ r'.startCount = r.startCount)
            ∨ (r'.state = .starting ∧ r'.commanded = .run ∧ r'.startCount = r.startCount + 1
              ∧ r'.verifyEnd = some (s.timeBase + r.tuning.startVerify)))
          ∧ (r'.state = .queued → ∃ e ∈ t.queue, e.load = n.toNat ∧ e.cls = .call ∧ e.sequence = s.arrivals
              ∧ e.queuedAt = s.timeBase)
          ∧ (s.groups = [] → t.arrivals = s.arrivals + 1)
          ∧ (s.groups = [] → QueueLaw s → (∀ f : Fin 8, s.feeders[f] ≠ .free) → ∀ kept : Entry → Nat × StartClass × BitVec 32 × Nat,
              (∀ e, kept e = (e.load, e.cls, e.sequence, e.queuedAt)) →
            t.queue.map kept = (s.queue.filter (fun e => e.cls != .wake)).map kept
              ++ [(n.toNat, .call, s.arrivals, s.timeBase)] ++ (s.queue.filter (fun e => e.cls == .wake)).map kept))
      ∧ (r.state = .run ∨ r.state = .idle ∨ r.state = .due ∨ r.state = .queued ∨ r.state = .starting →
        exec .startLoad s = .next (s.respond .done []))
      ∧ (r.state = .stopping ∨ r.state = .unknown ∨ r.state = .inLocal ∨ r.state = .fault ∨ r.state = .retiring →
        exec .startLoad s = .next (s.respond .wrongState []))

/-- R70, R56, R57, R58, R110, R18: STOP LOAD by the record's state. A record in RUN, IDLE or DUE takes the request, is DUE (`r1`) and is
evaluated: it is STOPPING, or DUE with the first condition that fails. That is one evaluation of `r1` exactly, whatever the groups, for a
load that provides none, for a record that was DUE, and where no other provider is DUE and no group that would act on it lacks
supply; elsewhere the hand-offs of a provider's groups may come first. -/
def Obligations.StopLoadByState : Prop :=
  ∀ (s : State) (n a : Byte), Canonical s → s.Sent 0x19 [n, a] →
    (239 < n.toNat ∨ a = 0 ∨ 3 < a.toNat → exec .stopLoad s = .next (s.respond .badValue []))
    ∧ (n.toNat ≤ 239 → a ≠ 0 → a.toNat ≤ 3 → s.load n.toNat = none → exec .stopLoad s = .next (s.respond .noSuch []))
    ∧ ∀ r, n.toNat ≤ 239 → a ≠ 0 → a.toNat ≤ 3 → s.load n.toNat = some r →
      (r.state = .run ∨ r.state = .idle ∨ r.state = .due →
        ∃ t r', exec .stopLoad s = .next t ∧ t.answer = some { code := .done, data := [] } ∧ t.executing = none
          ∧ t.load n.toNat = some r' ∧ r'.portStop = some a.toNat
          ∧ ((r'.state = .due ∧ r'.idleClock = r.idleClock) ∨ (r'.state = .stopping ∧ r'.commanded = .stop
              ∧ r'.idleClock = 0 ∧ r'.verifyEnd = some (s.timeBase + r.tuning.stopVerify)))
          ∧ (s.groups = [] → r.provides = none →
            ((∃ l ∈ s.keepRunLevels n.toNat, max s.authority a.toNat ≤ l) → r'.state = .due ∧ r'.blockReason = .hold)
            ∧ ((∀ l ∈ s.keepRunLevels n.toNat, l < max s.authority a.toNat) →
              (s.timeBase < r.runSince + r.tuning.minimumRun * 60 → r'.state = .due ∧ r'.blockReason = .minRun)
              ∧ (r.runSince + r.tuning.minimumRun * 60 ≤ s.timeBase → r'.state = .stopping)))
          ∧ (r.state ≠ .due → n.toNat ∈ t.marks)
          ∧ ∀ r1 u, r1 = { r with
                state := .due
                commanded := if r.state = .due then r.commanded else .run
                portStop := some a.toNat
                verifyEnd := if r.state = .due then r.verifyEnd else none } →
              u = s.setLoad n.toNat r1 →
            s.Judged s.authority n.toNat r1 r' ∧ u.EvaluatedAmong n.toNat r1 r'
            ∧ (r.state = .due ∨ r.provides = none
                ∨ ((∀ m rm, m ≠ n.toNat → s.load m = some rm → rm.state = .due → rm.provides = none)
                  ∧ ∀ g x, s.group g = some x → s.lacks g = false ∨ ∃ p, p ≠ n.toNat ∧ x.state = .raising p) →
              u.Evaluated n.toNat r1 r'))
      ∧ (r.state = .stopped ∨ r.state = .stopping → exec .stopLoad s = .next (s.respond .done []))
      ∧ (r.state = .unknown ∨ r.state = .queued ∨ r.state = .starting ∨ r.state = .inLocal ∨ r.state = .fault
          ∨ r.state = .retiring → exec .stopLoad s = .next (s.respond .wrongState []))

/-- R71, R57: CANCEL STOP by the record's state. It completes in every state of the record, and clears the request. A DUE record whose
idle delay is reached is evaluated once, under the plant authority alone (`Judged` in the words of R56; for a provider SUPPLY and
PACING are those of the state with the request cleared, `Evaluated`); one whose delay is not reached goes to RUN or IDLE; in every
other state the request alone is cleared. -/
def Obligations.CancelStopByState : Prop :=
  ∀ (s : State) (n : Byte), Canonical s → s.Sent 0x1A [n] →
    (239 < n.toNat → exec .cancelStop s = .next (s.respond .badValue []))
    ∧ (n.toNat ≤ 239 → s.load n.toNat = none → exec .cancelStop s = .next (s.respond .noSuch []))
    ∧ ∀ r, n.toNat ≤ 239 → s.load n.toNat = some r →
      (r.portStop = none → exec .cancelStop s = .next (s.respond .done []))
      ∧ (r.portStop ≠ none → r.state ≠ .due →
        exec .cancelStop s = .next ((s.setLoad n.toNat { r with portStop := none }).respond .done []))
      ∧ (r.portStop ≠ none → r.state = .due →
        ∃ t r', exec .cancelStop s = .next t ∧ t.answer = some { code := .done, data := [] } ∧ t.executing = none
          ∧ t.load n.toNat = some r' ∧ r'.portStop = none
          ∧ (r.tuning.idleDelay * 60 ≤ r.idleClock * s.period → ∀ g, g = { r with portStop := none } →
            s.Judged s.authority n.toNat g r' ∧ (s.setLoad n.toNat g).Evaluated n.toNat g r')
          ∧ (r.idleClock * s.period < r.tuning.idleDelay * 60 → r.tuning.idleLeave ≤ r.level →
            n.toNat ∈ t.marks ∧ r' =
              { r with
                portStop := none, state := .run, commanded := .run, blockReason := .none, idleClock := 0, verifyEnd := none })
          ∧ (r.idleClock * s.period < r.tuning.idleDelay * 60 → r.level < r.tuning.idleLeave →
            n.toNat ∈ t.marks ∧ r' =
              { r with portStop := none, state := .idle, commanded := .run, blockReason := .none, verifyEnd := none }))

/-- R67, R124, R131: CLEAR FAULT takes a record in FAULT to UNKNOWN, its commanded state, its start count, AL and its holds kept, and
is answered WRONG STATE in every other state. CANCEL START returns a QUEUED record to STOPPED with START CANCELLED, its off-since
and its orders kept; a provider that its own group raises again in the same step is QUEUED or STARTING once more. Where the start was
a raise, the raise has failed (R116, R117). A record in any other state is answered NO SUCH. -/
def Obligations.ClearFaultAndCancelStart : Prop :=
  (∀ (s : State) (n : Byte), Canonical s → s.Sent 0x1B [n] →
    (239 < n.toNat → exec .clearFault s = .next (s.respond .badValue []))
    ∧ (n.toNat ≤ 239 → s.load n.toNat = none → exec .clearFault s = .next (s.respond .noSuch []))
    ∧ ∀ r, n.toNat ≤ 239 → s.load n.toNat = some r →
      (r.state ≠ .fault → exec .clearFault s = .next (s.respond .wrongState []))
      ∧ (r.state = .fault →
        ∃ t, exec .clearFault s = .next t ∧ t.answer = some { code := .done, data := [] } ∧ t.executing = none
          ∧ n.toNat ∈ t.marks ∧ t.holds = s.holds
          ∧ t.load n.toNat = some { r with
              state := .unknown, blockReason := .none, portStop := none, lastRun := none, idleClock := 0
              retireExchanges := r.retireExchanges, baseline := none, verifyEnd := none }))
  ∧ ∀ (s : State) (n : Byte), Canonical s → s.Sent 0x1C [n] →
    (239 < n.toNat → exec .cancelStart s = .next (s.respond .badValue []))
    ∧ (n.toNat ≤ 239 → s.load n.toNat = none → exec .cancelStart s = .next (s.respond .noSuch []))
    ∧ ∀ r, n.toNat ≤ 239 → s.load n.toNat = some r →
      (r.state ≠ .queued → exec .cancelStart s = .next (s.respond .noSuch []))
      ∧ (r.state = .queued →
        ∃ t r', exec .cancelStart s = .next t ∧ t.answer = some { code := .done, data := [] } ∧ t.executing = none
          ∧ n.toNat ∈ t.marks ∧ t.load n.toNat = some r' ∧ r'.offSince = r.offSince
          ∧ r'.lastOutcome = some { operation := .start, result := .cancelled, time := s.stamp }
          ∧ ((r'.state = .stopped ∧ r'.commanded = r.commanded ∧ r'.startCount = r.startCount)
            ∨ (r.provides ≠ none ∧ (r'.state = .queued ∨ r'.state = .starting)))
          ∧ ∀ p x, r.provides = some p → s.group p.group = some x → x.state = .raising n.toNat →
              s.RaiseFailed t p.group n.toNat .stopped)

/-- R56, R57, R58, R47: a DUE record whose run time reaches its minimum run is evaluated: with all five conditions met it
enters STOPPING; otherwise the first that fails is written as its block reason and nothing else changes. Any other record
is left as it is (log entry 4). -/
def Obligations.MinimumRunEvaluatesStopPermission : Prop :=
  ∀ (s : State) (n : Nat) (r : LoadRecord), Canonical s → s.load n = some r →
    (r.state ≠ .due ∨ s.timeBase < r.runSince + r.tuning.minimumRun * 60 → exec (.minimumRunReached n) s = .next s)
    ∧ ∀ E, E = max s.authority (r.portStop.getD 0) → r.state = .due →
        r.runSince + r.tuning.minimumRun * 60 ≤ s.timeBase →
      (E = 0 → exec (.minimumRunReached n) s = .next (s.setLoad n { r with blockReason := .authority }))
      ∧ (0 < E → (∃ l ∈ s.keepRunLevels n, E ≤ l) →
        exec (.minimumRunReached n) s = .next (s.setLoad n { r with blockReason := .hold }))
      ∧ (0 < E → (∀ l ∈ s.keepRunLevels n, l < E) →
        (∀ p, r.provides = some p → s.capacity p.group < s.required p.group + p.capacity →
          exec (.minimumRunReached n) s = .next (s.setLoad n { r with blockReason := .supply }))
        ∧ ((∀ p, r.provides = some p → s.required p.group + p.capacity ≤ s.capacity p.group) →
          ((∃ p m rm pm, r.provides = some p ∧ m ≠ n ∧ s.load m = some rm ∧ rm.provides = some pm ∧ pm.group = p.group
              ∧ rm.state = .stopping) →
            exec (.minimumRunReached n) s = .next (s.setLoad n { r with blockReason := .pacing }))
          ∧ ((∀ p m rm pm, r.provides = some p → m ≠ n → s.load m = some rm → rm.provides = some pm →
              pm.group = p.group → rm.state ≠ .stopping) →
            ∃ t, exec (.minimumRunReached n) s = .next t ∧ n ∈ t.marks
              ∧ t.load n = some { r with
                  state := .stopping, commanded := .stop, blockReason := .none, idleClock := 0, retireExchanges := r.retireExchanges
                  verifyEnd := some (s.timeBase + r.tuning.stopVerify) })))

/-- R61, R116, R125: the stop verify timer takes a STOPPING record to FAULT commanded RUN with STOP TIMED OUT, the start verify timer
a STARTING record to FAULT commanded STOP with START TIMED OUT, its feeder in SETTLING for the settle time in force, or FREE where
that is 0; where the start was a raise, the raise has failed. That a timer
that has not expired, or a record in another state, is left as it is is the model's choice (log entry 4). -/
def Obligations.VerifyTimersEndInFault : Prop :=
  ∀ (s : State) (n : Nat) (r : LoadRecord), Canonical s → s.load n = some r →
    ((∀ e, r.verifyEnd = some e → s.timeBase < e) →
      exec (.stopVerifyTimerExpiry n) s = .next s ∧ exec (.startVerifyTimerExpiry n) s = .next s)
    ∧ ∀ e, r.verifyEnd = some e → e ≤ s.timeBase →
      (r.state ≠ .stopping → exec (.stopVerifyTimerExpiry n) s = .next s)
      ∧ (r.state ≠ .starting → exec (.startVerifyTimerExpiry n) s = .next s)
      ∧ (r.state = .stopping → ∃ t, exec (.stopVerifyTimerExpiry n) s = .next t ∧ n ∈ t.marks ∧ t.faultFlag = true
        ∧ t.load n = some { r with
            state := .fault, commanded := .run, blockReason := .none, portStop := none, idleClock := 0
            verifyEnd := none, lastOutcome := some { operation := .stop, result := .timedOut, time := s.stamp } })
      ∧ (r.state = .starting → ∃ t, exec (.startVerifyTimerExpiry n) s = .next t ∧ n ∈ t.marks ∧ t.faultFlag = true
        ∧ s.Released t r.feeder
        ∧ (∀ p x, r.provides = some p → s.group p.group = some x → x.state = .raising n → s.RaiseFailed t p.group n .fault)
        ∧ t.load n = some { r with
            state := .fault, commanded := .stop, blockReason := .none, portStop := none, idleClock := 0
            verifyEnd := none, lastOutcome := some { operation := .start, result := .timedOut, time := s.stamp } })

/-! ### Holds -/

/-- R74, R75, R57, R60, R62, R64, R82, R83: PLACE HOLD is refused by the first check that fails, and otherwise takes the lowest free
entry and acts at once on its load, in every state of it. A DUE record is evaluated with the hold in place: a KEEP-RUN hold at or
above its effective authority E gives HOLD. That a KEEP-OFF hold evaluates it too is the model's reading of R57 (log entry 22). A
stop that the hold overtakes is no report and no start that completes, so the load stays in the failed-raise sets (R117). The feeder
of a start that a KEEP-OFF hold ends is SETTLING, or FREE where the settle time is 0 (R125); a QUEUED provider that the hold takes
out of a raise has failed it (R116). -/
def Obligations.PlaceHoldActs : Prop :=
  ∀ (s : State) (n sense level eh el : Byte), Canonical s → s.Sent 0x20 [n, sense, level, eh, el] →
    (239 < n.toNat ∨ 1 < sense.toNat ∨ (sense = 0 ∧ (level = 0 ∨ 3 < level.toNat)) →
      exec .placeHold s = .next (s.respond .badValue []))
    ∧ (n.toNat ≤ 239 → sense.toNat ≤ 1 → (sense = 0 → level ≠ 0 ∧ level.toNat ≤ 3) →
      (s.load n.toNat = none → exec .placeHold s = .next (s.respond .noSuch []))
      ∧ ∀ r, s.load n.toNat = some r →
        (r.state = .retiring → exec .placeHold s = .next (s.respond .wrongState []))
        ∧ (r.state ≠ .retiring → 3 ≤ (s.holdsOn n.toNat).length → exec .placeHold s = .next (s.respond .full []))
        ∧ (r.state ≠ .retiring → (s.holdsOn n.toNat).length < 3 → (∀ k, k < 96 → Table.find s.holds k ≠ none) →
          exec .placeHold s = .next (s.respond .full []))
        ∧ ∀ k E, r.state ≠ .retiring → (s.holdsOn n.toNat).length < 3 → k < 96 → Table.find s.holds k = none →
            (∀ j, j < k → Table.find s.holds j ≠ none) → E = max s.authority (r.portStop.getD 0) →
          ∃ t r', exec .placeHold s = .next t ∧ t.answer = some { code := .done, data := [byte k] } ∧ t.executing = none
            ∧ Table.find t.holds k = some
                { load := n.toNat
                  sense := if sense = 0 then .keepRun level.toNat else .keepOff
                  remaining :=
                    if eh.toNat * 256 + el.toNat = 0 then none else some (min 1440 (eh.toNat * 256 + el.toNat))
                  placedAt := s.stamp }
            ∧ (∀ j, j ≠ k → Table.find t.holds j = Table.find s.holds j) ∧ n.toNat ∈ t.marks
            ∧ t.load n.toNat = some r'
            -- STOPPING
            ∧ (sense = 0 → r.state = .stopping →
                (E ≤ level.toNat →
                  r'.state = .run ∧ r'.commanded = .run ∧ r'.runSince = r.runSince ∧ r'.verifyEnd = none
                  ∧ r'.lastOutcome = some { operation := .stop, result := .overtaken, time := s.stamp }
                  ∧ ∀ g x, s.group g = some x → n.toNat ∈ x.failed →
                      ∃ y, t.group g = some y ∧ (n.toNat ∈ y.failed ∨ y.failed = []))
                ∧ (level.toNat < E → r' = r))
            -- QUEUED
            ∧ (sense ≠ 0 → r.state = .queued → r'.state = .stopped ∧ r'.offSince = r.offSince
                ∧ r'.lastOutcome = some { operation := .start, result := .cancelled, time := s.stamp }
                ∧ ∀ p x, r.provides = some p → s.group p.group = some x → x.state = .raising n.toNat →
                    s.RaiseFailed t p.group n.toNat .stopped)
            -- STARTING
            ∧ (sense ≠ 0 → r.state = .starting → s.Released t r.feeder ∧ r'.commanded = .stop
                ∧ r'.lastOutcome = some { operation := .start, result := .cancelled, time := s.stamp }
                ∧ ((∃ p m rm pm, r.provides = some p ∧ m ≠ n.toNat ∧ s.load m = some rm ∧ rm.provides = some pm
                      ∧ pm.group = p.group ∧ rm.state = .stopping) → r'.state = .fault)
                ∧ ((∀ p m rm pm, r.provides = some p → m ≠ n.toNat → s.load m = some rm → rm.provides = some pm →
                      pm.group = p.group → rm.state ≠ .stopping) →
                    r'.state = .stopping ∧ r'.verifyEnd = some (s.timeBase + r.tuning.stopVerify)))
            -- DUE
            ∧ (r.state = .due → HandedOn s.timeBase r r'
                ∧ (E = 0 → r' = { r with blockReason := .authority })
                ∧ (0 < E → sense = 0 → E ≤ level.toNat → r' = { r with blockReason := .hold })
                ∧ (({ s with holds := t.holds } : State).permission n.toNat r = .none →
                    r'.state = .stopping ∧ r'.commanded = .stop
                    ∧ r'.verifyEnd = some (s.timeBase + r.tuning.stopVerify))
                ∧ (({ s with holds := t.holds } : State).permission n.toNat r ≠ .none →
                    r' = { r with blockReason := ({ s with holds := t.holds } : State).permission n.toNat r }))
            -- the rest
            ∧ (r.state = .run ∨ r.state = .idle ∨ r.state = .unknown ∨ r.state = .inLocal ∨ r.state = .fault
                ∨ r.state = .stopped ∨ (sense = 0 ∧ (r.state = .queued ∨ r.state = .starting))
                ∨ (sense ≠ 0 ∧ r.state = .stopping) → r' = r))

/-- R76, R78, R80, R82, R84: at each whole minute of the time base every port hold with remaining minutes and every button hold has one
minute less. A hold that is released, or whose remaining minutes have reached 0, leaves: a port hold frees its entry and no other,
a button hold leaves its record; the slot's mark is set, and the load takes the leaving by its state: a DUE record is evaluated
without the hold, and with the last KEEP-OFF hold gone the load leaves the failed-raise sets (R117); where that hold leaves a DUE
provider its group tests in the same step, so there SUPPLY and PACING are left open unless the part has no groups. The model's own: a
hold counted to 0 stands until its expiry, and the next whole minute comes 60 seconds after the last (log entry 9); a hold whose minutes have
not reached 0, and a minute that has not come, change nothing (log entry 4); a KEEP-OFF hold that leaves evaluates a DUE record
(log entry 22). -/
def Obligations.HoldsCountDownAndLeave : Prop :=
  (∀ s : State,
    (s.timeBase < s.nextHoldMinute → exec .holdMinute s = .next s)
    ∧ (s.nextHoldMinute ≤ s.timeBase → ∃ t, exec .holdMinute s = .next t
        ∧ (∀ h, Table.find t.holds h = (Table.find s.holds h).map (fun x =>
            { x with remaining := x.remaining.map (fun k => k - 1) }))
        ∧ (∀ n, t.load n = (s.load n).map (fun r => { r with buttonHold := r.buttonHold.map (fun k => k - 1) }))
        ∧ t.nextHoldMinute = s.nextHoldMinute + 60
        ∧ t = { s with nextHoldMinute := t.nextHoldMinute, holds := t.holds, loads := t.loads }))
  ∧ (∀ (s : State) (h : Byte), Canonical s → s.Sent 0x21 [h] →
    (95 < h.toNat → exec .releaseHold s = .next (s.respond .badValue []))
    ∧ (h.toNat ≤ 95 → Table.find s.holds h.toNat = none → exec .releaseHold s = .next (s.respond .noSuch []))
    ∧ ∀ x, h.toNat ≤ 95 → Table.find s.holds h.toNat = some x →
      ∃ t, exec .releaseHold s = .next t ∧ t.answer = some { code := .done, data := [] } ∧ t.executing = none)
  ∧ (∀ (s : State) (h : Nat) (x : PortHold), Table.find s.holds h = some x → x.remaining ≠ some 0 →
      exec (.portHoldExpiry h) s = .next s)
  ∧ (∀ (s : State) (h : Nat) (x : PortHold) (i : Instr), Canonical s → Table.find s.holds h = some x →
    ((i = .portHoldExpiry h ∧ x.remaining = some 0) ∨ (i = .releaseHold ∧ ∃ b : Byte, b.toNat = h ∧ s.Sent 0x21 [b])) →
    ∃ t, exec i s = .next t ∧ x.load ∈ t.marks ∧ (i = .portHoldExpiry h → t.answer = s.answer)
      ∧ (∀ j, Table.find t.holds j = if j = h then none else Table.find s.holds j)
      ∧ (∀ r, s.load x.load = some r → ∃ r', t.load x.load = some r' ∧ HandedOn s.timeBase r r'
          ∧ (r.state ≠ .due → x.sense ≠ .keepOff → r' = r)
          ∧ (r.state = .due → x.sense = .keepOff → s.Judged s.authority x.load r r')
          ∧ (r.state = .due → x.sense ≠ .keepOff ∨ r.provides = none ∨ s.groups = [] →
            (({ s with holds := t.holds } : State).permission x.load r = .none →
                r'.state = .stopping ∧ r'.commanded = .stop ∧ r'.verifyEnd = some (s.timeBase + r.tuning.stopVerify))
            ∧ (({ s with holds := t.holds } : State).permission x.load r ≠ .none →
                r' = { r with blockReason := ({ s with holds := t.holds } : State).permission x.load r })))
      ∧ (x.sense = .keepOff → ({ s with holds := t.holds } : State).keepOff x.load = false → RaiseLaw s →
          ∀ g y, t.group g = some y → x.load ∉ y.failed))
  ∧ (∀ (s : State) (n : Byte), Canonical s → s.Sent 0x22 [n] →
    (239 < n.toNat → exec .releaseButtonHold s = .next (s.respond .badValue []))
    ∧ (n.toNat ≤ 239 → s.load n.toNat = none → exec .releaseButtonHold s = .next (s.respond .noSuch []))
    ∧ ∀ r, n.toNat ≤ 239 → s.load n.toNat = some r →
      (r.buttonHold = none → exec .releaseButtonHold s = .next (s.respond .noSuch []))
      ∧ (r.buttonHold ≠ none → ∃ t r', exec .releaseButtonHold s = .next t ∧ t.load n.toNat = some r'
          ∧ t.answer = some { code := .done, data := [] } ∧ t.executing = none ∧ n.toNat ∈ t.marks
          ∧ ∀ g u, g = { r with buttonHold := none } → u = s.setLoad n.toNat g →
            (r.state ≠ .due → r' = g)
            ∧ (r.state = .due →
              (u.permission n.toNat g = .none →
                r'.state = .stopping ∧ r'.commanded = .stop ∧ r'.verifyEnd = some (s.timeBase + r.tuning.stopVerify)
                ∧ r'.buttonHold = none)
              ∧ (u.permission n.toNat g ≠ .none → r' = { g with blockReason := u.permission n.toNat g }))))
  ∧ (∀ (s : State) (n : Nat) (r : LoadRecord), Canonical s → s.load n = some r →
    (r.buttonHold ≠ some 0 → exec (.buttonHoldExpiry n) s = .next s)
    ∧ (r.buttonHold = some 0 → ∃ t r', exec (.buttonHoldExpiry n) s = .next t ∧ t.load n = some r' ∧ n ∈ t.marks
        ∧ ∀ g u, g = { r with buttonHold := none } → u = s.setLoad n g →
          (r.state ≠ .due → r' = g)
          ∧ (r.state = .due →
            (u.permission n g = .none →
              r'.state = .stopping ∧ r'.commanded = .stop ∧ r'.verifyEnd = some (s.timeBase + r.tuning.stopVerify)
              ∧ r'.buttonHold = none)
            ∧ (u.permission n g ≠ .none → r' = { g with blockReason := u.permission n g }))))

/-! ### The commands that read -/

/-- R85, R92, R119, R132, R142, R155, R166, R174: the commands that read answer DONE with their data, each field at its offset, and change
nothing but what READ LINE clears; a number out of range is answered BAD VALUE, and a VACANT slot or an undefined group NO SUCH.
READ CLOCK gives one second: a second that stands at 60 is carried in the answer, with the day types of the day it carries into,
which is the model's reading (log entry 7). A field without a value of its own (a level, an absent time) reads as R174 codes it; that a hold counted down to 0, its expiry row
not yet taken, reads as absent in its minutes is the model's choice (log entry 9). -/
def Obligations.ReadCommandsAnswer : Prop :=
  ∀ s : State, Canonical s →
    -- READ QUEUE
    (s.Sent 0x1D [] → ∃ d, exec .readQueue s = .next (s.respond .done d) ∧ d.length = 28 + 11 * s.queue.length
      ∧ d.take 4 = [byte s.queue.length,
          byte ((s.loads.filter (fun e => e.2.state == .starting)).map (fun e => e.2.weight)).sum, byte s.inrushLimit,
          byte s.settleTime]
      ∧ (∀ f : Fin 8, (d.drop (4 + 3 * f.val)).take 3 =
          match s.feeders[f] with
          | .free => [0, 255, 0]
          | .starting n => [1, byte n, 0]
          | .settling ends => [2, 255, byte (ends - s.timeBase)])
      ∧ ∀ (i : Nat) (e : Entry), s.queue[i]? = some e → (d.drop (28 + 11 * i)).take 11 =
          [byte e.load,
            match e.cls with
            | .supply => 0
            | .call => 1
            | .wake => 2,
            match e.reason with
            | .none => 0
            | .rest => 1
            | .feeder => 2
            | .budget => 3
            | .supply => 4,
            byte (e.sequence.toNat / 16777216), byte (e.sequence.toNat / 65536), byte (e.sequence.toNat / 256),
            byte e.sequence.toNat, byte (e.queuedAt / 16777216), byte (e.queuedAt / 65536), byte (e.queuedAt / 256),
            byte e.queuedAt])
    -- READ CLOCK
    ∧ (s.Sent 0x31 [] → ∃ d, exec .readClock s = .next (s.respond .done d) ∧ d.length = 19
      ∧ (s.clock = none → d.take 8 = [0, 0, 0, 0, 0, 255, 255, 255])
      ∧ (∀ c, s.clock = some c → c.second < 60 → d.take 8 =
          [1, byte c.day.val, byte (c.minute / 256), byte c.minute, byte c.second,
            byte (s.todayOverride.getD s.dayMap[c.day]).code,
            match s.todayOverride with
            | some o => byte o.code
            | none => 255,
            byte s.yesterday.code])
      ∧ (∀ c, s.clock = some c → 60 ≤ c.second → c.second < 120 → c.minute < 1439 → d.take 8 =
          [1, byte c.day.val, byte ((c.minute + 1) / 256), byte (c.minute + 1), byte (c.second - 60),
            byte (s.todayOverride.getD s.dayMap[c.day]).code,
            match s.todayOverride with
            | some o => byte o.code
            | none => 255,
            byte s.yesterday.code])
      ∧ (∀ c, s.clock = some c → 60 ≤ c.second → c.second < 120 → 1439 ≤ c.minute → d.take 8 =
          [1, byte (c.day + 1 : Fin 7).val, 0, 0, byte (c.second - 60), byte (s.dayMap[(c.day + 1 : Fin 7)]).code, 255,
            byte (s.todayOverride.getD s.dayMap[c.day]).code])
      ∧ (∀ k : Fin 7, d[8 + k.val]? = some (byte s.dayMap[k].code))
      ∧ d.drop 15 = [byte (s.timeBase / 16777216), byte (s.timeBase / 65536), byte (s.timeBase / 256), byte s.timeBase])
    -- READ AUTHORITY
    ∧ (s.Sent 0x35 [] → ∀ (today tails : List (DayType × Nat)) (guard : Nat),
        ((s.clock = none ∧ today = [] ∧ tails = [])
          ∨ ∃ c, s.clock = some c
            ∧ today = (((List.range 6).map (fun w => (s.todayOverride.getD s.dayMap[c.day], w))).filter (fun e =>
                (s.window e.1 e.2).authority ≠ 0 ∧ (s.window e.1 e.2).start ≤ c.minute
                  ∧ (c.minute < (s.window e.1 e.2).stop ∨ (s.window e.1 e.2).stop ≤ (s.window e.1 e.2).start)))
            ∧ tails = (((List.range 6).map (fun w => (s.yesterday, w))).filter (fun e =>
                (s.window e.1 e.2).authority ≠ 0 ∧ (s.window e.1 e.2).stop ≤ (s.window e.1 e.2).start
                  ∧ c.minute < (s.window e.1 e.2).stop))) →
        (∀ p x e, s.plan p = some x → x.guardEnd = some e → e - s.timeBase ≤ guard) →
        (guard = 0 ∨ ∃ p x e, s.plan p = some x ∧ x.guardEnd = some e ∧ e - s.timeBase = guard) →
      ∃ (d : List Byte) (greatest : Nat), exec .readAuthority s = .next (s.respond .done d)
        ∧ (∀ e ∈ today ++ tails, (s.window e.1 e.2).authority ≤ greatest)
        ∧ (greatest = 0 ∨ ∃ e ∈ today ++ tails, (s.window e.1 e.2).authority = greatest)
        ∧ (s.clock = none → d[1]? = some 0)
        ∧ (s.clock ≠ none → (∃ p x, s.plan p = some x ∧ x.guardEnd ≠ none) → d[1]? = some 1)
        ∧ (s.clock ≠ none → (∀ p x, s.plan p = some x → x.guardEnd = none) → d[1]? = some 2)
        ∧ d[0]? = some (byte s.authority)
        ∧ d.drop 2 = [byte greatest, byte (guard / 256), byte guard,
            byte (s.loads.filter (fun e => e.2.state == .due)).length,
            byte (s.loads.filter (fun e => e.2.state == .due && e.2.blockReason == .authority)).length,
            byte (today ++ tails).length]
          ++ today.flatMap (fun e => [byte e.1.code, byte e.2]) ++ tails.flatMap (fun e => [byte (e.1.code + 128), byte e.2]))
    -- READ HOLDS
    ∧ (∀ n : Byte, s.Sent 0x23 [n] →
      (239 < n.toNat → exec .readHolds s = .next (s.respond .badValue []))
      ∧ (n.toNat ≤ 239 → s.load n.toNat = none → exec .readHolds s = .next (s.respond .noSuch []))
      ∧ ∀ r, n.toNat ≤ 239 → s.load n.toNat = some r → ∀ on, on = s.holds.filter (fun e => e.2.load == n.toNat) →
        ∃ d, exec .readHolds s = .next (s.respond .done d) ∧ d.length = 3 + 8 * on.length
          ∧ d[0]? = some (byte on.length)
          ∧ (∀ i k h, on[i]? = some (k, h) →
            d[1 + 8 * i]? = some (byte k)
            ∧ (∀ l, h.sense = .keepRun l → (d.drop (2 + 8 * i)).take 2 = [0, byte l])
            ∧ (h.sense = .keepOff → (d.drop (2 + 8 * i)).take 2 = [1, 0])
            ∧ (d.drop (4 + 8 * i)).take 2 = [byte (h.remaining.getD 0 / 256), byte (h.remaining.getD 0)]
            ∧ (h.placedAt = none → (d.drop (6 + 8 * i)).take 3 = [255, 0, 0])
            ∧ ∀ x, h.placedAt = some x →
                (d.drop (6 + 8 * i)).take 3 = [byte x.day.val, byte (x.minute / 256), byte x.minute])
          ∧ d.drop (1 + 8 * on.length) = [byte (r.buttonHold.getD 0), if r.isolatorHold = true then 1 else 0])
    -- READ GROUP
    ∧ (∀ g : Byte, s.Sent 0x2A [g] →
      (15 < g.toNat → exec .readGroup s = .next (s.respond .badValue []))
      ∧ (g.toNat ≤ 15 → s.group g.toNat = none → exec .readGroup s = .next (s.respond .noSuch []))
      ∧ ∀ x, g.toNat ≤ 15 → s.group g.toNat = some x →
        ∃ (d : List Byte) (providers : List (Nat × Provides)), exec .readGroup s = .next (s.respond .done d)
          ∧ (∀ n p, (n, p) ∈ providers ↔ ∃ r, s.load n = some r ∧ r.provides = some p ∧ p.group = g.toNat)
          ∧ (providers.map Prod.fst).Nodup ∧ providers.Pairwise (fun a b => a.2.rank ≤ b.2.rank)
          ∧ d.length = 14 + 6 * providers.length
          ∧ d[0]? = some (byte x.margin)
          ∧ (x.state = .normal → (d.drop 1).take 2 = [0, 255])
          ∧ (∀ p, x.state = .raising p → (d.drop 1).take 2 = [1, byte p])
          ∧ (x.state = .short → (d.drop 1).take 2 = [2, 255])
          ∧ (d.drop 3).take 8 = [byte (s.demand g.toNat / 256), byte (s.demand g.toNat), byte (s.capacity g.toNat / 256),
              byte (s.capacity g.toNat), byte (s.required g.toNat / 16777216), byte (s.required g.toNat / 65536),
              byte (s.required g.toNat / 256), byte (s.required g.toNat)]
          ∧ (d.drop 11).take 3 = [
              byte (s.loads.filter (fun e =>
                e.2.drawsA.any (·.group == g.toNat) || e.2.drawsB.any (·.group == g.toNat))).length,
              byte (s.loads.filter (fun e => e.2.state == .queued
                && (e.2.drawsA.any (·.group == g.toNat) || e.2.drawsB.any (·.group == g.toNat)))).length,
              byte providers.length]
          ∧ ∀ i n p r, providers[i]? = some (n, p) → s.load n = some r →
              (d.drop (14 + 6 * i)).take 6 = [byte n, byte p.rank, byte p.capacity, r.state.code,
                if r.supplies = true then 1 else 0, if n ∈ x.failed then 1 else 0])
    -- READ WAKE PLAN
    ∧ (∀ p : Byte, s.Sent 0x39 [p] →
      (3 < p.toNat → exec .readWakePlan s = .next (s.respond .badValue []))
      ∧ (p.toNat ≤ 3 → ∀ members : Nat,
          members = (s.loads.filter (fun e => e.2.membership.any (·.plan == p.toNat))).length →
        (s.plan p.toNat = none → exec .readWakePlan s = .next (s.respond .done
            [0, 0, 0, 0, 0, 0, 0, 0, 255, 0, 0, 0, 0, 0, 0, 0, byte members, 0, 0, 0]))
        ∧ ∀ (x : WakePlan) (left next : Nat), s.plan p.toNat = some x →
          (x.guardEnd = none ∧ left = 0 ∨ ∃ e, x.guardEnd = some e ∧ left = e - s.timeBase) →
          (x.state ≠ .active ∧ next = 0
            ∨ x.state = .active ∧ next = x.activationSecond.getD 0 + x.cursor * x.spacing - s.timeBase) →
          exec .readWakePlan s = .next (s.respond .done
            [match x.state with
              | .waiting => 1
              | .active => 2
              | .done => 3,
              x.mask.setWidth 8, byte (x.start / 256), byte x.start, byte (x.spacing / 256), byte x.spacing, byte x.bits,
              byte x.guard,
              match x.activationDay with
              | some day => byte day.val
              | none => 255,
              byte (x.activationSecond.getD 0 / 16777216), byte (x.activationSecond.getD 0 / 65536),
              byte (x.activationSecond.getD 0 / 256), byte (x.activationSecond.getD 0), byte x.cursor, byte (left / 256),
              byte left, byte members, byte (next / 65536), byte (next / 256), byte next])))
    -- READ LINE
    ∧ ∀ l : Byte, s.Sent 0x41 [l] →
      (3 < l.toNat → exec .readLine s = .next (s.respond .badValue []))
      ∧ ∀ (k : Fin 4) (x : Line), k.val = l.toNat → x = s.lineAt k → DropLaw s →
        exec .readLine s = .next ((s.setLine k { x with
            silent := 0, framing := 0, check := 0, stray := 0, overflow := false }).respond .done
          ([if x.enabled = true then 1 else 0, byte (x.divisor / 256), byte x.divisor, byte x.replyWindow, byte x.lossCount,
              byte (s.loads.filter (fun e => e.2.line == k)).length, byte x.cursor, byte x.pass, byte x.urgent.length,
              byte x.silent, byte x.framing, byte x.check, byte x.stray, if x.overflow = true then 1 else 0,
              byte x.lost.length]
            ++ x.lost.map byte))

/-! ### Supply groups -/

/-- R103, R104, R102, R57, R110, R128: DEFINE GROUP defines a group NORMAL with its margin clamped to 50, or writes a defined group's
margin and no other group's. In a part with one group, a changed margin has every DUE provider of it evaluated under the new margin
(exactly once where there is one), and a margin lowered so that the headroom grows has the queue examined: with no DUE provider and
no provider to raise, the step is one test and one examination, where only the model's choice counter is left open (log entry 2).
REMOVE GROUP makes undefined a group that no link of a live record names. -/
def Obligations.DefineAndRemoveGroup : Prop :=
  (∀ (s : State) (g margin : Byte), Canonical s → s.Sent 0x28 [g, margin] →
    (15 < g.toNat → exec .defineGroup s = .next (s.respond .badValue []))
    ∧ (g.toNat ≤ 15 → s.group g.toNat = none → (∀ n r, s.load n = some r → r.namesGroup g.toNat = false) →
        exec .defineGroup s = .next (({ s with
            groups := Table.put s.groups g.toNat { margin := min 50 margin.toNat, state := .normal, failed := [] } } :
              State).respond .done []))
    ∧ (g.toNat ≤ 15 → ∃ t, exec .defineGroup s = .next t ∧ t.answer = some { code := .done, data := [] } ∧ t.executing = none
        ∧ ∀ k, (t.group k).map (·.margin) =
            if k = g.toNat then some (min 50 margin.toNat) else (s.group k).map (·.margin))
    ∧ ∀ (x y : Group) (u : State), g.toNat ≤ 15 → s.groups = [(g.toNat, x)] → y = { x with margin := min 50 margin.toNat } → y.margin ≠ x.margin →
        u = { s with groups := [(g.toNat, y)] } →
      ∃ t, exec .defineGroup s = .next t
        ∧ (∀ n r p, s.load n = some r → r.state = .due → r.provides = some p → p.group = g.toNat →
          ∃ r', t.load n = some r' ∧ u.EvaluatedAmong n r r'
            ∧ ((∀ m rm pm, m ≠ n → s.load m = some rm → rm.provides = some pm → pm.group = g.toNat → rm.state ≠ .due) →
              u.Evaluated n r r'))
        ∧ ∀ v : State, v = { u with
              groups := [(g.toNat, match x.state with
                | .raising _ => y
                | .normal | .short =>
                  if u.lacks g.toNat = true then { y with state := .short } else { y with state := .normal, failed := [] })] } →
          y.margin < x.margin → u.required g.toNat < s.required g.toNat →
          (u.lacks g.toNat = false ∨ (∃ p, x.state = .raising p) ∨ u.chooseProvider g.toNat y = none) →
          (∀ n r p, s.load n = some r → r.provides = some p → p.group = g.toNat → r.state ≠ .due) →
          { t with choices := s.choices } = v.examine.respond .done [])
  ∧ ∀ (s : State) (g : Byte), Canonical s → s.Sent 0x29 [g] →
    (15 < g.toNat → exec .removeGroup s = .next (s.respond .badValue []))
    ∧ (g.toNat ≤ 15 → s.group g.toNat = none → exec .removeGroup s = .next (s.respond .noSuch []))
    ∧ (g.toNat ≤ 15 → s.group g.toNat ≠ none →
      ((∃ n r, s.load n = some r ∧ ((∃ p, r.provides = some p ∧ p.group = g.toNat)
          ∨ (∃ d, (r.drawsA = some d ∨ r.drawsB = some d) ∧ d.group = g.toNat))) →
        exec .removeGroup s = .next (s.respond .wrongState []))
      ∧ ((∀ n r, s.load n = some r → (∀ p, r.provides = some p → p.group ≠ g.toNat)
          ∧ ∀ d, r.drawsA = some d ∨ r.drawsB = some d → d.group ≠ g.toNat) →
        exec .removeGroup s = .next (({ s with
          groups := s.groups.filter (fun e => e.1 != g.toNat) } : State).respond .done [])))

/-- R107, R108, R109: which record states count as drawing and which as supplying; the demand is the sum over the drawing consumers and
the capacity the sum over the supplying providers; the required capacity is the smallest whole number that is at least demand
times (100 plus margin) divided by 100; a demand of 0 gives 0; the headroom is the capacity less it, negative in deficit; and,
where links hold one-byte values, at most six loads provide the group and the margin is at most 50, every quantity is within the
range of the rule's table. -/
def Obligations.RequiredCapacityRoundsUp : Prop :=
  (∀ r : LoadRecord,
    (r.state = .run ∨ r.state = .idle ∨ r.state = .due ∨ r.state = .stopping → r.draws = true)
    ∧ (r.state = .queued ∨ r.state = .starting → r.draws = true)
    ∧ (r.state = .unknown → r.draws = true)
    ∧ (r.state = .inLocal ∨ r.state = .fault →
        (r.draws = true ↔ r.lastRun = some .running ∨ r.lastRun = some .accelerating ∨ r.lastRun = some .coasting
          ∨ r.lastRun = none))
    ∧ (r.state = .stopped → r.draws = false)
    ∧ (r.state = .run ∨ r.state = .idle ∨ r.state = .due → r.supplies = true)
    ∧ (r.state = .inLocal ∨ r.state = .fault → (r.supplies = true ↔ r.lastRun = some .running))
    ∧ (r.state = .stopping ∨ r.state = .stopped ∨ r.state = .queued ∨ r.state = .starting ∨ r.state = .unknown →
        r.supplies = false))
  ∧ ∀ (s : State) (g : Nat) (x : Group), Canonical s → s.group g = some x →
    ((∀ n r a b, s.load n = some r → r.drawsA = some a → r.drawsB = some b → a.group ≠ b.group) →
      s.demand g = (s.loads.map (fun e => if e.2.draws = true then
          (match e.2.drawsA with
            | some d => if d.group = g then d.demand else 0
            | none => 0)
          + (match e.2.drawsB with
            | some d => if d.group = g then d.demand else 0
            | none => 0)
        else 0)).sum)
    ∧ s.capacity g = (s.loads.map (fun e => if e.2.supplies = true then
          (match e.2.provides with
            | some p => if p.group = g then p.capacity else 0
            | none => 0)
        else 0)).sum
    ∧ s.demand g * (100 + x.margin) ≤ 100 * s.required g
    ∧ (∀ q, s.demand g * (100 + x.margin) ≤ 100 * q → s.required g ≤ q)
    ∧ s.required g = (s.demand g * (100 + x.margin) + 99) / 100
    ∧ (s.demand g = 0 → s.required g = 0)
    ∧ s.headroom g = (s.capacity g : Int) - (s.required g : Int)
    ∧ (s.headroom g < 0 ↔ s.capacity g < s.required g)
    ∧ ((∀ n r, s.load n = some r → (∀ d, r.drawsA = some d ∨ r.drawsB = some d → d.demand ≤ 255)
          ∧ ∀ p, r.provides = some p → p.capacity ≤ 255) →
        (s.providersByLoad g).length ≤ 6 → x.margin ≤ 50 →
      s.demand g ≤ 61200 ∧ s.demand g * (100 + x.margin) ≤ 9180000 ∧ s.required g ≤ 91800 ∧ s.capacity g ≤ 1530
        ∧ -91800 ≤ s.headroom g ∧ s.headroom g ≤ 1530)
    ∧ (s.demand g = 36 → x.margin = 15 → s.required g = 42) ∧ (s.demand g = 21 → x.margin = 15 → s.required g = 25)

/-- R105, R110, R114 to R117: a group lacks supply where a consumer of it is QUEUED and its capacity is below its required capacity. A group
that tests chooses among its STOPPED providers without a KEEP-OFF hold and outside its failed-raise
set one of lowest rank, and becomes RAISING with it where the queue has room; without one, or at a full queue, it becomes
SHORT; without a lack of supply it becomes NORMAL and forgets its failed raises; and a group that is RAISING waits. A DEFINE GROUP
that raises the margin of the one group of a part makes it test so: `q` is its new required capacity. -/
def Obligations.GroupTestChoosesLowestRank : Prop :=
  ∀ (s : State) (g : Nat) (x : Group), Canonical s → s.group g = some x →
    ∀ (QueuedConsumer : Prop) (Eligible : Nat → Provides → Prop),
      (QueuedConsumer ↔ ∃ n r d, s.load n = some r ∧ r.state = .queued ∧ (r.drawsA = some d ∨ r.drawsB = some d)
        ∧ d.group = g) →
      (∀ n p, Eligible n p ↔ ∃ r, s.load n = some r ∧ r.provides = some p ∧ p.group = g ∧ r.state = .stopped
        ∧ s.keepOff n = false ∧ n ∉ x.failed) →
      (s.lacks g = true ↔ QueuedConsumer ∧ s.capacity g < s.required g)
      ∧ (∀ p, x.state = .raising p → s.testGroup g = s)
      ∧ ((∀ p, x.state ≠ .raising p) →
        (s.lacks g = false →
          s.testGroup g = { s with groups := Table.put s.groups g { x with state := .normal, failed := [] } })
        ∧ (s.lacks g = true → (∀ n p, ¬ Eligible n p) ∨ 32 ≤ s.queue.length →
          s.testGroup g = { s with groups := Table.put s.groups g { x with state := .short } })
        ∧ (s.lacks g = true → (∃ n p, Eligible n p) → s.queue.length < 32 →
          ∃ n p, Eligible n p ∧ (∀ m q, Eligible m q → p.rank ≤ q.rank)
            ∧ (s.testGroup g).group g = some { x with state := .raising n }
            ∧ (s.testGroup g).stateOf n = some .queued
            ∧ ∃ e ∈ (s.testGroup g).queue, e.load = n ∧ e.cls = .supply ∧ e.sequence = s.arrivals
                ∧ e.queuedAt = s.timeBase))
      -- the row DEFINE GROUP
      ∧ ∀ (b margin : Byte) (y : Group) (q : Nat), s.Sent 0x28 [b, margin] → b.toNat = g → g ≤ 15 → s.groups = [(g, x)] →
          y = { x with margin := min 50 margin.toNat } → x.margin < y.margin → (∀ p, x.state ≠ .raising p) →
          q = (s.demand g * (100 + y.margin) + 99) / 100 →
        ∃ t, exec .defineGroup s = .next t
          ∧ (¬ QueuedConsumer ∨ q ≤ s.capacity g → t.group g = some { y with state := .normal, failed := [] })
          ∧ (QueuedConsumer → s.capacity g < q → (∀ n p, ¬ Eligible n p) ∨ 32 ≤ s.queue.length →
            t.group g = some { y with state := .short })
          ∧ (QueuedConsumer → s.capacity g < q → (∃ n p, Eligible n p) → s.queue.length < 32 →
            ∃ n p, Eligible n p ∧ (∀ m q, Eligible m q → p.rank ≤ q.rank) ∧ t.group g = some { y with state := .raising n }
              ∧ (t.stateOf n = some .queued ∨ t.stateOf n = some .starting))

/-! ### The arbiter -/

/-- R125, R127, R128, R129, R113: a REST end that is due examines the queue. Where there is no group to tell, or where the examination
grants nothing, the step is exactly one examination; the entry of a queue of one is judged by the four tests in their order,
whatever the groups; each record is as a hand-off leaves it. (A link names a defined group, R4, R104; where it named none, its
margin would be the model's 0, log entry 16.) A SETTLING feeder that has reached its settle end becomes FREE, and the arbiter then
examines the queue, with the same two cases, and may give it to a start at once. An event that is not due does nothing (log
entry 4). -/
def Obligations.RestEndAndSettleEndExamine : Prop :=
  (∀ (s : State) (n : Nat) (r : LoadRecord), Canonical s → s.load n = some r →
    (r.state ≠ .queued ∨ (∀ e ∈ s.queue, e.load = n → e.reason ≠ .rest)
        ∨ s.timeBase < r.offSince + r.tuning.minimumOff * 60 →
      exec (.restEnd n) s = .next s)
    ∧ ∀ e ∈ s.queue, e.load = n → e.reason = .rest → r.state = .queued →
        r.offSince + r.tuning.minimumOff * 60 ≤ s.timeBase →
      (∃ t r', exec (.restEnd n) s = .next t ∧ t.load n = some r' ∧ HandedOn s.timeBase r r')
      ∧ (s.groups = [] ∨ s.examine.queue.length = s.queue.length → exec (.restEnd n) s = .next s.examine)
      ∧ (s.queue = [e] →
        (s.feeders[r.feeder] ≠ .free →
          exec (.restEnd n) s = .next { s with queue := [{ e with reason := .feeder }] })
        ∧ (s.feeders[r.feeder] = .free → 0 < s.startingCount → s.inrushLimit < s.startingSum + r.weight →
          exec (.restEnd n) s = .next { s with queue := [{ e with reason := .budget }] })
        ∧ (s.feeders[r.feeder] = .free → (s.startingCount = 0 ∨ s.startingSum + r.weight ≤ s.inrushLimit) →
          ((∃ d, (r.drawsA = some d ∨ r.drawsB = some d) ∧ s.capacity d.group < s.required d.group) →
            exec (.restEnd n) s = .next { s with queue := [{ e with reason := .supply }] })
          ∧ ((∀ d, r.drawsA = some d ∨ r.drawsB = some d → s.required d.group ≤ s.capacity d.group) →
            ∃ t, exec (.restEnd n) s = .next t ∧ t.hasEntry n = false ∧ (s.groups = [] → t.queue = [])
              ∧ t.feeders[r.feeder] = .starting n ∧ n ∈ t.marks
              ∧ t.load n = some { r with
                  state := .starting, commanded := .run, startCount := r.startCount + 1, blockReason := .none, portStop := none
                  idleClock := 0, verifyEnd := some (s.timeBase + r.tuning.startVerify) }))))
  ∧ ∀ (s : State) (f : Fin 8), Canonical s →
    ((∀ e, s.feeders[f] = .settling e → s.timeBase < e) → exec (.settleEnd f) s = .next s)
    ∧ ∀ e, s.feeders[f] = .settling e → e ≤ s.timeBase →
      (s.queue = [] → exec (.settleEnd f) s = .next { s with feeders := s.feeders.set f .free })
      ∧ (∀ u, u = { s with feeders := s.feeders.set f .free } →
        s.groups = [] ∨ u.examine.queue.length = s.queue.length → exec (.settleEnd f) s = .next u.examine)
      ∧ ∃ t, exec (.settleEnd f) s = .next t
        ∧ (t.feeders[f] = .free ∨ ∃ n, t.feeders[f] = .starting n ∧ t.stateOf n = some .starting)

/-- R127, R113, R129, R63: an examination is a walk over the entries that stood in the queue, in list order: `at' i` is the state the
walk's entry number i finds. Each entry is judged there by the four tests in their order: the first that fails is written as its
wait reason and nothing else changes; an entry that passes all four is granted, and the later entries see its feeder and the sum
it has raised. No grant changes the figures of any group, so every SUPPLY test of the walk sees those of its beginning. -/
def Obligations.ExaminationWalksQueue : Prop :=
  ∀ s : State, Canonical s → (s.queue.map (·.load)).Nodup →
    ∃ at' : Nat → State, at' 0 = s ∧ at' s.queue.length = s.examine
      ∧ (∀ i, i ≤ s.queue.length → ∀ g, (at' i).capacity g = s.capacity g ∧ (at' i).required g = s.required g)
      ∧ ∀ (i : Nat) (e : Entry), s.queue[i]? = some e →
        (s.stateOf e.load ≠ some .queued → at' (i + 1) = at' i)
        ∧ ∀ (r : LoadRecord) (reasoned : WaitReason → State), s.load e.load = some r → r.state = .queued →
          (∀ w, reasoned w = { at' i with
            queue := (at' i).queue.map (fun x => if x.load = e.load then { x with reason := w } else x) }) →
          (at' i).load e.load = some r
          ∧ (s.timeBase < r.offSince + r.tuning.minimumOff * 60 → at' (i + 1) = reasoned .rest)
          ∧ (r.offSince + r.tuning.minimumOff * 60 ≤ s.timeBase →
            ((at' i).feeders[r.feeder] ≠ .free → at' (i + 1) = reasoned .feeder)
            ∧ ((at' i).feeders[r.feeder] = .free →
              (0 < (at' i).startingCount → s.inrushLimit < (at' i).startingSum + r.weight → at' (i + 1) = reasoned .budget)
              ∧ ((at' i).startingCount = 0 ∨ (at' i).startingSum + r.weight ≤ s.inrushLimit →
                ((∃ d, (r.drawsA = some d ∨ r.drawsB = some d) ∧ s.capacity d.group < s.required d.group) →
                  at' (i + 1) = reasoned .supply)
                ∧ ((∀ d, r.drawsA = some d ∨ r.drawsB = some d → s.required d.group ≤ s.capacity d.group) →
                  (at' (i + 1)).load e.load = some { r with
                    state := .starting, commanded := .run, startCount := r.startCount + 1, blockReason := .none
                    portStop := none, idleClock := 0, verifyEnd := some (s.timeBase + r.tuning.startVerify) }
                  ∧ (∀ m, m ≠ e.load → (at' (i + 1)).load m = (at' i).load m)
                  ∧ (at' (i + 1)).queue = (at' i).queue.filter (fun x => x.load != e.load)
                  ∧ (∀ f : Fin 8, (at' (i + 1)).feeders[f] =
                      if f = r.feeder then .starting e.load else (at' i).feeders[f])
                  ∧ (at' (i + 1)).startingSum = (at' i).startingSum + r.weight
                  ∧ (at' (i + 1)).startingCount = (at' i).startingCount + 1
                  ∧ e.load ∈ (at' (i + 1)).marks))))

/-! ### The clock and the authority -/

/-- R88, R89: the time base goes up by one second and a set clock's second with it, and nothing else changes. What follows the
greatest value of the time base is free (log entry 1), and nothing is said of it. A second that reaches 60 stands so until
the new minute is taken (log entry 7). The new minute carries it: a MIDNIGHT in the last minute of the day, a
PLANT CLOCK MINUTE in every other; that a row which is not due, or which meets an UNSET clock, leaves the state as it is is the
model's choice (log entry 4). -/
def Obligations.ClockAdvances : Prop :=
  (∀ s : State,
    (s.timeBase < 4294967295 → exec .timeBaseSecond s = .next
      { s with timeBase := s.timeBase + 1, clock := s.clock.map (fun c => { c with second := c.second + 1 }) })
    ∧ (4294967295 ≤ s.timeBase → ∃ v k, exec .timeBaseSecond s = .next
      { s with timeBase := v, choices := k, clock := s.clock.map (fun c => { c with second := c.second + 1 }) }))
  ∧ (∀ s : State, s.clock = none → exec .plantClockMinute s = .next s ∧ exec .midnight s = .next s)
  ∧ ∀ (s : State) (c : PlantClock), Canonical s → s.clock = some c →
    (c.second < 60 ∨ 1439 ≤ c.minute → exec .plantClockMinute s = .next s)
    ∧ (c.second < 60 ∨ c.minute < 1439 → exec .midnight s = .next s)
    ∧ (60 ≤ c.second → c.minute < 1439 →
        ∃ t, exec .plantClockMinute s = .next t ∧ t.timeBase = s.timeBase
          ∧ t.clock = some { day := c.day, minute := c.minute + 1, second := c.second - 60 }
          ∧ t.todayOverride = s.todayOverride ∧ t.yesterday = s.yesterday ∧ t.dayMap = s.dayMap)
    ∧ (60 ≤ c.second → 1439 ≤ c.minute →
        ∃ t, exec .midnight s = .next t ∧ t.timeBase = s.timeBase
          ∧ t.clock = some { day := c.day + 1, minute := 0, second := c.second - 60 }
          ∧ t.todayOverride = none ∧ t.yesterday = s.todayOverride.getD s.dayMap[c.day] ∧ t.dayMap = s.dayMap)

/-- R89, R98, R136, R138, R140: a new minute recomputes the authority and starts every WAITING plan whose start minute it is and whose
mask contains today's type, whether one, several or none; at a midnight every DONE plan is WAITING first. Where the authority has
changed, every DUE record has been evaluated under the new one; but a wake guard that begins in the step may find the record
already stopped under the authority of the windows, and a slot's members may have made a group's provider be evaluated before the
change (log entry 14). Every other plan stays as it is, and a record that is no member of slot 0 of a starting plan changes by a hand-off at most. That the row MIDNIGHT itself
carries the second that stands at 60, and tests minute 0, is the model's reading (log entry 7). -/
def Obligations.NewMinuteReachesPlans : Prop :=
  ∀ (s : State) (c : PlantClock) (i : Instr) (day : Fin 7) (minute : Nat) (type : DayType) (before : Nat → Option WakePlan),
    Canonical s → s.clock = some c → 60 ≤ c.second →
    ((i = .plantClockMinute ∧ c.minute < 1439 ∧ day = c.day ∧ minute = c.minute + 1
        ∧ type = s.todayOverride.getD s.dayMap[c.day] ∧ ∀ p, before p = s.plan p)
      ∨ (i = .midnight ∧ 1439 ≤ c.minute ∧ day = c.day + 1 ∧ minute = 0 ∧ type = s.dayMap[(c.day + 1 : Fin 7)]
        ∧ ∀ p, before p = (s.plan p).map (fun x => if x.state = .done then { x with state := .waiting } else x))) →
    ∀ Starts : Nat → WakePlan → Prop,
      (∀ p x, Starts p x ↔ before p = some x ∧ x.state = .waiting ∧ x.start = minute ∧ x.mask.getLsbD type.code = true) →
      ∃ t, exec i s = .next t ∧ t.authority = t.computedAuthority
        ∧ (∀ p x, Starts p x → t.plan p = some (x.started day s.timeBase))
        ∧ (∀ p, (∀ x, ¬ Starts p x) → t.plan p = before p)
        ∧ ((∃ p x, Starts p x ∧ x.guard ≠ 0) → t.authority = 0)
        ∧ (t.authority ≠ s.authority → ∀ n r, s.load n = some r → r.state = .due → ∃ r', t.load n = some r'
          ∧ (s.Judged t.authority n r r' ∨ r'.state = .stopping)
          ∧ (r.provides = none → t.guarded = s.guarded → s.Judged t.authority n r r'))
        ∧ ∀ n r, s.load n = some r →
          (∀ p x m, Starts p x → r.membership = some m → m.plan = p → slotOf m.ordinal x.bits ≠ 0) →
          ∃ r', t.load n = some r' ∧ HandedOn s.timeBase r r'

/-- R90, R91, R137, R138: SET CLOCK writes the time given, or is answered BAD VALUE. A change of day, or a first setting, drops the override
and takes yesterday's type from the map; a change of day makes DONE plans of other days WAITING; a forward setting within the
day starts each WAITING plan it passes whose mask contains today's type, whether one, several or none. The authority is that of
the new time, the time base stays, and the CLOCK flag is clear; where the authority has changed, every DUE record has been evaluated
under the new one, as at a new minute. A second that stands at 60 is taken whole, with its new minute or
midnight, before the setting, which is the model's reading of their order (log entry 7). -/
def Obligations.SetClockSets : Prop :=
  ∀ (s : State) (d mh ml sec : Byte), Canonical s → s.Sent 0x30 [d, mh, ml, sec] →
    (6 < d.toNat ∨ 1439 < mh.toNat * 256 + ml.toNat ∨ 59 < sec.toNat → exec .setClock s = .next (s.respond .badValue []))
    ∧ ∀ c : PlantClock, mh.toNat * 256 + ml.toNat ≤ 1439 → sec.toNat ≤ 59 → c.day.val = d.toNat →
        c.minute = mh.toNat * 256 + ml.toNat → c.second = sec.toNat →
      -- the second before the setting
      (∀ old i s1, s.clock = some old → 60 ≤ old.second →
        ((i = .plantClockMinute ∧ old.minute < 1439) ∨ (i = .midnight ∧ 1439 ≤ old.minute)) → exec i s = .next s1 →
          exec .setClock s = exec .setClock s1)
      ∧ (∃ t, exec .setClock s = .next t ∧ t.answer = some { code := .done, data := [] } ∧ t.executing = none
        ∧ t.clock = some c ∧ t.timeBase = s.timeBase ∧ t.attentionFlags.getLsbD 5 = false
        ∧ t.authority = t.computedAuthority)
      ∧ ((∀ old, s.clock = some old → old.second < 60) →
        (∃ t, exec .setClock s = .next t
          ∧ (s.clock.map (·.day) = some c.day → t.todayOverride = s.todayOverride ∧ t.yesterday = s.yesterday)
          ∧ (s.clock.map (·.day) ≠ some c.day → t.todayOverride = none ∧ t.yesterday = s.dayMap[(c.day - 1 : Fin 7)])
          ∧ (s.clock = none → t.plans = s.plans)
          ∧ (t.authority ≠ s.authority → ∀ n r, s.load n = some r → r.state = .due → ∃ r', t.load n = some r'
            ∧ (s.Judged t.authority n r r' ∨ r'.state = .stopping)
            ∧ (r.provides = none → t.guarded = s.guarded → s.Judged t.authority n r r'))
          ∧ (∀ old, s.clock = some old → old.day ≠ c.day → ∀ p, t.plan p = (s.plan p).map (fun x =>
              if x.state = .done ∧ x.activationDay ≠ some c.day then { x with state := .waiting } else x)))
        ∧ ∀ old, s.clock = some old → old.day = c.day →
          ∀ Starts : Nat → WakePlan → Prop,
            (∀ p x, Starts p x ↔ s.plan p = some x ∧ x.state = .waiting ∧ old.minute < x.start ∧ x.start ≤ c.minute
              ∧ x.mask.getLsbD (s.todayOverride.getD s.dayMap[c.day]).code = true) →
            ∃ t, exec .setClock s = .next t
              ∧ (∀ p x, Starts p x → t.plan p = some (x.started c.day s.timeBase))
              ∧ (∀ p, (∀ x, ¬ Starts p x) → t.plan p = s.plan p)
              ∧ ((∃ p x, Starts p x ∧ x.guard ≠ 0) → t.authority = 0))

/-- R93, R94, R95, R98, R100, R138: SET DAY MAP, OVERRIDE TODAY, SET WINDOW and the end of a wake guard write what they name, and
leave the authority at the value R97 computes; where it has changed, every DUE record has been evaluated under the new one (R57). That
GUARD_END before its second leaves the state as it is is the
model's choice (log entry 4). -/
def Obligations.SettingsRecomputeAuthority : Prop :=
  (∀ (s : State) (p : List Byte), Canonical s → p.length = 7 → s.Sent 0x32 p →
    ((∃ b ∈ p, 2 < b.toNat) → exec .setDayMap s = .next (s.respond .badValue []))
    ∧ ((∀ b ∈ p, b.toNat ≤ 2) → ∃ t, exec .setDayMap s = .next t ∧ t.answer = some { code := .done, data := [] }
        ∧ t.executing = none ∧ (∀ (d : Fin 7) (b : Byte), p[d.val]? = some b → (t.dayMap[d]).code = b.toNat)
        ∧ t.todayOverride = s.todayOverride ∧ t.yesterday = s.yesterday ∧ t.plans = s.plans
        ∧ t.authority = t.computedAuthority ∧ s.DueJudged t))
  ∧ (∀ (s : State) (b : Byte), Canonical s → s.Sent 0x33 [b] →
    (2 < b.toNat → b ≠ 255 → exec .overrideToday s = .next (s.respond .badValue []))
    ∧ (b.toNat ≤ 2 ∨ b = 255 → s.clock = none → exec .overrideToday s = .next (s.respond .wrongState []))
    ∧ (b.toNat ≤ 2 ∨ b = 255 → s.clock ≠ none →
      ∃ t, exec .overrideToday s = .next t ∧ t.answer = some { code := .done, data := [] } ∧ t.executing = none
        ∧ t.todayOverride = (if b = 0 then some .work else if b = 1 then some .short else if b = 2 then some .rest else none)
        ∧ t.plans = s.plans ∧ t.authority = t.computedAuthority ∧ s.DueJudged t))
  ∧ (∀ (s : State) (ty w sh sl eh el a : Byte), Canonical s → s.Sent 0x34 [ty, w, sh, sl, eh, el, a] →
    (2 < ty.toNat ∨ 5 < w.toNat ∨ 3 < a.toNat → exec .setWindow s = .next (s.respond .badValue []))
    ∧ ∀ T : DayType, T.code = ty.toNat → w.toNat ≤ 5 → a.toNat ≤ 3 →
      ∃ t, exec .setWindow s = .next t ∧ t.answer = some { code := .done, data := [] } ∧ t.executing = none
        ∧ (∀ U v, v < 6 → t.window U v =
            if U = T ∧ v = w.toNat then
              { start := min 1439 (sh.toNat * 256 + sl.toNat), stop := min 1439 (eh.toNat * 256 + el.toNat)
                authority := a.toNat }
            else s.window U v)
        ∧ t.authority = t.computedAuthority ∧ s.DueJudged t)
  ∧ ∀ (s : State) (p : Nat) (x : WakePlan), Canonical s → s.plan p = some x →
    ((∀ e, x.guardEnd = some e → s.timeBase < e) → exec (.guardEnd p) s = .next s)
    ∧ ∀ e, x.guardEnd = some e → e ≤ s.timeBase →
      ∃ t, exec (.guardEnd p) s = .next t ∧ t.plan p = some { x with guardEnd := none } ∧ (∀ q, q ≠ p → t.plan q = s.plan q)
        ∧ t.authority = t.computedAuthority ∧ s.DueJudged t

/-- R97, R100: the computed authority is 0 while the clock is UNSET or a wake guard runs, and otherwise the greatest authority of the
windows that cover the present minute, 0 if none does. `Covers` is the rule's own list. -/
def Obligations.AuthorityIsGreatestCovering : Prop :=
  ∀ s : State, Canonical s →
    (s.clock = none → s.computedAuthority = 0)
    ∧ ((∃ p x, s.plan p = some x ∧ x.guardEnd ≠ none) → s.computedAuthority = 0)
    ∧ ∀ c, s.clock = some c → (∀ p x, s.plan p = some x → x.guardEnd = none) →
      ∀ Covers : Window → Prop,
        (∀ W, Covers W ↔ W.authority ≠ 0 ∧ ∃ w, w < 6 ∧
          ((W = s.window (s.todayOverride.getD s.dayMap[c.day]) w
              ∧ W.start ≤ c.minute ∧ (c.minute < W.stop ∨ W.stop ≤ W.start))
            ∨ (W = s.window s.yesterday w ∧ W.stop < W.start ∧ c.minute < W.stop)
            ∨ (W = s.window s.yesterday w ∧ W.stop = W.start ∧ c.minute < W.start))) →
        (∀ W, Covers W → W.authority ≤ s.computedAuthority)
        ∧ (s.computedAuthority = 0 ∨ ∃ W, Covers W ∧ W.authority = s.computedAuthority)

/-! ### The activity assessor -/

/-- R25, R26, R31, R32, R34 to R39, R27, R29: one record's period end by its state: with no valid report in the period only the figures
are emptied; otherwise the level takes the sample, and at most one event follows. A period end that is due schedules the next, and
every record takes its own in the step: hand-offs of the step may come to it before (`ra`) and after (`rb`). A record that has gone
from IDLE to DUE is evaluated in the step (R54, R57). An event that is not
due does nothing (log entry 4). -/
def Obligations.PeriodEndJudgesActivity : Prop :=
  (∀ (s : State) (n : Nat) (r : LoadRecord), s.load n = some r →
    ∀ (none' kept : LoadRecord) (sample level : Nat),
      none' = { r with figures := { strokeSum := 0, largest := none, seen := false } } →
      sample = min 1023
        (r.figures.strokeSum * r.tuning.strokeWeight + (r.figures.largest.getD 0 - r.tuning.currentFloor)) →
      level = min 65535 (r.level - r.level / 2 ^ r.tuning.smoothing + sample) →
      kept = { none' with level := level } →
      (r.figures.seen = false → (s.periodEndOf n).load n = some none')
      ∧ (r.figures.seen = true →
        (r.state = .run → level ≤ r.tuning.idleEnter → (s.periodEndOf n).load n = some
          { kept with state := .idle, commanded := .run, blockReason := .none, portStop := none, verifyEnd := none })
        ∧ (r.state = .run → r.tuning.idleEnter < level → (s.periodEndOf n).load n = some kept)
        ∧ (r.state = .idle → r.tuning.idleLeave ≤ level → (s.periodEndOf n).load n = some
          { kept with
            state := .run, commanded := .run, blockReason := .none, portStop := none, idleClock := 0, verifyEnd := none })
        ∧ (r.state = .idle → level < r.tuning.idleLeave → (r.idleClock + 1) * s.period < r.tuning.idleDelay * 60 →
          (s.periodEndOf n).load n = some { kept with idleClock := r.idleClock + 1 })
        ∧ (r.state = .idle → level < r.tuning.idleLeave → r.tuning.idleDelay * 60 ≤ (r.idleClock + 1) * s.period →
          (s.periodEndOf n).load n = some
            { kept with
              state := .due, commanded := .run, idleClock := r.idleClock + 1, blockReason := .none, verifyEnd := none })
        ∧ (r.state = .due → r.tuning.idleLeave ≤ level → r.portStop = none → (s.periodEndOf n).load n = some
          { kept with state := .run, commanded := .run, blockReason := .none, idleClock := 0, verifyEnd := none })
        ∧ (r.state = .due → level < r.tuning.idleLeave ∨ r.portStop ≠ none → (s.periodEndOf n).load n = some kept)
        ∧ (r.state ≠ .run → r.state ≠ .idle → r.state ≠ .due → (s.periodEndOf n).load n = some kept)))
  ∧ ∀ s : State, Canonical s →
    (s.timeBase < s.periodEnd → exec .activityPeriodEnd s = .next s)
    ∧ (s.periodEnd ≤ s.timeBase → ∃ t, exec .activityPeriodEnd s = .next t
      ∧ t.periodEnd = s.periodEnd + s.period ∧ t.period = s.period ∧ t.authority = s.authority ∧ t.plans = s.plans
      ∧ ∀ n r, s.load n = some r → ∃ ra rb r', HandedOn s.timeBase r ra
        ∧ ((s.setLoad n ra).periodEndOf n).load n = some rb ∧ t.load n = some r' ∧ HandedOn s.timeBase rb r'
        ∧ (s.loads = [(n, r)] → ra = r)
        ∧ (r.state = .idle → rb.state = .due → s.Judged s.authority n rb r')
        ∧ r'.figures = { strokeSum := 0, largest := none, seen := false }
        ∧ (r.figures.seen = false → r'.level = r.level)
        ∧ (r.figures.seen = true → r'.level = min 65535 (r.level - r.level / 2 ^ r.tuning.smoothing + min 1023
            (r.figures.strokeSum * r.tuning.strokeWeight + (r.figures.largest.getD 0 - r.tuning.currentFloor)))))

/-! ### Wake plans -/

/-- R135, R134: SET WAKE PLAN is refused, or writes its settings clamped: a plan NOT SET becomes WAITING, an ACTIVE plan is ended
today, another plan keeps its state, and a running guard of the plan ends, with the authority recomputed and every DUE record
evaluated where it has changed. -/
def Obligations.SetWakePlanSettles : Prop :=
  ∀ (s : State) (p mask sh sl gh gl k guard : Byte), Canonical s → s.Sent 0x38 [p, mask, sh, sl, gh, gl, k, guard] →
    (3 < p.toNat ∨ 7 < mask.toNat → exec .setWakePlan s = .next (s.respond .badValue []))
    ∧ (p.toNat ≤ 3 → mask.toNat ≤ 7 → ∀ start spacing bits minutes : Nat,
        start = min 1439 (sh.toNat * 256 + sl.toNat) → spacing = min 900 (max 10 (gh.toNat * 256 + gl.toNat)) →
        bits = min 6 k.toNat → minutes = min 240 guard.toNat →
      (s.plan p.toNat = none →
        exec .setWakePlan s = .next ((s.setPlan p.toNat
          { mask := mask.setWidth 3, start := start, spacing := spacing, bits := bits, guard := minutes, state := .waiting
            activationDay := none, activationSecond := none, cursor := 0, guardEnd := none }).respond .done []))
      ∧ ∀ x y, s.plan p.toNat = some x →
        ((x.state ≠ .active ∧ y = { x with
            mask := mask.setWidth 3, start := start, spacing := spacing, bits := bits, guard := minutes, guardEnd := none })
          ∨ (x.state = .active ∧ ∃ c, s.clock = some c ∧ y = { x with
            mask := mask.setWidth 3, start := start, spacing := spacing, bits := bits, guard := minutes, guardEnd := none
            state := .done, cursor := 2 ^ x.bits, activationDay := some c.day })) →
        (x.guardEnd = none → exec .setWakePlan s = .next ((s.setPlan p.toNat y).respond .done []))
        ∧ (x.guardEnd ≠ none → ∃ t, exec .setWakePlan s = .next t ∧ t.answer = some { code := .done, data := [] }
            ∧ t.executing = none ∧ t.plan p.toNat = some y ∧ (∀ q, q ≠ p.toNat → t.plan q = s.plan q)
            ∧ t.authority = t.computedAuthority ∧ s.DueJudged t))

/-- R139, R140, R141, R123: the slot of an ordinal is its remainder modulo 2^k with its k digits reversed. A slot that is due moves the
plan on and offers the slot's members to the queue: a member that is STOPPED without a KEEP-OFF hold is queued in class WAKE, or
writes START MISSED at a full queue; a member in another state or held off is passed over. At a full queue every eligible member
misses; where nothing but the offers moves the queue (no group is defined and no feeder is FREE) the eligible members, in ascending
load number, take the room there is, each with its arrival sequence, and from the point where the queue fills the others miss.
Whatever else the step does, once an eligible member has missed, or where the queue had at most one free place before the slot, every
eligible member after it misses; at which member the queue has filled is the model's reading (log entry 26).
Records that are no members change by a hand-off at most. A slot that is not due does not fall (log entry 4). -/
def Obligations.WakeSlotFalls : Prop :=
  (∀ ordinal k : Nat, slotOf ordinal k < 2 ^ k
    ∧ ∀ i, i < k → (slotOf ordinal k).testBit i = (ordinal % 2 ^ k).testBit (k - 1 - i))
  ∧ ∀ (s : State) (p : Nat) (x : WakePlan), Canonical s → s.plan p = some x →
    (x.state ≠ .active → exec (.wakeSlot p) s = .next s)
    ∧ ∀ a, x.state = .active → x.activationSecond = some a →
      (s.timeBase < a + x.cursor * x.spacing → exec (.wakeSlot p) s = .next s)
      ∧ (a + x.cursor * x.spacing ≤ s.timeBase →
        ∀ (y : WakePlan) (Member : Nat → Prop),
          y = { x with
            cursor := x.cursor + 1
            state :=
              if x.cursor + 1 < 2 ^ x.bits then .active
              else if x.activationDay = s.clock.map (·.day) then .done else .waiting } →
          (∀ n, Member n ↔ ∃ r m, s.load n = some r ∧ r.membership = some m ∧ m.plan = p
            ∧ slotOf m.ordinal x.bits = x.cursor) →
          (∃ t, exec (.wakeSlot p) s = .next t ∧ t.plan p = some y ∧ (∀ q, q ≠ p → t.plan q = s.plan q)
            ∧ t.authority = s.authority
            ∧ ∀ n r, s.load n = some r →
              (¬ Member n ∨ r.state ≠ .stopped ∨ s.keepOff n = true → ∃ r', t.load n = some r' ∧ HandedOn s.timeBase r r')
              ∧ (Member n → r.state = .stopped → s.keepOff n = false → r.provides = none →
                ∃ r', t.load n = some r' ∧ n ∈ t.marks
                  ∧ (HandedOn s.timeBase (r.entering .queued s.timeBase) r'
                    ∨ r' = { r with lastOutcome := some { operation := .start, result := .missed, time := s.stamp } })))
          ∧ ((∀ n, ¬ Member n) → exec (.wakeSlot p) s = .next (s.setPlan p y))
          -- the members after the queue has filled
          ∧ (∀ n m r, Member n → s.stateOf n = some .stopped → s.keepOff n = false → n < m → Member m → s.load m = some r →
              r.state = .stopped → s.keepOff m = false → r.provides = none →
            ∃ t, exec (.wakeSlot p) s = .next t ∧ (31 ≤ s.queue.length ∨ t.stateOf n = some .stopped → m ∈ t.marks ∧ t.load m = some
              { r with lastOutcome := some { operation := .start, result := .missed, time := s.stamp } }))
          -- a full queue
          ∧ (32 ≤ s.queue.length → ∃ t, exec (.wakeSlot p) s = .next t ∧ t.queue = s.queue ∧ t.feeders = s.feeders
              ∧ ∀ n r, s.load n = some r →
                (Member n → r.state = .stopped → s.keepOff n = false → n ∈ t.marks ∧ t.load n = some
                  { r with lastOutcome := some { operation := .start, result := .missed, time := s.stamp } })
                ∧ (¬ Member n ∨ r.state ≠ .stopped ∨ s.keepOff n = true → t.load n = some r))
          -- no group to tell and no feeder to grant
          ∧ (s.groups = [] → (∀ f : Fin 8, s.feeders[f] ≠ .free) →
            ∃ t, exec (.wakeSlot p) s = .next t ∧ ∀ M : List Nat, M.Pairwise (· < ·) →
              (∀ n, n ∈ M ↔ Member n ∧ s.stateOf n = some .stopped ∧ s.keepOff n = false) →
              t.queue.length = min (max 32 s.queue.length) (s.queue.length + M.length)
              ∧ (∀ n, n ∉ M → t.load n = s.load n)
              ∧ ∀ i n r, M[i]? = some n → s.load n = some r → n ∈ t.marks
                ∧ (s.queue.length + i < 32 → t.load n = some (r.entering .queued s.timeBase)
                  ∧ ∃ e ∈ t.queue, e.load = n ∧ e.cls = .wake ∧ e.sequence = s.arrivals + BitVec.ofNat 32 i
                      ∧ e.queuedAt = s.timeBase)
                ∧ (32 ≤ s.queue.length + i → t.load n = some
                  { r with lastOutcome := some { operation := .start, result := .missed, time := s.stamp } }))
          -- one member
          ∧ ∀ n r, Member n → (∀ m, Member m → m = n) → s.load n = some r →
            (r.state ≠ .stopped ∨ s.keepOff n = true → exec (.wakeSlot p) s = .next (s.setPlan p y))
            ∧ (r.state = .stopped → s.keepOff n = false → 32 ≤ s.queue.length →
              ∃ t, exec (.wakeSlot p) s = .next t ∧ t.queue = s.queue ∧ n ∈ t.marks
                ∧ t.load n = some { r with lastOutcome := some { operation := .start, result := .missed, time := s.stamp } })
            ∧ (r.state = .stopped → s.keepOff n = false → s.queue.length < 32 → s.hasEntry n = false →
              ∃ t r', exec (.wakeSlot p) s = .next t ∧ t.load n = some r' ∧ n ∈ t.marks ∧ r'.offSince = r.offSince
                ∧ (r'.state = .starting
                  ∨ (r'.state = .queued ∧ ∃ e ∈ t.queue, e.load = n ∧ e.cls = .wake ∧ e.queuedAt = s.timeBase))))

/-! ### Drop lines -/

/-- R144, R145, R146, R66, R65, R18: SET LINE is refused, or writes its settings clamped. Enabling a line puts its cursor at 1 and its pass at
0; a line that stays enabled goes on. On an enabled line each record takes the loss count: a drop not LOST whose miss count is
at or above it is declared LOST, its record entering UNKNOWN with the outcome of its operation (R65), a LOST drop has its miss
count written, every other is kept. Disabling a line quiets it (TXD at mark, DE released) and empties it, and each record on it
enters UNKNOWN, or is removed if RETIRING, its operation ending with ABORTED; that it ends so, and not with LOST, where the loss
count is lowered too is the model's choice (log entry 28). The feeder of a start that ends so is SETTLING, or FREE where the settle
time is 0 (R125). That a changed loss count acts on every record of the line before any hand-off is the model's reading of one
moment (log entry 13). -/
def Obligations.SetLineActs : Prop :=
  ∀ (s : State) (l enable dh dl window loss : Byte), Canonical s → DropLaw s → s.Sent 0x40 [l, enable, dh, dl, window, loss] →
    (3 < l.toNat ∨ 1 < enable.toNat → exec .setLine s = .next (s.respond .badValue []))
    ∧ ∀ (k : Fin 4) (divisor wait limit : Nat) (old : Line), k.val = l.toNat → old = s.lineAt k →
        divisor = min 1023 (max 1 (dh.toNat * 256 + dl.toNat)) → wait = min 63 (max 2 window.toNat) →
        limit = min 15 (max 1 loss.toNat) →
      -- off, and staying off
      (enable = 0 → old.enabled = false → exec .setLine s = .next ((s.setLine k { old with
          divisor := divisor, replyWindow := wait, lossCount := limit }).respond .done []))
      -- on, and going off
      ∧ (enable = 0 → old.enabled = true →
        ∃ t, exec .setLine s = .next t ∧ t.answer = some { code := .done, data := [] } ∧ t.executing = none
          ∧ t.lineAt k = { old with
              enabled := false, divisor := divisor, replyWindow := wait, lossCount := limit, exchange := none, txd := [true]
              de := [false], urgent := [], lost := [], pass := 0 }
          ∧ (t.lineAt k).txdNow = true ∧ (t.lineAt k).deNow = false
          ∧ ∀ n r, s.load n = some r →
            (r.line ≠ k → ∃ r', t.load n = some r' ∧ HandedOn s.timeBase r r')
            ∧ (r.line = k → r.state = .unknown → t.load n = some { r with missCount := 0 })
            ∧ (r.line = k → r.state = .retiring → t.load n = none ∧ n ∈ t.marks
                ∧ Table.find t.slotOutcomes n = some { operation := .retire, result := .aborted, time := s.stamp })
            ∧ (r.line = k → r.state = .starting → s.Released t r.feeder)
            ∧ (r.line = k → r.state ≠ .unknown → r.state ≠ .retiring → n ∈ t.marks ∧ t.load n = some
              { r with
                state := .unknown, blockReason := .none, portStop := none, lastRun := none, idleClock := 0, baseline := none
                verifyEnd := none, missCount := 0
                lastOutcome :=
                  if r.state = .stopping then some { operation := .stop, result := .aborted, time := s.stamp }
                  else if r.state = .queued ∨ r.state = .starting then
                    some { operation := .start, result := .aborted, time := s.stamp }
                  else r.lastOutcome }))
      -- on
      ∧ (enable = 1 →
        ∃ t, exec .setLine s = .next t ∧ t.answer = some { code := .done, data := [] } ∧ t.executing = none
          ∧ (t.lineAt k).enabled = true ∧ (t.lineAt k).divisor = divisor ∧ (t.lineAt k).replyWindow = wait
          ∧ (t.lineAt k).lossCount = limit ∧ ((t.lineAt k).exchange = none ↔ old.exchange = none)
          ∧ (t.lineAt k).txd = old.txd ∧ (t.lineAt k).de = old.de
          ∧ (old.enabled = false → (t.lineAt k).cursor = 1 ∧ (t.lineAt k).pass = 0)
          ∧ (old.enabled = true → (t.lineAt k).cursor = old.cursor ∧ (t.lineAt k).pass = old.pass)
          ∧ (∀ a, a ∈ (t.lineAt k).lost ↔ a ∈ old.lost ∨ ∃ n r, s.load n = some r ∧ r.line = k ∧ r.address = a
              ∧ limit ≤ r.missCount ∧ r.state ≠ .retiring)
          ∧ ∀ n r, s.load n = some r →
            (r.line ≠ k ∨ (r.address ∉ old.lost ∧ r.missCount < limit) →
              ∃ r', t.load n = some r' ∧ HandedOn s.timeBase r r')
            ∧ (r.line = k → r.address ∈ old.lost →
              ∃ r', t.load n = some r' ∧ HandedOn s.timeBase { r with missCount := limit } r')
            ∧ (r.line = k → r.address ∉ old.lost → limit ≤ r.missCount →
              (r.state = .retiring → t.load n = none
                ∧ Table.find t.slotOutcomes n = some { operation := .retire, result := .lost, time := s.stamp })
              ∧ (r.state = .starting → s.Released t r.feeder)
              ∧ (r.state = .unknown ∨ r.state = .fault →
                  t.load n = some { r with missCount := limit, lastRun := none })
              ∧ (r.state = .queued → t.hasEntry n = false)
              ∧ (r.state ≠ .retiring → r.state ≠ .unknown → r.state ≠ .fault → n ∈ t.marks ∧ t.load n = some
                { r with
                  state := .unknown, blockReason := .none, portStop := none, lastRun := none, idleClock := 0, baseline := none
                  verifyEnd := none, missCount := limit
                  lastOutcome :=
                    if r.state = .stopping then some { operation := .stop, result := .lost, time := s.stamp }
                    else if r.state = .queued ∨ r.state = .starting then
                      some { operation := .start, result := .lost, time := s.stamp }
                    else r.lastOutcome })))

/-- R149, R152, R153, R148, R175, R147: a ready line takes the head of its urgent list, or else the drop of the ring that the search finds:
the lowest address at or above the cursor that can be polled on this pass, or, on the first later pass on which some drop can
be polled, the lowest. It sends the record's order: 33 bits, the mark bit at mark in the first character alone, with DE asserted
over the 33 and released after them. A line that is off, busy or has nothing to poll begins no exchange; that an empty ring then
moves neither the cursor nor the pass number is the model's choice (log entry 24). `order` is the order byte: bits 0 and 1 the
commanded state, 2 and 3 the start count, 4 and 5 the button count taken, 6 the hold lamp. -/
def Obligations.ExchangeStartPolls : Prop :=
  ∀ (s : State) (l : Fin 4) (x : Line), Canonical s → DropLaw s → x = s.lineAt l →
    (x.enabled = false ∨ x.exchange ≠ none → exec (.exchangeStart l) s = .next s)
    ∧ (x.urgent = [] → (∀ n r, s.load n = some r → r.line ≠ l) → exec (.exchangeStart l) s = .next s)
    ∧ ∀ (n : Nat) (r : LoadRecord) (order : Byte) (y : Line), x.enabled = true → x.exchange = none →
        s.load n = some r → r.line = l →
        order.toNat = (if r.commanded = .run then 0 else if r.commanded = .stop then 1 else 2) + 4 * r.startCount.toNat
          + 16 * r.buttonTaken.toNat + (if s.keepRunLevels n = [] then 0 else 64) →
        y = { x with
          exchange := some
            { address := r.address
              load := some n
              order :=
                { commanded := r.commanded, startCount := r.startCount, buttonTaken := r.buttonTaken
                  lamp := s.holdLamp n }
              divisor := x.divisor
              replyWindow := x.replyWindow }
          txd := charBits true (byte r.address) ++ charBits false order
            ++ charBits false (crc8 [byte r.address, order]) ++ [true]
          de := List.replicate 33 true ++ [false] } →
      y.deNow = false ∧ y.txdNow = true
      ∧ (∀ rest, x.urgent = r.address :: rest →
        exec (.exchangeStart l) s = .next (s.setLine l { y with urgent := rest }))
      ∧ ∀ (Found : Nat → Nat → Prop) (k : Nat), x.urgent = [] → x.pass < 8 → k ≤ 8 →
          (∀ j a, Found j a ↔ (∃ m rm, s.load m = some rm ∧ rm.line = l ∧ rm.address = a)
            ∧ (if j = 0 then x.cursor else 1) ≤ a ∧ ((x.pass + j) % 8 = 0 ∨ a ∉ x.lost)) →
          Found k r.address → (∀ a, Found k a → r.address ≤ a) → (∀ j a, j < k → ¬ Found j a) →
        exec (.exchangeStart l) s = .next (s.setLine l { y with pass := (x.pass + k) % 8, cursor := r.address + 1 })

/-- R147, R150, R175: the bits of a character as sent, and the character of the eleven levels sampled after a falling edge: none where
the start bit is back at mark; the five checks of a reply in their order, and the fields of a valid report. That a reply of no
characters is SILENT also where such an edge came in the reply window is the model's choice (log entry 29). -/
def Obligations.ReplyIsJudged : Prop :=
  (∀ (m : Bool) (b : Byte), charBits m b = [false, b.getLsbD 0, b.getLsbD 1, b.getLsbD 2, b.getLsbD 3, b.getLsbD 4,
      b.getLsbD 5, b.getLsbD 6, b.getLsbD 7, m, true])
  ∧ (∀ sample : BitVec 11,
    (sample.getLsbD 0 = true → receivedChar sample = none)
    ∧ (sample.getLsbD 0 = false → ∃ c, receivedChar sample = some c ∧ c.markBit = sample.getLsbD 9
        ∧ c.stopBit = sample.getLsbD 10 ∧ ∀ i, i < 8 → c.data.getLsbD i = sample.getLsbD (i + 1)))
  ∧ (∀ (bytes : List Byte) (c : Byte), crc8 (bytes ++ [c]) = 0 ↔ c = crc8 bytes)
  ∧ ∀ (address : Nat) (chars six : List RxChar), six = chars.take 6 →
    (chars = [] → judge address chars = .silent)
    ∧ (chars ≠ [] → (∃ c ∈ six, c.stopBit = false ∨ c.markBit = true) → judge address chars = .framing)
    ∧ (chars ≠ [] → (∀ c ∈ six, c.stopBit = true ∧ c.markBit = false) →
      (chars.length < 6 → judge address chars = .stray)
      ∧ ∀ a flags counts strokes current crc : Byte, six.map (·.data) = [a, flags, counts, strokes, current, crc] →
        (crc ≠ crc8 [a, flags, counts, strokes, current] → judge address chars = .check)
        ∧ (crc = crc8 [a, flags, counts, strokes, current] →
          (a ≠ byte address → judge address chars = .stray)
          ∧ (a = byte address → ∃ rep, judge address chars = .valid rep
            ∧ (rep.run = .stopped ↔ flags.toNat % 4 = 0) ∧ (rep.run = .running ↔ flags.toNat % 4 = 1)
            ∧ (rep.run = .accelerating ↔ flags.toNat % 4 = 2) ∧ (rep.run = .coasting ↔ flags.toNat % 4 = 3)
            ∧ rep.localFlag = flags.getLsbD 2 ∧ rep.isolatorOpen = flags.getLsbD 3 ∧ rep.declined = flags.getLsbD 4
            ∧ rep.released = flags.getLsbD 5 ∧ rep.echo.toNat = counts.toNat % 4
            ∧ rep.button.toNat = counts.toNat / 4 % 4 ∧ rep.strokes = strokes ∧ rep.current = current.toNat)))

/-- R150, R151, R65, R68, R125: a failed exchange ends, adds 1 to the counter of its failure, which saturates at 255 and then sets the overflow
flag, and to the polled drop's miss count; at the loss count the drop is declared LOST, and a RETIRING record of a LOST drop
is removed; the feeder of a start that ends so is SETTLING, or FREE where the settle time is 0. An exchange whose record has been removed is counted nowhere, and a line without an exchange does nothing (log
entry 4). The reply window's end is the reply of no characters; that a reply whose edges all had their start bit back at mark is
one too is the model's choice (log entry 29). -/
def Obligations.FailedExchangeCounts : Prop :=
  ∀ (s : State) (l : Fin 4) (samples : List (BitVec 11)) (chars : List RxChar) (i : Instr) (x : Line), Canonical s →
    x = s.lineAt l → ((i = .replyEnd l samples ∧ chars = receivedChars samples) ∨ (i = .replyWindowExpiry l ∧ chars = [])) →
    (x.exchange = none → exec i s = .next s)
    ∧ ∀ e, x.exchange = some e →
      (e.load = none → exec i s = .next (s.setLine l { x with exchange := none }))
      ∧ ∀ n r, e.load = some n → s.load n = some r → r.line = l → (∀ rep, judge e.address chars ≠ .valid rep) →
        x.silent ≤ 255 → x.framing ≤ 255 → x.check ≤ 255 → x.stray ≤ 255 →
        ∃ t, exec i s = .next t ∧ (t.lineAt l).exchange = none
          ∧ (t.lineAt l).silent = min 255 (x.silent + if judge e.address chars = .silent then 1 else 0)
          ∧ (t.lineAt l).framing = min 255 (x.framing + if judge e.address chars = .framing then 1 else 0)
          ∧ (t.lineAt l).check = min 255 (x.check + if judge e.address chars = .check then 1 else 0)
          ∧ (t.lineAt l).stray = min 255 (x.stray + if judge e.address chars = .stray then 1 else 0)
          ∧ ((t.lineAt l).overflow = true ↔ x.overflow = true
              ∨ (judge e.address chars = .silent ∧ x.silent = 255) ∨ (judge e.address chars = .framing ∧ x.framing = 255)
              ∨ (judge e.address chars = .check ∧ x.check = 255) ∨ (judge e.address chars = .stray ∧ x.stray = 255))
          ∧ (r.address ∉ x.lost → r.missCount + 1 < x.lossCount →
            (t.lineAt l).lost = x.lost
            ∧ ∃ r', t.load n = some r' ∧ HandedOn s.timeBase { r with missCount := r.missCount + 1 } r')
          ∧ (r.address ∉ x.lost → r.missCount + 1 = x.lossCount →
            (r.state = .retiring → t.load n = none ∧ r.address ∉ (t.lineAt l).lost
              ∧ Table.find t.slotOutcomes n = some { operation := .retire, result := .lost, time := s.stamp })
            ∧ (r.state ≠ .retiring → r.address ∈ (t.lineAt l).lost ∧ t.lineFlag = true
              ∧ (r.state = .starting → s.Released t r.feeder)
              ∧ (r.state = .unknown ∨ r.state = .fault →
                  t.load n = some { r with missCount := x.lossCount, lastRun := none })
              ∧ (r.state ≠ .unknown → r.state ≠ .fault → n ∈ t.marks ∧ t.load n = some
                { r with
                  state := .unknown, blockReason := .none, portStop := none, lastRun := none, idleClock := 0
                  baseline := none, verifyEnd := none, missCount := x.lossCount
                  lastOutcome :=
                    if r.state = .stopping then some { operation := .stop, result := .lost, time := s.stamp }
                    else if r.state = .queued ∨ r.state = .starting then
                      some { operation := .start, result := .lost, time := s.stamp }
                    else r.lastOutcome })))
          ∧ (r.address ∈ x.lost → r.missCount = x.lossCount →
            (r.state = .retiring → t.load n = none ∧ r.address ∉ (t.lineAt l).lost
              ∧ Table.find t.slotOutcomes n = some { operation := .retire, result := .lost, time := s.stamp })
            ∧ (r.state ≠ .retiring → ∃ r', t.load n = some r' ∧ HandedOn s.timeBase r r'))

/-- R151, R49, R50, R55, R59, R62, R64, R68, R79, R84, R117, R27, R28, R30, R176: a valid report clears the miss count and the LOST condition, gathers
its figures, follows the isolator flag and the button count (`g`), and acts by the record's state. The first report to an UNKNOWN
record is stated whole, with the failed-raise sets that a provider leaves as it enters RUN, or as its last KEEP-OFF hold leaves it
(R117). To the others it is stated here for a report that brings no change by its local flag, by an isolator that
opens on a start, or by a press that has an effect; those are stated by themselves. In RETIRING the local flag and a press are
ignored. -/
def Obligations.ValidReportActs : Prop :=
  ∀ (s : State) (l : Fin 4) (samples : List (BitVec 11)) (e : Exchange) (n : Nat) (r g : LoadRecord) (rep : Report),
    Canonical s → (s.lineAt l).exchange = some e → e.load = some n → s.load n = some r → r.line = l →
    r.address = e.address → judge e.address (receivedChars samples) = .valid rep →
    g = { r with
      missCount := 0
      baseline := some rep.strokes
      lastRun := some rep.run
      isolatorHold := rep.isolatorOpen
      buttonTaken := rep.button
      figures :=
        { strokeSum := min 1023 (r.figures.strokeSum
            + match r.baseline with
              | none => 0
              | some b => (rep.strokes.toNat + 256 - b.toNat) % 256)
          largest := if 250 < rep.current then r.figures.largest else some (max (r.figures.largest.getD 0) rep.current)
          seen := true } } →
    ∃ t, exec (.replyEnd l samples) s = .next t ∧ (t.lineAt l).exchange = none ∧ e.address ∉ (t.lineAt l).lost
      ∧ (r.state = .unknown → ∃ r', t.load n = some r' ∧ n ∈ t.marks ∧ HandedOn s.timeBase
        { g with
          state := if rep.localFlag = true then .inLocal else if rep.run = .stopped then .stopped else .run
          commanded := if rep.localFlag = false ∧ rep.run ≠ .stopped then .run else r.commanded
          runSince := if rep.localFlag = false ∧ rep.run ≠ .stopped then s.timeBase else r.runSince
          offSince := if rep.localFlag = false ∧ rep.run = .stopped then s.timeBase else r.offSince
          blockReason := .none, portStop := none, idleClock := 0, verifyEnd := none } r')
      ∧ (r.state = .unknown → rep.localFlag = false → rep.run ≠ .stopped → ∀ k x, t.group k = some x → n ∉ x.failed)
      ∧ (r.state = .unknown → rep.isolatorOpen = false → r.isolatorHold = true →
          (∀ h ∈ s.holdsOn n, h.2.sense ≠ .keepOff) → RaiseLaw s → ∀ k x, t.group k = some x → n ∉ x.failed)
      ∧ (rep.localFlag = false → r.state ≠ .inLocal →
          (rep.button = r.buttonTaken ∨ r.state = .queued ∨ r.state = .starting ∨ r.state = .fault) →
          (rep.isolatorOpen = r.isolatorHold ∨ rep.isolatorOpen = false ∨ (r.state ≠ .queued ∧ r.state ≠ .starting)) →
        (r.state = .stopping → rep.run = .stopped → n ∈ t.marks ∧ ∃ r', t.load n = some r' ∧ HandedOn s.timeBase
          { g with
            state := .stopped, offSince := s.timeBase, blockReason := .none, portStop := none, idleClock := 0
            verifyEnd := none, lastOutcome := some { operation := .stop, result := .completed, time := s.stamp } } r')
        ∧ (r.state = .stopping → rep.run ≠ .stopped → rep.declined = true → e.order.commanded = .stop →
          t.load n = some
            { g with
              state := .run, commanded := .run, blockReason := .none, portStop := none, idleClock := 0, verifyEnd := none
              lastOutcome := some { operation := .stop, result := .declined, time := s.stamp } })
        ∧ (r.state = .stopping → rep.run ≠ .stopped → (rep.declined = false ∨ e.order.commanded ≠ .stop) →
          t.load n = some g)
        ∧ (r.state = .starting → rep.run = .running → rep.echo = r.startCount → t.load n = some
          { g with
            state := .run, commanded := .run, runSince := s.timeBase, blockReason := .none, portStop := none, idleClock := 0
            verifyEnd := none, level := r.tuning.idleLeave
            lastOutcome := some { operation := .start, result := .completed, time := s.stamp } }
          ∧ s.Released t r.feeder)
        ∧ (r.state = .starting → (rep.run ≠ .running ∨ rep.echo ≠ r.startCount) → t.load n = some g)
        ∧ (r.state = .run ∨ r.state = .idle ∨ r.state = .due → rep.run = .stopped →
          n ∈ t.marks ∧ ∃ r', t.load n = some r' ∧ HandedOn s.timeBase
            { g with
              state := .stopped, offSince := s.timeBase, blockReason := .none, portStop := none, idleClock := 0
              verifyEnd := none } r')
        ∧ (r.state = .stopped → (rep.run = .running ∨ rep.run = .accelerating) → n ∈ t.marks ∧ t.load n = some
          { g with
            state := .run, commanded := .run, runSince := s.timeBase, blockReason := .none, portStop := none, idleClock := 0
            verifyEnd := none })
        ∧ (r.state = .queued → (rep.run = .running ∨ rep.run = .accelerating) → n ∈ t.marks ∧ t.load n = some
          { g with
            state := .run, commanded := .run, runSince := s.timeBase, blockReason := .none, portStop := none, idleClock := 0
            verifyEnd := none, lastOutcome := some { operation := .start, result := .overtaken, time := s.stamp } })
        ∧ (r.state = .run ∨ r.state = .idle → rep.run ≠ .stopped → t.load n = some g)
        ∧ (r.state = .fault → t.load n = some g)
        ∧ (r.state = .due → rep.run ≠ .stopped → ∃ r', t.load n = some r' ∧ HandedOn s.timeBase g r')
        ∧ (r.state = .stopped ∨ r.state = .queued → rep.run = .stopped ∨ rep.run = .coasting →
          ∃ r', t.load n = some r' ∧ HandedOn s.timeBase g r'))
      ∧ (r.state = .retiring → rep.released = true → e.order.commanded = .release → t.load n = none
          ∧ Table.find t.slotOutcomes n = some { operation := .retire, result := .completed, time := s.stamp })
      ∧ (r.state = .retiring → (rep.released = false ∨ e.order.commanded ≠ .release) → r.retireExchanges + 1 < 10 →
          t.load n = some { g with retireExchanges := r.retireExchanges + 1 })
      ∧ (r.state = .retiring → (rep.released = false ∨ e.order.commanded ≠ .release) → r.retireExchanges + 1 = 10 →
          t.load n = none
          ∧ Table.find t.slotOutcomes n = some { operation := .retire, result := .lost, time := s.stamp })

/-- R51, R52, R79, R83, R84, R117, with R64 and R53: what the flags of a valid report to a record that is not UNKNOWN do. An isolator
that opens or closes sets the mark and moves the isolator hold (`g`); opening on a QUEUED record cancels the start, and on a
STARTING one turns it into a stop, or a fault where a provider of the group is already STOPPING, whatever else the report carries.
The local flag takes every other record but a RETIRING one to LOCAL, with the outcome of the operation in flight; a clear flag
takes a LOCAL record to RUN or STOPPED by its run state. A press that comes with such a change of state (`b` is the button hold
it leaves) still places its hold in RUN and STOPPING, and changes the state no further: log entry 15 (DEDUCED). A provider that a
report has brought into RUN, and one that its last KEEP-OFF hold has left, is in no failed-raise set; the model counts the press
that overtakes a stop as part of its report (log entry 25). -/
def Obligations.ReportFlagsAct : Prop :=
  ∀ (s : State) (l : Fin 4) (samples : List (BitVec 11)) (e : Exchange) (n : Nat) (r g : LoadRecord) (rep : Report)
      (b : Option Nat),
    Canonical s → (s.lineAt l).exchange = some e → e.load = some n → s.load n = some r → r.line = l →
    r.address = e.address → judge e.address (receivedChars samples) = .valid rep → r.state ≠ .unknown →
    g = { r with
      missCount := 0
      baseline := some rep.strokes
      lastRun := some rep.run
      isolatorHold := rep.isolatorOpen
      buttonTaken := rep.button
      figures :=
        { strokeSum := min 1023 (r.figures.strokeSum
            + match r.baseline with
              | none => 0
              | some b => (rep.strokes.toNat + 256 - b.toNat) % 256)
          largest := if 250 < rep.current then r.figures.largest else some (max (r.figures.largest.getD 0) rep.current)
          seen := true } } →
    b = (if rep.button = r.buttonTaken then r.buttonHold else some r.tuning.buttonTime) →
    ∃ t, exec (.replyEnd l samples) s = .next t
      ∧ (rep.isolatorOpen ≠ r.isolatorHold → n ∈ t.marks)
      -- the isolator opens on a start (R83, R62, R64)
      ∧ (rep.isolatorOpen = true → r.isolatorHold = false →
        (r.state = .queued → t.hasEntry n = false ∧ t.load n = some
          { g with
            state := .stopped, blockReason := .none, portStop := none, idleClock := 0, verifyEnd := none
            lastOutcome := some { operation := .start, result := .cancelled, time := s.stamp } })
        ∧ (r.state = .starting →
          s.Released t r.feeder
          ∧ ((∃ p m rm pm, r.provides = some p ∧ m ≠ n ∧ s.load m = some rm ∧ rm.provides = some pm
                ∧ pm.group = p.group ∧ rm.state = .stopping) →
            t.load n = some
              { g with
                state := .fault, commanded := .stop, blockReason := .none, portStop := none, idleClock := 0
                verifyEnd := none, lastOutcome := some { operation := .start, result := .cancelled, time := s.stamp } })
          ∧ ((∀ p m rm pm, r.provides = some p → m ≠ n → s.load m = some rm → rm.provides = some pm →
                pm.group = p.group → rm.state ≠ .stopping) →
            t.load n = some
              { g with
                state := .stopping, commanded := .stop, blockReason := .none, idleClock := 0, buttonHold := b
                verifyEnd := some (s.timeBase + r.tuning.stopVerify)
                lastOutcome := some { operation := .start, result := .cancelled, time := s.stamp } })))
      -- the local flag (R51)
      ∧ (rep.localFlag = true → r.state ≠ .retiring → r.state ≠ .inLocal →
          (rep.isolatorOpen = false ∨ r.isolatorHold = true ∨ (r.state ≠ .queued ∧ r.state ≠ .starting)) →
        n ∈ t.marks ∧ (r.state = .queued → t.hasEntry n = false)
        ∧ (r.state = .starting → s.Released t r.feeder)
        ∧ t.load n = some
          { g with
            state := .inLocal, blockReason := .none, portStop := none, idleClock := 0, verifyEnd := none
            lastOutcome :=
              if r.state = .stopping then some { operation := .stop, result := .overtaken, time := s.stamp }
              else if r.state = .queued ∨ r.state = .starting then
                some { operation := .start, result := .overtaken, time := s.stamp }
              else r.lastOutcome })
      -- out of LOCAL (R52)
      ∧ (r.state = .inLocal →
        (rep.localFlag = true → t.load n = some g)
        ∧ (rep.localFlag = false → rep.run ≠ .stopped → n ∈ t.marks ∧ t.load n = some
          { g with
            state := .run, commanded := .run, runSince := s.timeBase, blockReason := .none, portStop := none, idleClock := 0
            verifyEnd := none, buttonHold := b })
        ∧ (rep.localFlag = false → rep.run = .stopped → n ∈ t.marks ∧ ∃ r', t.load n = some r' ∧ HandedOn s.timeBase
          { g with
            state := .stopped, offSince := s.timeBase, blockReason := .none, portStop := none, idleClock := 0
            verifyEnd := none } r'))
      -- the failed-raise sets (R84, R117)
      ∧ (r.state ≠ .run → t.stateOf n = some .run → ∀ k x, t.group k = some x → n ∉ x.failed)
      ∧ (rep.isolatorOpen = false → r.isolatorHold = true → (∀ h ∈ s.holdsOn n, h.2.sense ≠ .keepOff) →
          r.state ≠ .queued → r.state ≠ .starting → RaiseLaw s → ∀ k x, t.group k = some x → n ∉ x.failed)

/-- R53, R77, R60, R123: a press in a report that changes nothing else by its flags, to a record that is not UNKNOWN. It places or refreshes
the button hold in RUN, IDLE, DUE and STOPPING (`h`); a DUE record is evaluated with its hold in place, by its permission `w`, which is
AUTHORITY or HOLD where its effective authority `E` is 0 or 1 (that the evaluation falls within the report is log entry 15, DEDUCED); a stop under an authority of at
most 1 is overtaken. A STOPPED record is offered in class CALL, its entry numbered with the arrival count and dated with the time
base, or writes START MISSED where the queue is full or a KEEP-OFF hold bars it. In every other state the press has no effect beyond
the echo. The run state then acts, unless the press has changed the state. -/
def Obligations.PressActs : Prop :=
  ∀ (s : State) (l : Fin 4) (samples : List (BitVec 11)) (e : Exchange) (n E : Nat) (r g h : LoadRecord) (rep : Report),
    Canonical s → (s.lineAt l).exchange = some e → e.load = some n → s.load n = some r → r.line = l →
    r.address = e.address → judge e.address (receivedChars samples) = .valid rep → r.state ≠ .unknown →
    rep.button ≠ r.buttonTaken → (rep.localFlag = true ↔ r.state = .inLocal) → rep.isolatorOpen = r.isolatorHold →
    g = { r with
      missCount := 0
      baseline := some rep.strokes
      lastRun := some rep.run
      buttonTaken := rep.button
      figures :=
        { strokeSum := min 1023 (r.figures.strokeSum
            + match r.baseline with
              | none => 0
              | some b => (rep.strokes.toNat + 256 - b.toNat) % 256)
          largest := if 250 < rep.current then r.figures.largest else some (max (r.figures.largest.getD 0) rep.current)
          seen := true } } →
    h = { g with buttonHold := some r.tuning.buttonTime } → E = max s.authority (r.portStop.getD 0) →
    ∃ t, exec (.replyEnd l samples) s = .next t
      ∧ (r.state = .run ∨ r.state = .idle → n ∈ t.marks
        ∧ (rep.run ≠ .stopped → t.load n = some h)
        ∧ (rep.run = .stopped → ∃ r', t.load n = some r' ∧ HandedOn s.timeBase
          { h with
            state := .stopped, offSince := s.timeBase, blockReason := .none, portStop := none, idleClock := 0
            verifyEnd := none } r'))
      ∧ (r.state = .due → n ∈ t.marks
        ∧ (E = 0 → rep.run ≠ .stopped → t.load n = some { h with blockReason := .authority })
        ∧ (E = 1 → rep.run ≠ .stopped → t.load n = some { h with blockReason := .hold })
        ∧ ∀ w, w = (s.setLoad n h).permission n h →
          (w = .none → t.load n = some
            { h with
              state := .stopping, commanded := .stop, blockReason := .none, idleClock := 0
              verifyEnd := some (s.timeBase + r.tuning.stopVerify) })
          ∧ (w ≠ .none → rep.run ≠ .stopped → t.load n = some { h with blockReason := w })
          ∧ (w ≠ .none → rep.run = .stopped → ∃ r', t.load n = some r' ∧ HandedOn s.timeBase
            { h with
              state := .stopped, offSince := s.timeBase, blockReason := .none, portStop := none, idleClock := 0
              verifyEnd := none } r'))
      ∧ (r.state = .stopping → n ∈ t.marks
        ∧ (E ≤ 1 → t.load n = some
          { h with
            state := .run, commanded := .run, blockReason := .none, portStop := none, idleClock := 0, verifyEnd := none
            lastOutcome := some { operation := .stop, result := .overtaken, time := s.stamp } })
        ∧ (1 < E → rep.run ≠ .stopped → (rep.declined = false ∨ e.order.commanded ≠ .stop) → t.load n = some h)
        ∧ (1 < E → rep.run ≠ .stopped → rep.declined = true → e.order.commanded = .stop → t.load n = some
          { h with
            state := .run, commanded := .run, blockReason := .none, portStop := none, idleClock := 0, verifyEnd := none
            lastOutcome := some { operation := .stop, result := .declined, time := s.stamp } })
        ∧ (1 < E → rep.run = .stopped → ∃ r', t.load n = some r' ∧ HandedOn s.timeBase
          { h with
            state := .stopped, offSince := s.timeBase, blockReason := .none, portStop := none, idleClock := 0
            verifyEnd := none, lastOutcome := some { operation := .stop, result := .completed, time := s.stamp } } r'))
      ∧ (r.state = .stopped → n ∈ t.marks
        ∧ (s.keepOff n = false → s.queue.length < 32 →
          ∃ r', t.load n = some r' ∧ HandedOn s.timeBase (g.entering .queued s.timeBase) r'
            ∧ (r'.state = .queued → ∃ x ∈ t.queue, x.load = n ∧ x.cls = .call ∧ x.sequence = s.arrivals
                ∧ x.queuedAt = s.timeBase))
        ∧ (s.keepOff n = true ∨ 32 ≤ s.queue.length →
          (rep.run = .stopped ∨ rep.run = .coasting → ∃ r', t.load n = some r' ∧ HandedOn s.timeBase
            { g with lastOutcome := some { operation := .start, result := .missed, time := s.stamp } } r')
          ∧ (rep.run = .running ∨ rep.run = .accelerating → t.load n = some
            { g with
              state := .run, commanded := .run, runSince := s.timeBase, blockReason := .none, portStop := none
              idleClock := 0, verifyEnd := none
              lastOutcome := some { operation := .start, result := .missed, time := s.stamp } })))
      ∧ (r.state = .inLocal ∨ r.state = .fault → t.load n = some g)
      ∧ (r.state = .queued ∨ r.state = .starting → ∃ r', t.load n = some r' ∧ r'.buttonHold = r.buttonHold
          ∧ r'.buttonTaken = rep.button)
      ∧ (r.state = .retiring → ∀ r', t.load n = some r' → r'.buttonHold = r.buttonHold ∧ r'.buttonTaken = rep.button)

/-! ### What every step keeps -/

/-- The tables stay in their canonical form, the changed marks and the LIST CHANGED cursor name slots, TL stays below TH in every
record, no two live records name one drop, and the dependency graph keeps no cycle and no chain of more than four groups (R1, R3,
R9, R18, R19, R38, R106). A hold that leaves marks the slot it names, so the marks rest on the holds naming live records. -/
def Obligations.TableLawsKept : Prop :=
  ∀ s t : State, Canonical s → step s = .next t →
    Canonical t ∧ (ThresholdLaw s → ThresholdLaw t) ∧ (DropLaw s → DropLaw t) ∧ (GraphLaw s → GraphLaw t)
      ∧ (HoldLaw s → SlotLaw s → SlotLaw t)

/-- R122, R123, R124, R62: the queue keeps its room, its order of classes, one entry a load, and an entry exactly for each QUEUED load. -/
def Obligations.QueueLawKept : Prop := ∀ s t : State, Canonical s → QueueLaw s → step s = .next t → QueueLaw t

/-- R125, R126, R129: a feeder is STARTING with a load exactly when that load is in STARTING on it, and the starting weight sum stays
within the inrush limit unless at most one load is in STARTING. -/
def Obligations.FeederAndBudgetLawsKept : Prop :=
  ∀ s t : State, Canonical s → FeederLaw s → BudgetLaw s → step s = .next t → FeederLaw t ∧ BudgetLaw t

/-- R112, R57, R64: within each group at most one provider is in STOPPING. -/
def Obligations.PacingLawKept : Prop := ∀ s t : State, Canonical s → PacingLaw s → step s = .next t → PacingLaw t

/-- R62, R83, R123: no QUEUED or STARTING load carries a KEEP-OFF hold. -/
def Obligations.KeepOffLawKept : Prop := ∀ s t : State, Canonical s → KeepOffLaw s → step s = .next t → KeepOffLaw t

/-- R102, R114, R116: the raised provider of a RAISING group is in QUEUED or STARTING. -/
def Obligations.RaiseLawKept : Prop := ∀ s t : State, Canonical s → RaiseLaw s → step s = .next t → RaiseLaw t

/-- R73, R74, R21: every port hold names a live record that is not RETIRING, and no load carries more than three. -/
def Obligations.HoldLawKept : Prop := ∀ s t : State, Canonical s → HoldLaw s → step s = .next t → HoldLaw t

/-- R22, R152, R153, R154: each urgent list keeps at most eight addresses, each once, every address of it and every LOST drop stays in the
poll ring, and an exchange in flight polls the drop of a live record or of none. Between steps TXD is at mark and DE released on
every line: EXCHANGE_START takes a poll whole, which is the model's choice (log entry 12). -/
def Obligations.LineLawKept : Prop := ∀ s t : State, Canonical s → LineLaw s → step s = .next t → LineLaw t

/-- R97, R98, R100, R101: the plant authority stays the one that the clock, the windows and the wake guards give, whatever changes one of
them. -/
def Obligations.AuthorityLawKept : Prop :=
  ∀ s t : State, Canonical s → AuthorityLaw s → step s = .next t → AuthorityLaw t

/-- R6, R40, R45, R58, R63: the idle clock stays 0 outside IDLE and DUE, the block reason NONE outside DUE, the port stop request absent
outside DUE and STOPPING, and a verify timer runs exactly in STOPPING and STARTING. -/
def Obligations.RecordLawKept : Prop := ∀ s t : State, Canonical s → RecordLaw s → step s = .next t → RecordLaw t

/-! ### What each command leaves alone -/

/-- The frame of the part: each piece of it may change only by the commands and events whose rules write it (R8, R18, R19, R25, R76, R80,
R88, R89, R93 to R95, R98, R103, R104, R123, R125, R126, R135, R138, R140, R144, R149 to R155, R158 to R162, R170). A changed mark stays
until LIST CHANGED reports it; the rows that `quiet` names leave the queue, the arrival count, the feeders, the groups and the
states of the records as they are; an urgent list only grows, and a LOST set, an exchange in flight and the poll order keep still,
but by the rows named. An event of the part touches nothing of the port, and nothing but a transaction or a hardware reset what MISO
carried. The clauses on `nextHoldMinute` (log entry 9) and on `finishing` (log entry 23) are about
the model's own fields, and the lists `miso`, `txd` and `de` are its form of the three pins (log entries 11 and 12). What a row writes of each record is said by its own statement
and by RecordConfigurationKept. -/
def Obligations.EachRowWritesItsOwn : Prop :=
  ∀ (i : Instr) (s t : State), exec i s = .next t → i ≠ .hardwareReset →
    (i ≠ .timeBaseSecond → t.timeBase = s.timeBase)
    ∧ (i ≠ .holdMinute → t.nextHoldMinute = s.nextHoldMinute)
    ∧ (writesClock i = false → t.clock = s.clock)
    ∧ (i ≠ .setDayMap → t.dayMap = s.dayMap)
    ∧ (writesDayTypes i = false → t.todayOverride = s.todayOverride ∧ t.yesterday = s.yesterday)
    ∧ (i ≠ .setWindow → t.windows = s.windows)
    ∧ (writesAuthority i = false → t.authority = s.authority)
    ∧ (i ≠ .setPlant → t.period = s.period ∧ t.inrushLimit = s.inrushLimit ∧ t.settleTime = s.settleTime)
    ∧ (i ≠ .activityPeriodEnd → t.periodEnd = s.periodEnd)
    ∧ (writesSlots i = false → t.slotOutcomes = s.slotOutcomes ∧ ∀ n, t.load n = none ↔ s.load n = none)
    ∧ (i ≠ .listChanged → i ≠ .resetControl → t.listCursor = s.listCursor)
    ∧ (writesHolds i = false → t.holds = s.holds)
    ∧ (i ≠ .defineGroup → i ≠ .removeGroup → ∀ g, (t.group g).map (·.margin) = (s.group g).map (·.margin))
    ∧ (writesPlans i = false → t.plans = s.plans)
    ∧ (i ≠ .setLine → ∀ l, (t.lineAt l).enabled = (s.lineAt l).enabled ∧ (t.lineAt l).divisor = (s.lineAt l).divisor
        ∧ (t.lineAt l).replyWindow = (s.lineAt l).replyWindow ∧ (t.lineAt l).lossCount = (s.lineAt l).lossCount)
    ∧ (writesCounters i = false → ∀ l, (t.lineAt l).silent = (s.lineAt l).silent
        ∧ (t.lineAt l).framing = (s.lineAt l).framing ∧ (t.lineAt l).check = (s.lineAt l).check
        ∧ (t.lineAt l).stray = (s.lineAt l).stray ∧ (t.lineAt l).overflow = (s.lineAt l).overflow)
    ∧ (∀ l, i ≠ .exchangeStart l →
        (((t.lineAt l).txd = (s.lineAt l).txd ∧ (t.lineAt l).de = (s.lineAt l).de)
          ∨ ((i = .setLine ∨ i = .resetControl) ∧ (t.lineAt l).txd = [true] ∧ (t.lineAt l).de = [false]))
        ∧ (i ≠ .setLine → i ≠ .resetControl →
          (t.lineAt l).cursor = (s.lineAt l).cursor ∧ (t.lineAt l).pass = (s.lineAt l).pass))
    ∧ (i ≠ .setAttentionMask → t.mask = s.mask)
    ∧ (writesOverrun i = false → t.overrun = s.overrun)
    ∧ (isTransaction i = false → t.miso = s.miso) ∧ (s.misoNow = none → t.misoNow = none)
    ∧ (isTransaction i = false → i ≠ .readAttention → i ≠ .resetControl → t.finishing = s.finishing)
    ∧ (isEvent i = true → t.executing = s.executing ∧ t.answer = s.answer)
    ∧ (i ≠ .listChanged → ∀ n ∈ s.marks, n < 240 → n ∈ t.marks)
    ∧ (Canonical s → quiet i = true → t.queue = s.queue ∧ t.arrivals = s.arrivals ∧ t.feeders = s.feeders
        ∧ (i ≠ .removeGroup → t.groups = s.groups) ∧ ∀ n, s.load n ≠ none → t.stateOf n = s.stateOf n)
    ∧ (∀ l, i ≠ .exchangeStart l → i ≠ .replyWindowExpiry l → (∀ samples, i ≠ .replyEnd l samples) → i ≠ .setLine →
        i ≠ .resetControl →
        (t.lineAt l).exchange = (s.lineAt l).exchange
          ∨ (writesSlots i = true ∧ (t.lineAt l).exchange = (s.lineAt l).exchange.map (fun e => { e with load := none })))
    ∧ (writesSlots i = false → i ≠ .resetControl → ∀ l, (t.lineAt l).lost = (s.lineAt l).lost
        ∧ (i ≠ .exchangeStart l → (s.lineAt l).urgent <+: (t.lineAt l).urgent))

/-- R9, R11, R14, R15, R21, R46, R63, R153: a record that lives through a command or an event keeps its line and its drop address; its
feeder, weight and tuning change only by TUNE LOAD, its links by LINK LOAD or RETIRE LOAD, its membership by PLAN LOAD or RETIRE
LOAD; its start count goes up by 1 where it has entered STARTING, which commands RUN, and nowhere else; and where its commanded
state or its start count has changed its address is on the urgent list of its line, unless the line is off or the list is full. -/
def Obligations.RecordConfigurationKept : Prop :=
  ∀ (i : Instr) (s t : State) (n : Nat) (r r' : LoadRecord), exec i s = .next t → i ≠ .hardwareReset →
    s.load n = some r → t.load n = some r' →
    r'.line = r.line ∧ r'.address = r.address
    ∧ (i ≠ .tuneLoad → r'.feeder = r.feeder ∧ r'.weight = r.weight ∧ r'.tuning = r.tuning)
    ∧ (i ≠ .linkLoad → i ≠ .retireLoad →
        r'.provides = r.provides ∧ r'.drawsA = r.drawsA ∧ r'.drawsB = r.drawsB)
    ∧ (i ≠ .planLoad → i ≠ .retireLoad → r'.membership = r.membership)
    ∧ (r.state ≠ .starting → r'.state = .starting → r'.commanded = .run ∧ r'.startCount = r.startCount + 1)
    ∧ (r.state = .starting ∨ r'.state ≠ .starting → r'.startCount = r.startCount)
    ∧ (i ≠ .resetControl → r'.commanded ≠ r.commanded ∨ r'.startCount ≠ r.startCount →
        (t.lineAt r.line).enabled = true →
        r.address ∈ (t.lineAt r.line).urgent ∨ 8 ≤ (t.lineAt r.line).urgent.length)

/-- R57, R62, R63, R115: a command of one load, or an event of one load, changes every other record by a hand-off at most, and creates and
removes no other. A release or an expiry of a port hold is one of the load that the hold names. -/
def Obligations.OtherRecordsTakeOnlyHandoffs : Prop :=
  ∀ (i : Instr) (s t : State) (n : Nat), Canonical s → exec i s = .next t →
    ((∃ c b rest, (i, c) ∈ loadCommandTable ∧ rest.length ≤ 37 ∧ s.Sent c (b :: rest) ∧ b.toNat = n)
      ∨ i = .minimumRunReached n ∨ i = .buttonHoldExpiry n ∨ i = .stopVerifyTimerExpiry n ∨ i = .startVerifyTimerExpiry n
      ∨ i = .restEnd n
      ∨ (∃ h x, Table.find s.holds h = some x ∧ x.load = n
          ∧ (i = .portHoldExpiry h ∨ (i = .releaseHold ∧ ∃ b : Byte, s.Sent 0x21 [b] ∧ b.toNat = h)))
      ∨ ∃ l e, (s.lineAt l).exchange = some e ∧ e.load = some n
          ∧ (i = .replyWindowExpiry l ∨ ∃ samples, i = .replyEnd l samples)) →
    ∀ m, m ≠ n → (s.load m = none → t.load m = none)
      ∧ ∀ r, s.load m = some r → ∃ r', t.load m = some r' ∧ HandedOn s.timeBase r r'
end

