-- ==== Sys2Proof/Laws/State.lean ====
section
/-! SUPPORT. One lemma for each field under each update of the state, so that no later proof unfolds an update. -/

namespace Sys2Proof.Machine

/-! ### `State.setLoad` -/

@[simp] theorem State.setLoad_timeBase (s : State) (n : Nat) (r : LoadRecord) : (s.setLoad n r).timeBase = s.timeBase := rfl
@[simp] theorem State.setLoad_nextHoldMinute (s : State) (n : Nat) (r : LoadRecord) : (s.setLoad n r).nextHoldMinute = s.nextHoldMinute := rfl
@[simp] theorem State.setLoad_clock (s : State) (n : Nat) (r : LoadRecord) : (s.setLoad n r).clock = s.clock := rfl
@[simp] theorem State.setLoad_dayMap (s : State) (n : Nat) (r : LoadRecord) : (s.setLoad n r).dayMap = s.dayMap := rfl
@[simp] theorem State.setLoad_todayOverride (s : State) (n : Nat) (r : LoadRecord) : (s.setLoad n r).todayOverride = s.todayOverride := rfl
@[simp] theorem State.setLoad_yesterday (s : State) (n : Nat) (r : LoadRecord) : (s.setLoad n r).yesterday = s.yesterday := rfl
@[simp] theorem State.setLoad_windows (s : State) (n : Nat) (r : LoadRecord) : (s.setLoad n r).windows = s.windows := rfl
@[simp] theorem State.setLoad_authority (s : State) (n : Nat) (r : LoadRecord) : (s.setLoad n r).authority = s.authority := rfl
@[simp] theorem State.setLoad_period (s : State) (n : Nat) (r : LoadRecord) : (s.setLoad n r).period = s.period := rfl
@[simp] theorem State.setLoad_periodEnd (s : State) (n : Nat) (r : LoadRecord) : (s.setLoad n r).periodEnd = s.periodEnd := rfl
@[simp] theorem State.setLoad_loads (s : State) (n : Nat) (r : LoadRecord) : (s.setLoad n r).loads = Table.put s.loads n r := rfl
@[simp] theorem State.setLoad_marks (s : State) (n : Nat) (r : LoadRecord) : (s.setLoad n r).marks = s.marks := rfl
@[simp] theorem State.setLoad_slotOutcomes (s : State) (n : Nat) (r : LoadRecord) : (s.setLoad n r).slotOutcomes = s.slotOutcomes := rfl
@[simp] theorem State.setLoad_listCursor (s : State) (n : Nat) (r : LoadRecord) : (s.setLoad n r).listCursor = s.listCursor := rfl
@[simp] theorem State.setLoad_holds (s : State) (n : Nat) (r : LoadRecord) : (s.setLoad n r).holds = s.holds := rfl
@[simp] theorem State.setLoad_groups (s : State) (n : Nat) (r : LoadRecord) : (s.setLoad n r).groups = s.groups := rfl
@[simp] theorem State.setLoad_queue (s : State) (n : Nat) (r : LoadRecord) : (s.setLoad n r).queue = s.queue := rfl
@[simp] theorem State.setLoad_arrivals (s : State) (n : Nat) (r : LoadRecord) : (s.setLoad n r).arrivals = s.arrivals := rfl
@[simp] theorem State.setLoad_feeders (s : State) (n : Nat) (r : LoadRecord) : (s.setLoad n r).feeders = s.feeders := rfl
@[simp] theorem State.setLoad_inrushLimit (s : State) (n : Nat) (r : LoadRecord) : (s.setLoad n r).inrushLimit = s.inrushLimit := rfl
@[simp] theorem State.setLoad_settleTime (s : State) (n : Nat) (r : LoadRecord) : (s.setLoad n r).settleTime = s.settleTime := rfl
@[simp] theorem State.setLoad_plans (s : State) (n : Nat) (r : LoadRecord) : (s.setLoad n r).plans = s.plans := rfl
@[simp] theorem State.setLoad_lines (s : State) (n : Nat) (r : LoadRecord) : (s.setLoad n r).lines = s.lines := rfl
@[simp] theorem State.setLoad_executing (s : State) (n : Nat) (r : LoadRecord) : (s.setLoad n r).executing = s.executing := rfl
@[simp] theorem State.setLoad_answer (s : State) (n : Nat) (r : LoadRecord) : (s.setLoad n r).answer = s.answer := rfl
@[simp] theorem State.setLoad_finishing (s : State) (n : Nat) (r : LoadRecord) : (s.setLoad n r).finishing = s.finishing := rfl
@[simp] theorem State.setLoad_overrun (s : State) (n : Nat) (r : LoadRecord) : (s.setLoad n r).overrun = s.overrun := rfl
@[simp] theorem State.setLoad_mask (s : State) (n : Nat) (r : LoadRecord) : (s.setLoad n r).mask = s.mask := rfl
@[simp] theorem State.setLoad_miso (s : State) (n : Nat) (r : LoadRecord) : (s.setLoad n r).miso = s.miso := rfl
@[simp] theorem State.setLoad_choices (s : State) (n : Nat) (r : LoadRecord) : (s.setLoad n r).choices = s.choices := rfl
@[simp] theorem State.setLoad_pending (s : State) (n : Nat) (r : LoadRecord) : (s.setLoad n r).pending = s.pending := rfl

/-! ### `State.mark` -/

@[simp] theorem State.mark_timeBase (s : State) (n : Nat) : (s.mark n).timeBase = s.timeBase := rfl
@[simp] theorem State.mark_nextHoldMinute (s : State) (n : Nat) : (s.mark n).nextHoldMinute = s.nextHoldMinute := rfl
@[simp] theorem State.mark_clock (s : State) (n : Nat) : (s.mark n).clock = s.clock := rfl
@[simp] theorem State.mark_dayMap (s : State) (n : Nat) : (s.mark n).dayMap = s.dayMap := rfl
@[simp] theorem State.mark_todayOverride (s : State) (n : Nat) : (s.mark n).todayOverride = s.todayOverride := rfl
@[simp] theorem State.mark_yesterday (s : State) (n : Nat) : (s.mark n).yesterday = s.yesterday := rfl
@[simp] theorem State.mark_windows (s : State) (n : Nat) : (s.mark n).windows = s.windows := rfl
@[simp] theorem State.mark_authority (s : State) (n : Nat) : (s.mark n).authority = s.authority := rfl
@[simp] theorem State.mark_period (s : State) (n : Nat) : (s.mark n).period = s.period := rfl
@[simp] theorem State.mark_periodEnd (s : State) (n : Nat) : (s.mark n).periodEnd = s.periodEnd := rfl
@[simp] theorem State.mark_loads (s : State) (n : Nat) : (s.mark n).loads = s.loads := rfl
@[simp] theorem State.mark_marks (s : State) (n : Nat) : (s.mark n).marks = NatSet.add s.marks n := rfl
@[simp] theorem State.mark_slotOutcomes (s : State) (n : Nat) : (s.mark n).slotOutcomes = s.slotOutcomes := rfl
@[simp] theorem State.mark_listCursor (s : State) (n : Nat) : (s.mark n).listCursor = s.listCursor := rfl
@[simp] theorem State.mark_holds (s : State) (n : Nat) : (s.mark n).holds = s.holds := rfl
@[simp] theorem State.mark_groups (s : State) (n : Nat) : (s.mark n).groups = s.groups := rfl
@[simp] theorem State.mark_queue (s : State) (n : Nat) : (s.mark n).queue = s.queue := rfl
@[simp] theorem State.mark_arrivals (s : State) (n : Nat) : (s.mark n).arrivals = s.arrivals := rfl
@[simp] theorem State.mark_feeders (s : State) (n : Nat) : (s.mark n).feeders = s.feeders := rfl
@[simp] theorem State.mark_inrushLimit (s : State) (n : Nat) : (s.mark n).inrushLimit = s.inrushLimit := rfl
@[simp] theorem State.mark_settleTime (s : State) (n : Nat) : (s.mark n).settleTime = s.settleTime := rfl
@[simp] theorem State.mark_plans (s : State) (n : Nat) : (s.mark n).plans = s.plans := rfl
@[simp] theorem State.mark_lines (s : State) (n : Nat) : (s.mark n).lines = s.lines := rfl
@[simp] theorem State.mark_executing (s : State) (n : Nat) : (s.mark n).executing = s.executing := rfl
@[simp] theorem State.mark_answer (s : State) (n : Nat) : (s.mark n).answer = s.answer := rfl
@[simp] theorem State.mark_finishing (s : State) (n : Nat) : (s.mark n).finishing = s.finishing := rfl
@[simp] theorem State.mark_overrun (s : State) (n : Nat) : (s.mark n).overrun = s.overrun := rfl
@[simp] theorem State.mark_mask (s : State) (n : Nat) : (s.mark n).mask = s.mask := rfl
@[simp] theorem State.mark_miso (s : State) (n : Nat) : (s.mark n).miso = s.miso := rfl
@[simp] theorem State.mark_choices (s : State) (n : Nat) : (s.mark n).choices = s.choices := rfl
@[simp] theorem State.mark_pending (s : State) (n : Nat) : (s.mark n).pending = s.pending := rfl

/-! ### `State.setLine` -/

@[simp] theorem State.setLine_timeBase (s : State) (l : Fin 4) (x : Line) : (s.setLine l x).timeBase = s.timeBase := rfl
@[simp] theorem State.setLine_nextHoldMinute (s : State) (l : Fin 4) (x : Line) : (s.setLine l x).nextHoldMinute = s.nextHoldMinute := rfl
@[simp] theorem State.setLine_clock (s : State) (l : Fin 4) (x : Line) : (s.setLine l x).clock = s.clock := rfl
@[simp] theorem State.setLine_dayMap (s : State) (l : Fin 4) (x : Line) : (s.setLine l x).dayMap = s.dayMap := rfl
@[simp] theorem State.setLine_todayOverride (s : State) (l : Fin 4) (x : Line) : (s.setLine l x).todayOverride = s.todayOverride := rfl
@[simp] theorem State.setLine_yesterday (s : State) (l : Fin 4) (x : Line) : (s.setLine l x).yesterday = s.yesterday := rfl
@[simp] theorem State.setLine_windows (s : State) (l : Fin 4) (x : Line) : (s.setLine l x).windows = s.windows := rfl
@[simp] theorem State.setLine_authority (s : State) (l : Fin 4) (x : Line) : (s.setLine l x).authority = s.authority := rfl
@[simp] theorem State.setLine_period (s : State) (l : Fin 4) (x : Line) : (s.setLine l x).period = s.period := rfl
@[simp] theorem State.setLine_periodEnd (s : State) (l : Fin 4) (x : Line) : (s.setLine l x).periodEnd = s.periodEnd := rfl
@[simp] theorem State.setLine_loads (s : State) (l : Fin 4) (x : Line) : (s.setLine l x).loads = s.loads := rfl
@[simp] theorem State.setLine_marks (s : State) (l : Fin 4) (x : Line) : (s.setLine l x).marks = s.marks := rfl
@[simp] theorem State.setLine_slotOutcomes (s : State) (l : Fin 4) (x : Line) : (s.setLine l x).slotOutcomes = s.slotOutcomes := rfl
@[simp] theorem State.setLine_listCursor (s : State) (l : Fin 4) (x : Line) : (s.setLine l x).listCursor = s.listCursor := rfl
@[simp] theorem State.setLine_holds (s : State) (l : Fin 4) (x : Line) : (s.setLine l x).holds = s.holds := rfl
@[simp] theorem State.setLine_groups (s : State) (l : Fin 4) (x : Line) : (s.setLine l x).groups = s.groups := rfl
@[simp] theorem State.setLine_queue (s : State) (l : Fin 4) (x : Line) : (s.setLine l x).queue = s.queue := rfl
@[simp] theorem State.setLine_arrivals (s : State) (l : Fin 4) (x : Line) : (s.setLine l x).arrivals = s.arrivals := rfl
@[simp] theorem State.setLine_feeders (s : State) (l : Fin 4) (x : Line) : (s.setLine l x).feeders = s.feeders := rfl
@[simp] theorem State.setLine_inrushLimit (s : State) (l : Fin 4) (x : Line) : (s.setLine l x).inrushLimit = s.inrushLimit := rfl
@[simp] theorem State.setLine_settleTime (s : State) (l : Fin 4) (x : Line) : (s.setLine l x).settleTime = s.settleTime := rfl
@[simp] theorem State.setLine_plans (s : State) (l : Fin 4) (x : Line) : (s.setLine l x).plans = s.plans := rfl
@[simp] theorem State.setLine_lines (s : State) (l : Fin 4) (x : Line) : (s.setLine l x).lines = s.lines.set l x := rfl
@[simp] theorem State.setLine_executing (s : State) (l : Fin 4) (x : Line) : (s.setLine l x).executing = s.executing := rfl
@[simp] theorem State.setLine_answer (s : State) (l : Fin 4) (x : Line) : (s.setLine l x).answer = s.answer := rfl
@[simp] theorem State.setLine_finishing (s : State) (l : Fin 4) (x : Line) : (s.setLine l x).finishing = s.finishing := rfl
@[simp] theorem State.setLine_overrun (s : State) (l : Fin 4) (x : Line) : (s.setLine l x).overrun = s.overrun := rfl
@[simp] theorem State.setLine_mask (s : State) (l : Fin 4) (x : Line) : (s.setLine l x).mask = s.mask := rfl
@[simp] theorem State.setLine_miso (s : State) (l : Fin 4) (x : Line) : (s.setLine l x).miso = s.miso := rfl
@[simp] theorem State.setLine_choices (s : State) (l : Fin 4) (x : Line) : (s.setLine l x).choices = s.choices := rfl
@[simp] theorem State.setLine_pending (s : State) (l : Fin 4) (x : Line) : (s.setLine l x).pending = s.pending := rfl

/-! ### `State.dropEntry` -/

@[simp] theorem State.dropEntry_timeBase (s : State) (n : Nat) : (s.dropEntry n).timeBase = s.timeBase := rfl
@[simp] theorem State.dropEntry_nextHoldMinute (s : State) (n : Nat) : (s.dropEntry n).nextHoldMinute = s.nextHoldMinute := rfl
@[simp] theorem State.dropEntry_clock (s : State) (n : Nat) : (s.dropEntry n).clock = s.clock := rfl
@[simp] theorem State.dropEntry_dayMap (s : State) (n : Nat) : (s.dropEntry n).dayMap = s.dayMap := rfl
@[simp] theorem State.dropEntry_todayOverride (s : State) (n : Nat) : (s.dropEntry n).todayOverride = s.todayOverride := rfl
@[simp] theorem State.dropEntry_yesterday (s : State) (n : Nat) : (s.dropEntry n).yesterday = s.yesterday := rfl
@[simp] theorem State.dropEntry_windows (s : State) (n : Nat) : (s.dropEntry n).windows = s.windows := rfl
@[simp] theorem State.dropEntry_authority (s : State) (n : Nat) : (s.dropEntry n).authority = s.authority := rfl
@[simp] theorem State.dropEntry_period (s : State) (n : Nat) : (s.dropEntry n).period = s.period := rfl
@[simp] theorem State.dropEntry_periodEnd (s : State) (n : Nat) : (s.dropEntry n).periodEnd = s.periodEnd := rfl
@[simp] theorem State.dropEntry_loads (s : State) (n : Nat) : (s.dropEntry n).loads = s.loads := rfl
@[simp] theorem State.dropEntry_marks (s : State) (n : Nat) : (s.dropEntry n).marks = s.marks := rfl
@[simp] theorem State.dropEntry_slotOutcomes (s : State) (n : Nat) : (s.dropEntry n).slotOutcomes = s.slotOutcomes := rfl
@[simp] theorem State.dropEntry_listCursor (s : State) (n : Nat) : (s.dropEntry n).listCursor = s.listCursor := rfl
@[simp] theorem State.dropEntry_holds (s : State) (n : Nat) : (s.dropEntry n).holds = s.holds := rfl
@[simp] theorem State.dropEntry_groups (s : State) (n : Nat) : (s.dropEntry n).groups = s.groups := rfl
@[simp] theorem State.dropEntry_queue (s : State) (n : Nat) : (s.dropEntry n).queue = s.queue.filter (fun e => e.load != n) := rfl
@[simp] theorem State.dropEntry_arrivals (s : State) (n : Nat) : (s.dropEntry n).arrivals = s.arrivals := rfl
@[simp] theorem State.dropEntry_feeders (s : State) (n : Nat) : (s.dropEntry n).feeders = s.feeders := rfl
@[simp] theorem State.dropEntry_inrushLimit (s : State) (n : Nat) : (s.dropEntry n).inrushLimit = s.inrushLimit := rfl
@[simp] theorem State.dropEntry_settleTime (s : State) (n : Nat) : (s.dropEntry n).settleTime = s.settleTime := rfl
@[simp] theorem State.dropEntry_plans (s : State) (n : Nat) : (s.dropEntry n).plans = s.plans := rfl
@[simp] theorem State.dropEntry_lines (s : State) (n : Nat) : (s.dropEntry n).lines = s.lines := rfl
@[simp] theorem State.dropEntry_executing (s : State) (n : Nat) : (s.dropEntry n).executing = s.executing := rfl
@[simp] theorem State.dropEntry_answer (s : State) (n : Nat) : (s.dropEntry n).answer = s.answer := rfl
@[simp] theorem State.dropEntry_finishing (s : State) (n : Nat) : (s.dropEntry n).finishing = s.finishing := rfl
@[simp] theorem State.dropEntry_overrun (s : State) (n : Nat) : (s.dropEntry n).overrun = s.overrun := rfl
@[simp] theorem State.dropEntry_mask (s : State) (n : Nat) : (s.dropEntry n).mask = s.mask := rfl
@[simp] theorem State.dropEntry_miso (s : State) (n : Nat) : (s.dropEntry n).miso = s.miso := rfl
@[simp] theorem State.dropEntry_choices (s : State) (n : Nat) : (s.dropEntry n).choices = s.choices := rfl
@[simp] theorem State.dropEntry_pending (s : State) (n : Nat) : (s.dropEntry n).pending = s.pending := rfl

/-! ### `State.settleFeeder` -/

@[simp] theorem State.settleFeeder_timeBase (s : State) (f : Fin 8) : (s.settleFeeder f).timeBase = s.timeBase := rfl
@[simp] theorem State.settleFeeder_nextHoldMinute (s : State) (f : Fin 8) : (s.settleFeeder f).nextHoldMinute = s.nextHoldMinute := rfl
@[simp] theorem State.settleFeeder_clock (s : State) (f : Fin 8) : (s.settleFeeder f).clock = s.clock := rfl
@[simp] theorem State.settleFeeder_dayMap (s : State) (f : Fin 8) : (s.settleFeeder f).dayMap = s.dayMap := rfl
@[simp] theorem State.settleFeeder_todayOverride (s : State) (f : Fin 8) : (s.settleFeeder f).todayOverride = s.todayOverride := rfl
@[simp] theorem State.settleFeeder_yesterday (s : State) (f : Fin 8) : (s.settleFeeder f).yesterday = s.yesterday := rfl
@[simp] theorem State.settleFeeder_windows (s : State) (f : Fin 8) : (s.settleFeeder f).windows = s.windows := rfl
@[simp] theorem State.settleFeeder_authority (s : State) (f : Fin 8) : (s.settleFeeder f).authority = s.authority := rfl
@[simp] theorem State.settleFeeder_period (s : State) (f : Fin 8) : (s.settleFeeder f).period = s.period := rfl
@[simp] theorem State.settleFeeder_periodEnd (s : State) (f : Fin 8) : (s.settleFeeder f).periodEnd = s.periodEnd := rfl
@[simp] theorem State.settleFeeder_loads (s : State) (f : Fin 8) : (s.settleFeeder f).loads = s.loads := rfl
@[simp] theorem State.settleFeeder_marks (s : State) (f : Fin 8) : (s.settleFeeder f).marks = s.marks := rfl
@[simp] theorem State.settleFeeder_slotOutcomes (s : State) (f : Fin 8) : (s.settleFeeder f).slotOutcomes = s.slotOutcomes := rfl
@[simp] theorem State.settleFeeder_listCursor (s : State) (f : Fin 8) : (s.settleFeeder f).listCursor = s.listCursor := rfl
@[simp] theorem State.settleFeeder_holds (s : State) (f : Fin 8) : (s.settleFeeder f).holds = s.holds := rfl
@[simp] theorem State.settleFeeder_groups (s : State) (f : Fin 8) : (s.settleFeeder f).groups = s.groups := rfl
@[simp] theorem State.settleFeeder_queue (s : State) (f : Fin 8) : (s.settleFeeder f).queue = s.queue := rfl
@[simp] theorem State.settleFeeder_arrivals (s : State) (f : Fin 8) : (s.settleFeeder f).arrivals = s.arrivals := rfl
@[simp] theorem State.settleFeeder_feeders (s : State) (f : Fin 8) : (s.settleFeeder f).feeders = s.feeders.set f (if s.settleTime = 0 then .free else .settling (s.timeBase + s.settleTime)) := rfl
@[simp] theorem State.settleFeeder_inrushLimit (s : State) (f : Fin 8) : (s.settleFeeder f).inrushLimit = s.inrushLimit := rfl
@[simp] theorem State.settleFeeder_settleTime (s : State) (f : Fin 8) : (s.settleFeeder f).settleTime = s.settleTime := rfl
@[simp] theorem State.settleFeeder_plans (s : State) (f : Fin 8) : (s.settleFeeder f).plans = s.plans := rfl
@[simp] theorem State.settleFeeder_lines (s : State) (f : Fin 8) : (s.settleFeeder f).lines = s.lines := rfl
@[simp] theorem State.settleFeeder_executing (s : State) (f : Fin 8) : (s.settleFeeder f).executing = s.executing := rfl
@[simp] theorem State.settleFeeder_answer (s : State) (f : Fin 8) : (s.settleFeeder f).answer = s.answer := rfl
@[simp] theorem State.settleFeeder_finishing (s : State) (f : Fin 8) : (s.settleFeeder f).finishing = s.finishing := rfl
@[simp] theorem State.settleFeeder_overrun (s : State) (f : Fin 8) : (s.settleFeeder f).overrun = s.overrun := rfl
@[simp] theorem State.settleFeeder_mask (s : State) (f : Fin 8) : (s.settleFeeder f).mask = s.mask := rfl
@[simp] theorem State.settleFeeder_miso (s : State) (f : Fin 8) : (s.settleFeeder f).miso = s.miso := rfl
@[simp] theorem State.settleFeeder_choices (s : State) (f : Fin 8) : (s.settleFeeder f).choices = s.choices := rfl
@[simp] theorem State.settleFeeder_pending (s : State) (f : Fin 8) : (s.settleFeeder f).pending = s.pending := rfl

/-! ### `State.occupyFeeder` -/

@[simp] theorem State.occupyFeeder_timeBase (s : State) (f : Fin 8) (n : Nat) : (s.occupyFeeder f n).timeBase = s.timeBase := rfl
@[simp] theorem State.occupyFeeder_nextHoldMinute (s : State) (f : Fin 8) (n : Nat) : (s.occupyFeeder f n).nextHoldMinute = s.nextHoldMinute := rfl
@[simp] theorem State.occupyFeeder_clock (s : State) (f : Fin 8) (n : Nat) : (s.occupyFeeder f n).clock = s.clock := rfl
@[simp] theorem State.occupyFeeder_dayMap (s : State) (f : Fin 8) (n : Nat) : (s.occupyFeeder f n).dayMap = s.dayMap := rfl
@[simp] theorem State.occupyFeeder_todayOverride (s : State) (f : Fin 8) (n : Nat) : (s.occupyFeeder f n).todayOverride = s.todayOverride := rfl
@[simp] theorem State.occupyFeeder_yesterday (s : State) (f : Fin 8) (n : Nat) : (s.occupyFeeder f n).yesterday = s.yesterday := rfl
@[simp] theorem State.occupyFeeder_windows (s : State) (f : Fin 8) (n : Nat) : (s.occupyFeeder f n).windows = s.windows := rfl
@[simp] theorem State.occupyFeeder_authority (s : State) (f : Fin 8) (n : Nat) : (s.occupyFeeder f n).authority = s.authority := rfl
@[simp] theorem State.occupyFeeder_period (s : State) (f : Fin 8) (n : Nat) : (s.occupyFeeder f n).period = s.period := rfl
@[simp] theorem State.occupyFeeder_periodEnd (s : State) (f : Fin 8) (n : Nat) : (s.occupyFeeder f n).periodEnd = s.periodEnd := rfl
@[simp] theorem State.occupyFeeder_loads (s : State) (f : Fin 8) (n : Nat) : (s.occupyFeeder f n).loads = s.loads := rfl
@[simp] theorem State.occupyFeeder_marks (s : State) (f : Fin 8) (n : Nat) : (s.occupyFeeder f n).marks = s.marks := rfl
@[simp] theorem State.occupyFeeder_slotOutcomes (s : State) (f : Fin 8) (n : Nat) : (s.occupyFeeder f n).slotOutcomes = s.slotOutcomes := rfl
@[simp] theorem State.occupyFeeder_listCursor (s : State) (f : Fin 8) (n : Nat) : (s.occupyFeeder f n).listCursor = s.listCursor := rfl
@[simp] theorem State.occupyFeeder_holds (s : State) (f : Fin 8) (n : Nat) : (s.occupyFeeder f n).holds = s.holds := rfl
@[simp] theorem State.occupyFeeder_groups (s : State) (f : Fin 8) (n : Nat) : (s.occupyFeeder f n).groups = s.groups := rfl
@[simp] theorem State.occupyFeeder_queue (s : State) (f : Fin 8) (n : Nat) : (s.occupyFeeder f n).queue = s.queue := rfl
@[simp] theorem State.occupyFeeder_arrivals (s : State) (f : Fin 8) (n : Nat) : (s.occupyFeeder f n).arrivals = s.arrivals := rfl
@[simp] theorem State.occupyFeeder_feeders (s : State) (f : Fin 8) (n : Nat) : (s.occupyFeeder f n).feeders = s.feeders.set f (.starting n) := rfl
@[simp] theorem State.occupyFeeder_inrushLimit (s : State) (f : Fin 8) (n : Nat) : (s.occupyFeeder f n).inrushLimit = s.inrushLimit := rfl
@[simp] theorem State.occupyFeeder_settleTime (s : State) (f : Fin 8) (n : Nat) : (s.occupyFeeder f n).settleTime = s.settleTime := rfl
@[simp] theorem State.occupyFeeder_plans (s : State) (f : Fin 8) (n : Nat) : (s.occupyFeeder f n).plans = s.plans := rfl
@[simp] theorem State.occupyFeeder_lines (s : State) (f : Fin 8) (n : Nat) : (s.occupyFeeder f n).lines = s.lines := rfl
@[simp] theorem State.occupyFeeder_executing (s : State) (f : Fin 8) (n : Nat) : (s.occupyFeeder f n).executing = s.executing := rfl
@[simp] theorem State.occupyFeeder_answer (s : State) (f : Fin 8) (n : Nat) : (s.occupyFeeder f n).answer = s.answer := rfl
@[simp] theorem State.occupyFeeder_finishing (s : State) (f : Fin 8) (n : Nat) : (s.occupyFeeder f n).finishing = s.finishing := rfl
@[simp] theorem State.occupyFeeder_overrun (s : State) (f : Fin 8) (n : Nat) : (s.occupyFeeder f n).overrun = s.overrun := rfl
@[simp] theorem State.occupyFeeder_mask (s : State) (f : Fin 8) (n : Nat) : (s.occupyFeeder f n).mask = s.mask := rfl
@[simp] theorem State.occupyFeeder_miso (s : State) (f : Fin 8) (n : Nat) : (s.occupyFeeder f n).miso = s.miso := rfl
@[simp] theorem State.occupyFeeder_choices (s : State) (f : Fin 8) (n : Nat) : (s.occupyFeeder f n).choices = s.choices := rfl
@[simp] theorem State.occupyFeeder_pending (s : State) (f : Fin 8) (n : Nat) : (s.occupyFeeder f n).pending = s.pending := rfl

/-! ### `State.groupsFollow` -/

@[simp] theorem State.groupsFollow_timeBase (s : State) (n : Nat) (st : LoadState) : (s.groupsFollow n st).timeBase = s.timeBase := rfl
@[simp] theorem State.groupsFollow_nextHoldMinute (s : State) (n : Nat) (st : LoadState) : (s.groupsFollow n st).nextHoldMinute = s.nextHoldMinute := rfl
@[simp] theorem State.groupsFollow_clock (s : State) (n : Nat) (st : LoadState) : (s.groupsFollow n st).clock = s.clock := rfl
@[simp] theorem State.groupsFollow_dayMap (s : State) (n : Nat) (st : LoadState) : (s.groupsFollow n st).dayMap = s.dayMap := rfl
@[simp] theorem State.groupsFollow_todayOverride (s : State) (n : Nat) (st : LoadState) : (s.groupsFollow n st).todayOverride = s.todayOverride := rfl
@[simp] theorem State.groupsFollow_yesterday (s : State) (n : Nat) (st : LoadState) : (s.groupsFollow n st).yesterday = s.yesterday := rfl
@[simp] theorem State.groupsFollow_windows (s : State) (n : Nat) (st : LoadState) : (s.groupsFollow n st).windows = s.windows := rfl
@[simp] theorem State.groupsFollow_authority (s : State) (n : Nat) (st : LoadState) : (s.groupsFollow n st).authority = s.authority := rfl
@[simp] theorem State.groupsFollow_period (s : State) (n : Nat) (st : LoadState) : (s.groupsFollow n st).period = s.period := rfl
@[simp] theorem State.groupsFollow_periodEnd (s : State) (n : Nat) (st : LoadState) : (s.groupsFollow n st).periodEnd = s.periodEnd := rfl
@[simp] theorem State.groupsFollow_loads (s : State) (n : Nat) (st : LoadState) : (s.groupsFollow n st).loads = s.loads := rfl
@[simp] theorem State.groupsFollow_marks (s : State) (n : Nat) (st : LoadState) : (s.groupsFollow n st).marks = s.marks := rfl
@[simp] theorem State.groupsFollow_slotOutcomes (s : State) (n : Nat) (st : LoadState) : (s.groupsFollow n st).slotOutcomes = s.slotOutcomes := rfl
@[simp] theorem State.groupsFollow_listCursor (s : State) (n : Nat) (st : LoadState) : (s.groupsFollow n st).listCursor = s.listCursor := rfl
@[simp] theorem State.groupsFollow_holds (s : State) (n : Nat) (st : LoadState) : (s.groupsFollow n st).holds = s.holds := rfl
@[simp] theorem State.groupsFollow_groups (s : State) (n : Nat) (st : LoadState) : (s.groupsFollow n st).groups = Table.mapEach (fun _ x => x.follow n st) s.groups := rfl
@[simp] theorem State.groupsFollow_queue (s : State) (n : Nat) (st : LoadState) : (s.groupsFollow n st).queue = s.queue := rfl
@[simp] theorem State.groupsFollow_arrivals (s : State) (n : Nat) (st : LoadState) : (s.groupsFollow n st).arrivals = s.arrivals := rfl
@[simp] theorem State.groupsFollow_feeders (s : State) (n : Nat) (st : LoadState) : (s.groupsFollow n st).feeders = s.feeders := rfl
@[simp] theorem State.groupsFollow_inrushLimit (s : State) (n : Nat) (st : LoadState) : (s.groupsFollow n st).inrushLimit = s.inrushLimit := rfl
@[simp] theorem State.groupsFollow_settleTime (s : State) (n : Nat) (st : LoadState) : (s.groupsFollow n st).settleTime = s.settleTime := rfl
@[simp] theorem State.groupsFollow_plans (s : State) (n : Nat) (st : LoadState) : (s.groupsFollow n st).plans = s.plans := rfl
@[simp] theorem State.groupsFollow_lines (s : State) (n : Nat) (st : LoadState) : (s.groupsFollow n st).lines = s.lines := rfl
@[simp] theorem State.groupsFollow_executing (s : State) (n : Nat) (st : LoadState) : (s.groupsFollow n st).executing = s.executing := rfl
@[simp] theorem State.groupsFollow_answer (s : State) (n : Nat) (st : LoadState) : (s.groupsFollow n st).answer = s.answer := rfl
@[simp] theorem State.groupsFollow_finishing (s : State) (n : Nat) (st : LoadState) : (s.groupsFollow n st).finishing = s.finishing := rfl
@[simp] theorem State.groupsFollow_overrun (s : State) (n : Nat) (st : LoadState) : (s.groupsFollow n st).overrun = s.overrun := rfl
@[simp] theorem State.groupsFollow_mask (s : State) (n : Nat) (st : LoadState) : (s.groupsFollow n st).mask = s.mask := rfl
@[simp] theorem State.groupsFollow_miso (s : State) (n : Nat) (st : LoadState) : (s.groupsFollow n st).miso = s.miso := rfl
@[simp] theorem State.groupsFollow_choices (s : State) (n : Nat) (st : LoadState) : (s.groupsFollow n st).choices = s.choices := rfl
@[simp] theorem State.groupsFollow_pending (s : State) (n : Nat) (st : LoadState) : (s.groupsFollow n st).pending = s.pending := rfl

/-! ### `State.forgetFailed` -/

@[simp] theorem State.forgetFailed_timeBase (s : State) (n : Nat) : (s.forgetFailed n).timeBase = s.timeBase := rfl
@[simp] theorem State.forgetFailed_nextHoldMinute (s : State) (n : Nat) : (s.forgetFailed n).nextHoldMinute = s.nextHoldMinute := rfl
@[simp] theorem State.forgetFailed_clock (s : State) (n : Nat) : (s.forgetFailed n).clock = s.clock := rfl
@[simp] theorem State.forgetFailed_dayMap (s : State) (n : Nat) : (s.forgetFailed n).dayMap = s.dayMap := rfl
@[simp] theorem State.forgetFailed_todayOverride (s : State) (n : Nat) : (s.forgetFailed n).todayOverride = s.todayOverride := rfl
@[simp] theorem State.forgetFailed_yesterday (s : State) (n : Nat) : (s.forgetFailed n).yesterday = s.yesterday := rfl
@[simp] theorem State.forgetFailed_windows (s : State) (n : Nat) : (s.forgetFailed n).windows = s.windows := rfl
@[simp] theorem State.forgetFailed_authority (s : State) (n : Nat) : (s.forgetFailed n).authority = s.authority := rfl
@[simp] theorem State.forgetFailed_period (s : State) (n : Nat) : (s.forgetFailed n).period = s.period := rfl
@[simp] theorem State.forgetFailed_periodEnd (s : State) (n : Nat) : (s.forgetFailed n).periodEnd = s.periodEnd := rfl
@[simp] theorem State.forgetFailed_loads (s : State) (n : Nat) : (s.forgetFailed n).loads = s.loads := rfl
@[simp] theorem State.forgetFailed_marks (s : State) (n : Nat) : (s.forgetFailed n).marks = s.marks := rfl
@[simp] theorem State.forgetFailed_slotOutcomes (s : State) (n : Nat) : (s.forgetFailed n).slotOutcomes = s.slotOutcomes := rfl
@[simp] theorem State.forgetFailed_listCursor (s : State) (n : Nat) : (s.forgetFailed n).listCursor = s.listCursor := rfl
@[simp] theorem State.forgetFailed_holds (s : State) (n : Nat) : (s.forgetFailed n).holds = s.holds := rfl
@[simp] theorem State.forgetFailed_groups (s : State) (n : Nat) : (s.forgetFailed n).groups = Table.mapEach (fun _ x => { x with failed := NatSet.remove x.failed n }) s.groups := rfl
@[simp] theorem State.forgetFailed_queue (s : State) (n : Nat) : (s.forgetFailed n).queue = s.queue := rfl
@[simp] theorem State.forgetFailed_arrivals (s : State) (n : Nat) : (s.forgetFailed n).arrivals = s.arrivals := rfl
@[simp] theorem State.forgetFailed_feeders (s : State) (n : Nat) : (s.forgetFailed n).feeders = s.feeders := rfl
@[simp] theorem State.forgetFailed_inrushLimit (s : State) (n : Nat) : (s.forgetFailed n).inrushLimit = s.inrushLimit := rfl
@[simp] theorem State.forgetFailed_settleTime (s : State) (n : Nat) : (s.forgetFailed n).settleTime = s.settleTime := rfl
@[simp] theorem State.forgetFailed_plans (s : State) (n : Nat) : (s.forgetFailed n).plans = s.plans := rfl
@[simp] theorem State.forgetFailed_lines (s : State) (n : Nat) : (s.forgetFailed n).lines = s.lines := rfl
@[simp] theorem State.forgetFailed_executing (s : State) (n : Nat) : (s.forgetFailed n).executing = s.executing := rfl
@[simp] theorem State.forgetFailed_answer (s : State) (n : Nat) : (s.forgetFailed n).answer = s.answer := rfl
@[simp] theorem State.forgetFailed_finishing (s : State) (n : Nat) : (s.forgetFailed n).finishing = s.finishing := rfl
@[simp] theorem State.forgetFailed_overrun (s : State) (n : Nat) : (s.forgetFailed n).overrun = s.overrun := rfl
@[simp] theorem State.forgetFailed_mask (s : State) (n : Nat) : (s.forgetFailed n).mask = s.mask := rfl
@[simp] theorem State.forgetFailed_miso (s : State) (n : Nat) : (s.forgetFailed n).miso = s.miso := rfl
@[simp] theorem State.forgetFailed_choices (s : State) (n : Nat) : (s.forgetFailed n).choices = s.choices := rfl
@[simp] theorem State.forgetFailed_pending (s : State) (n : Nat) : (s.forgetFailed n).pending = s.pending := rfl

/-! ### `State.setPlan` -/

@[simp] theorem State.setPlan_timeBase (s : State) (p : Nat) (x : WakePlan) : (s.setPlan p x).timeBase = s.timeBase := rfl
@[simp] theorem State.setPlan_nextHoldMinute (s : State) (p : Nat) (x : WakePlan) : (s.setPlan p x).nextHoldMinute = s.nextHoldMinute := rfl
@[simp] theorem State.setPlan_clock (s : State) (p : Nat) (x : WakePlan) : (s.setPlan p x).clock = s.clock := rfl
@[simp] theorem State.setPlan_dayMap (s : State) (p : Nat) (x : WakePlan) : (s.setPlan p x).dayMap = s.dayMap := rfl
@[simp] theorem State.setPlan_todayOverride (s : State) (p : Nat) (x : WakePlan) : (s.setPlan p x).todayOverride = s.todayOverride := rfl
@[simp] theorem State.setPlan_yesterday (s : State) (p : Nat) (x : WakePlan) : (s.setPlan p x).yesterday = s.yesterday := rfl
@[simp] theorem State.setPlan_windows (s : State) (p : Nat) (x : WakePlan) : (s.setPlan p x).windows = s.windows := rfl
@[simp] theorem State.setPlan_authority (s : State) (p : Nat) (x : WakePlan) : (s.setPlan p x).authority = s.authority := rfl
@[simp] theorem State.setPlan_period (s : State) (p : Nat) (x : WakePlan) : (s.setPlan p x).period = s.period := rfl
@[simp] theorem State.setPlan_periodEnd (s : State) (p : Nat) (x : WakePlan) : (s.setPlan p x).periodEnd = s.periodEnd := rfl
@[simp] theorem State.setPlan_loads (s : State) (p : Nat) (x : WakePlan) : (s.setPlan p x).loads = s.loads := rfl
@[simp] theorem State.setPlan_marks (s : State) (p : Nat) (x : WakePlan) : (s.setPlan p x).marks = s.marks := rfl
@[simp] theorem State.setPlan_slotOutcomes (s : State) (p : Nat) (x : WakePlan) : (s.setPlan p x).slotOutcomes = s.slotOutcomes := rfl
@[simp] theorem State.setPlan_listCursor (s : State) (p : Nat) (x : WakePlan) : (s.setPlan p x).listCursor = s.listCursor := rfl
@[simp] theorem State.setPlan_holds (s : State) (p : Nat) (x : WakePlan) : (s.setPlan p x).holds = s.holds := rfl
@[simp] theorem State.setPlan_groups (s : State) (p : Nat) (x : WakePlan) : (s.setPlan p x).groups = s.groups := rfl
@[simp] theorem State.setPlan_queue (s : State) (p : Nat) (x : WakePlan) : (s.setPlan p x).queue = s.queue := rfl
@[simp] theorem State.setPlan_arrivals (s : State) (p : Nat) (x : WakePlan) : (s.setPlan p x).arrivals = s.arrivals := rfl
@[simp] theorem State.setPlan_feeders (s : State) (p : Nat) (x : WakePlan) : (s.setPlan p x).feeders = s.feeders := rfl
@[simp] theorem State.setPlan_inrushLimit (s : State) (p : Nat) (x : WakePlan) : (s.setPlan p x).inrushLimit = s.inrushLimit := rfl
@[simp] theorem State.setPlan_settleTime (s : State) (p : Nat) (x : WakePlan) : (s.setPlan p x).settleTime = s.settleTime := rfl
@[simp] theorem State.setPlan_plans (s : State) (p : Nat) (x : WakePlan) : (s.setPlan p x).plans = Table.put s.plans p x := rfl
@[simp] theorem State.setPlan_lines (s : State) (p : Nat) (x : WakePlan) : (s.setPlan p x).lines = s.lines := rfl
@[simp] theorem State.setPlan_executing (s : State) (p : Nat) (x : WakePlan) : (s.setPlan p x).executing = s.executing := rfl
@[simp] theorem State.setPlan_answer (s : State) (p : Nat) (x : WakePlan) : (s.setPlan p x).answer = s.answer := rfl
@[simp] theorem State.setPlan_finishing (s : State) (p : Nat) (x : WakePlan) : (s.setPlan p x).finishing = s.finishing := rfl
@[simp] theorem State.setPlan_overrun (s : State) (p : Nat) (x : WakePlan) : (s.setPlan p x).overrun = s.overrun := rfl
@[simp] theorem State.setPlan_mask (s : State) (p : Nat) (x : WakePlan) : (s.setPlan p x).mask = s.mask := rfl
@[simp] theorem State.setPlan_miso (s : State) (p : Nat) (x : WakePlan) : (s.setPlan p x).miso = s.miso := rfl
@[simp] theorem State.setPlan_choices (s : State) (p : Nat) (x : WakePlan) : (s.setPlan p x).choices = s.choices := rfl
@[simp] theorem State.setPlan_pending (s : State) (p : Nat) (x : WakePlan) : (s.setPlan p x).pending = s.pending := rfl

/-! ### `State.setReason` -/

@[simp] theorem State.setReason_timeBase (s : State) (n : Nat) (w : WaitReason) : (s.setReason n w).timeBase = s.timeBase := rfl
@[simp] theorem State.setReason_nextHoldMinute (s : State) (n : Nat) (w : WaitReason) : (s.setReason n w).nextHoldMinute = s.nextHoldMinute := rfl
@[simp] theorem State.setReason_clock (s : State) (n : Nat) (w : WaitReason) : (s.setReason n w).clock = s.clock := rfl
@[simp] theorem State.setReason_dayMap (s : State) (n : Nat) (w : WaitReason) : (s.setReason n w).dayMap = s.dayMap := rfl
@[simp] theorem State.setReason_todayOverride (s : State) (n : Nat) (w : WaitReason) : (s.setReason n w).todayOverride = s.todayOverride := rfl
@[simp] theorem State.setReason_yesterday (s : State) (n : Nat) (w : WaitReason) : (s.setReason n w).yesterday = s.yesterday := rfl
@[simp] theorem State.setReason_windows (s : State) (n : Nat) (w : WaitReason) : (s.setReason n w).windows = s.windows := rfl
@[simp] theorem State.setReason_authority (s : State) (n : Nat) (w : WaitReason) : (s.setReason n w).authority = s.authority := rfl
@[simp] theorem State.setReason_period (s : State) (n : Nat) (w : WaitReason) : (s.setReason n w).period = s.period := rfl
@[simp] theorem State.setReason_periodEnd (s : State) (n : Nat) (w : WaitReason) : (s.setReason n w).periodEnd = s.periodEnd := rfl
@[simp] theorem State.setReason_loads (s : State) (n : Nat) (w : WaitReason) : (s.setReason n w).loads = s.loads := rfl
@[simp] theorem State.setReason_marks (s : State) (n : Nat) (w : WaitReason) : (s.setReason n w).marks = s.marks := rfl
@[simp] theorem State.setReason_slotOutcomes (s : State) (n : Nat) (w : WaitReason) : (s.setReason n w).slotOutcomes = s.slotOutcomes := rfl
@[simp] theorem State.setReason_listCursor (s : State) (n : Nat) (w : WaitReason) : (s.setReason n w).listCursor = s.listCursor := rfl
@[simp] theorem State.setReason_holds (s : State) (n : Nat) (w : WaitReason) : (s.setReason n w).holds = s.holds := rfl
@[simp] theorem State.setReason_groups (s : State) (n : Nat) (w : WaitReason) : (s.setReason n w).groups = s.groups := rfl
@[simp] theorem State.setReason_queue (s : State) (n : Nat) (w : WaitReason) : (s.setReason n w).queue = s.queue.map (fun e => if e.load = n then { e with reason := w } else e) := rfl
@[simp] theorem State.setReason_arrivals (s : State) (n : Nat) (w : WaitReason) : (s.setReason n w).arrivals = s.arrivals := rfl
@[simp] theorem State.setReason_feeders (s : State) (n : Nat) (w : WaitReason) : (s.setReason n w).feeders = s.feeders := rfl
@[simp] theorem State.setReason_inrushLimit (s : State) (n : Nat) (w : WaitReason) : (s.setReason n w).inrushLimit = s.inrushLimit := rfl
@[simp] theorem State.setReason_settleTime (s : State) (n : Nat) (w : WaitReason) : (s.setReason n w).settleTime = s.settleTime := rfl
@[simp] theorem State.setReason_plans (s : State) (n : Nat) (w : WaitReason) : (s.setReason n w).plans = s.plans := rfl
@[simp] theorem State.setReason_lines (s : State) (n : Nat) (w : WaitReason) : (s.setReason n w).lines = s.lines := rfl
@[simp] theorem State.setReason_executing (s : State) (n : Nat) (w : WaitReason) : (s.setReason n w).executing = s.executing := rfl
@[simp] theorem State.setReason_answer (s : State) (n : Nat) (w : WaitReason) : (s.setReason n w).answer = s.answer := rfl
@[simp] theorem State.setReason_finishing (s : State) (n : Nat) (w : WaitReason) : (s.setReason n w).finishing = s.finishing := rfl
@[simp] theorem State.setReason_overrun (s : State) (n : Nat) (w : WaitReason) : (s.setReason n w).overrun = s.overrun := rfl
@[simp] theorem State.setReason_mask (s : State) (n : Nat) (w : WaitReason) : (s.setReason n w).mask = s.mask := rfl
@[simp] theorem State.setReason_miso (s : State) (n : Nat) (w : WaitReason) : (s.setReason n w).miso = s.miso := rfl
@[simp] theorem State.setReason_choices (s : State) (n : Nat) (w : WaitReason) : (s.setReason n w).choices = s.choices := rfl
@[simp] theorem State.setReason_pending (s : State) (n : Nat) (w : WaitReason) : (s.setReason n w).pending = s.pending := rfl

/-! ### `State.recompute` -/

@[simp] theorem State.recompute_timeBase (s : State) : (s.recompute).timeBase = s.timeBase := rfl
@[simp] theorem State.recompute_nextHoldMinute (s : State) : (s.recompute).nextHoldMinute = s.nextHoldMinute := rfl
@[simp] theorem State.recompute_clock (s : State) : (s.recompute).clock = s.clock := rfl
@[simp] theorem State.recompute_dayMap (s : State) : (s.recompute).dayMap = s.dayMap := rfl
@[simp] theorem State.recompute_todayOverride (s : State) : (s.recompute).todayOverride = s.todayOverride := rfl
@[simp] theorem State.recompute_yesterday (s : State) : (s.recompute).yesterday = s.yesterday := rfl
@[simp] theorem State.recompute_windows (s : State) : (s.recompute).windows = s.windows := rfl
@[simp] theorem State.recompute_authority (s : State) : (s.recompute).authority = s.computedAuthority := rfl
@[simp] theorem State.recompute_period (s : State) : (s.recompute).period = s.period := rfl
@[simp] theorem State.recompute_periodEnd (s : State) : (s.recompute).periodEnd = s.periodEnd := rfl
@[simp] theorem State.recompute_loads (s : State) : (s.recompute).loads = s.loads := rfl
@[simp] theorem State.recompute_marks (s : State) : (s.recompute).marks = s.marks := rfl
@[simp] theorem State.recompute_slotOutcomes (s : State) : (s.recompute).slotOutcomes = s.slotOutcomes := rfl
@[simp] theorem State.recompute_listCursor (s : State) : (s.recompute).listCursor = s.listCursor := rfl
@[simp] theorem State.recompute_holds (s : State) : (s.recompute).holds = s.holds := rfl
@[simp] theorem State.recompute_groups (s : State) : (s.recompute).groups = s.groups := rfl
@[simp] theorem State.recompute_queue (s : State) : (s.recompute).queue = s.queue := rfl
@[simp] theorem State.recompute_arrivals (s : State) : (s.recompute).arrivals = s.arrivals := rfl
@[simp] theorem State.recompute_feeders (s : State) : (s.recompute).feeders = s.feeders := rfl
@[simp] theorem State.recompute_inrushLimit (s : State) : (s.recompute).inrushLimit = s.inrushLimit := rfl
@[simp] theorem State.recompute_settleTime (s : State) : (s.recompute).settleTime = s.settleTime := rfl
@[simp] theorem State.recompute_plans (s : State) : (s.recompute).plans = s.plans := rfl
@[simp] theorem State.recompute_lines (s : State) : (s.recompute).lines = s.lines := rfl
@[simp] theorem State.recompute_executing (s : State) : (s.recompute).executing = s.executing := rfl
@[simp] theorem State.recompute_answer (s : State) : (s.recompute).answer = s.answer := rfl
@[simp] theorem State.recompute_finishing (s : State) : (s.recompute).finishing = s.finishing := rfl
@[simp] theorem State.recompute_overrun (s : State) : (s.recompute).overrun = s.overrun := rfl
@[simp] theorem State.recompute_mask (s : State) : (s.recompute).mask = s.mask := rfl
@[simp] theorem State.recompute_miso (s : State) : (s.recompute).miso = s.miso := rfl
@[simp] theorem State.recompute_choices (s : State) : (s.recompute).choices = s.choices := rfl
@[simp] theorem State.recompute_pending (s : State) : (s.recompute).pending = s.pending := rfl

/-! ### `State.respond` -/

@[simp] theorem State.respond_timeBase (s : State) (c : Completion) (d : List Byte) : (s.respond c d).timeBase = s.timeBase := rfl
@[simp] theorem State.respond_nextHoldMinute (s : State) (c : Completion) (d : List Byte) : (s.respond c d).nextHoldMinute = s.nextHoldMinute := rfl
@[simp] theorem State.respond_clock (s : State) (c : Completion) (d : List Byte) : (s.respond c d).clock = s.clock := rfl
@[simp] theorem State.respond_dayMap (s : State) (c : Completion) (d : List Byte) : (s.respond c d).dayMap = s.dayMap := rfl
@[simp] theorem State.respond_todayOverride (s : State) (c : Completion) (d : List Byte) : (s.respond c d).todayOverride = s.todayOverride := rfl
@[simp] theorem State.respond_yesterday (s : State) (c : Completion) (d : List Byte) : (s.respond c d).yesterday = s.yesterday := rfl
@[simp] theorem State.respond_windows (s : State) (c : Completion) (d : List Byte) : (s.respond c d).windows = s.windows := rfl
@[simp] theorem State.respond_authority (s : State) (c : Completion) (d : List Byte) : (s.respond c d).authority = s.authority := rfl
@[simp] theorem State.respond_period (s : State) (c : Completion) (d : List Byte) : (s.respond c d).period = s.period := rfl
@[simp] theorem State.respond_periodEnd (s : State) (c : Completion) (d : List Byte) : (s.respond c d).periodEnd = s.periodEnd := rfl
@[simp] theorem State.respond_loads (s : State) (c : Completion) (d : List Byte) : (s.respond c d).loads = s.loads := rfl
@[simp] theorem State.respond_marks (s : State) (c : Completion) (d : List Byte) : (s.respond c d).marks = s.marks := rfl
@[simp] theorem State.respond_slotOutcomes (s : State) (c : Completion) (d : List Byte) : (s.respond c d).slotOutcomes = s.slotOutcomes := rfl
@[simp] theorem State.respond_listCursor (s : State) (c : Completion) (d : List Byte) : (s.respond c d).listCursor = s.listCursor := rfl
@[simp] theorem State.respond_holds (s : State) (c : Completion) (d : List Byte) : (s.respond c d).holds = s.holds := rfl
@[simp] theorem State.respond_groups (s : State) (c : Completion) (d : List Byte) : (s.respond c d).groups = s.groups := rfl
@[simp] theorem State.respond_queue (s : State) (c : Completion) (d : List Byte) : (s.respond c d).queue = s.queue := rfl
@[simp] theorem State.respond_arrivals (s : State) (c : Completion) (d : List Byte) : (s.respond c d).arrivals = s.arrivals := rfl
@[simp] theorem State.respond_feeders (s : State) (c : Completion) (d : List Byte) : (s.respond c d).feeders = s.feeders := rfl
@[simp] theorem State.respond_inrushLimit (s : State) (c : Completion) (d : List Byte) : (s.respond c d).inrushLimit = s.inrushLimit := rfl
@[simp] theorem State.respond_settleTime (s : State) (c : Completion) (d : List Byte) : (s.respond c d).settleTime = s.settleTime := rfl
@[simp] theorem State.respond_plans (s : State) (c : Completion) (d : List Byte) : (s.respond c d).plans = s.plans := rfl
@[simp] theorem State.respond_lines (s : State) (c : Completion) (d : List Byte) : (s.respond c d).lines = s.lines := rfl
@[simp] theorem State.respond_executing (s : State) (c : Completion) (d : List Byte) : (s.respond c d).executing = none := rfl
@[simp] theorem State.respond_answer (s : State) (c : Completion) (d : List Byte) : (s.respond c d).answer = some { code := c, data := d } := rfl
@[simp] theorem State.respond_finishing (s : State) (c : Completion) (d : List Byte) : (s.respond c d).finishing = s.finishing := rfl
@[simp] theorem State.respond_overrun (s : State) (c : Completion) (d : List Byte) : (s.respond c d).overrun = s.overrun := rfl
@[simp] theorem State.respond_mask (s : State) (c : Completion) (d : List Byte) : (s.respond c d).mask = s.mask := rfl
@[simp] theorem State.respond_miso (s : State) (c : Completion) (d : List Byte) : (s.respond c d).miso = s.miso := rfl
@[simp] theorem State.respond_choices (s : State) (c : Completion) (d : List Byte) : (s.respond c d).choices = s.choices := rfl
@[simp] theorem State.respond_pending (s : State) (c : Completion) (d : List Byte) : (s.respond c d).pending = s.pending := rfl

end Sys2Proof.Machine
end

