-- ==== Sys2Proof/Laws/Table.lean ====
section
/-! SUPPORT. What the operations over tables and sets do, each said once: finding an entry after an operation, and the canonical
form that every operation keeps. -/

namespace Sys2Proof.Machine

variable {α : Type}

@[simp] theorem Table.find_nil (n : Nat) : Table.find ([] : Table α) n = none := rfl

@[simp] theorem Table.find_put_self (t : Table α) (n : Nat) (a : α) : Table.find (Table.put t n a) n = some a := by
  induction t with
  | nil => simp [Table.put, Table.find]
  | cons e rest ih =>
    obtain ⟨k, b⟩ := e
    by_cases h1 : n < k
    · simp [Table.put, h1, Table.find]
    · by_cases h2 : n = k
      · subst h2; simp [Table.put, Table.find]
      · have h3 : k ≠ n := fun h => h2 h.symm
        simp [Table.put, h1, h2, Table.find, h3, ih]

theorem Table.find_put_ne (t : Table α) {n m : Nat} (a : α) (h : m ≠ n) :
    Table.find (Table.put t n a) m = Table.find t m := by
  have hn : ¬ n = m := fun x => h x.symm
  induction t with
  | nil => simp [Table.put, Table.find, hn]
  | cons e rest ih =>
    obtain ⟨k, b⟩ := e
    by_cases h1 : n < k
    · simp [Table.put, h1, Table.find, hn]
    · by_cases h2 : n = k
      · subst h2; simp [Table.put, Table.find, hn]
      · by_cases h4 : k = m
        · subst h4; simp [Table.put, h1, h2, Table.find]
        · simp [Table.put, h1, h2, Table.find, h4, ih]

theorem Table.find_put (t : Table α) (n m : Nat) (a : α) :
    Table.find (Table.put t n a) m = if m = n then some a else Table.find t m := by
  by_cases h : m = n
  · subst h; simp
  · simp [h, Table.find_put_ne t a h]

@[simp] theorem Table.find_drop_self (t : Table α) (n : Nat) : Table.find (Table.drop t n) n = none := by
  induction t with
  | nil => rfl
  | cons e rest ih =>
    obtain ⟨k, b⟩ := e
    unfold Table.drop at ih ⊢
    by_cases h : k = n
    · simp [h, ih]
    · simp [h, Table.find, ih]

theorem Table.find_drop_ne (t : Table α) {n m : Nat} (h : m ≠ n) : Table.find (Table.drop t n) m = Table.find t m := by
  induction t with
  | nil => rfl
  | cons e rest ih =>
    obtain ⟨k, b⟩ := e
    unfold Table.drop at ih ⊢
    by_cases hk : k = n
    · subst hk
      have : ¬ k = m := fun x => h x.symm
      simp [Table.find, this, ih]
    · by_cases hm : k = m
      · subst hm; simp [hk, Table.find]
      · simp [hk, Table.find, hm, ih]

theorem Table.find_drop (t : Table α) (n m : Nat) :
    Table.find (Table.drop t n) m = if m = n then none else Table.find t m := by
  by_cases h : m = n
  · subst h; simp
  · simp [h, Table.find_drop_ne t h]

@[simp] theorem Table.find_mapEach (f : Nat → α → α) (t : Table α) (n : Nat) :
    Table.find (Table.mapEach f t) n = (Table.find t n).map (f n) := by
  induction t with
  | nil => rfl
  | cons e rest ih =>
    obtain ⟨k, b⟩ := e
    unfold Table.mapEach at ih ⊢
    by_cases h : k = n
    · subst h; simp [Table.find]
    · simp [Table.find, h, ih]

/-- An entry that is found stands in the table. -/
theorem Table.mem_of_find {t : Table α} {n : Nat} {a : α} (h : Table.find t n = some a) : (n, a) ∈ t := by
  induction t with
  | nil => simp at h
  | cons e rest ih =>
    obtain ⟨k, b⟩ := e
    by_cases hk : k = n
    · subst hk
      simp only [Table.find, if_true, Option.some.injEq] at h
      subst h; exact List.mem_cons_self
    · simp only [Table.find, hk, if_false] at h
      exact List.mem_cons_of_mem _ (ih h)

/-- In a table in canonical form, an entry that stands in it is found. -/
theorem Table.find_of_mem {b : Nat} {t : Table α} (hc : Table.Canonical b t) {e : Nat × α} (h : e ∈ t) :
    Table.find t e.1 = some e.2 := by
  obtain ⟨hp, -⟩ := hc
  induction t with
  | nil => simp at h
  | cons x rest ih =>
    obtain ⟨k, a⟩ := x
    simp only [List.map_cons, List.pairwise_cons] at hp
    rcases List.mem_cons.mp h with rfl | h
    · simp [Table.find]
    · have : k < e.1 := hp.1 _ (List.mem_map_of_mem h)
      have hk : ¬ k = e.1 := by omega
      simp [Table.find, hk, ih h hp.2]

/-- In a table in canonical form, the entries are exactly what is found. -/
theorem Table.mem_iff_find {b : Nat} {t : Table α} (hc : Table.Canonical b t) (n : Nat) (a : α) :
    (n, a) ∈ t ↔ Table.find t n = some a :=
  ⟨fun h => Table.find_of_mem hc h, Table.mem_of_find⟩

theorem Table.mem_put {t : Table α} {n : Nat} {a : α} {e : Nat × α} (h : e ∈ Table.put t n a) : e = (n, a) ∨ e ∈ t := by
  induction t with
  | nil => simpa [Table.put] using h
  | cons x rest ih =>
    obtain ⟨k, b⟩ := x
    unfold Table.put at h
    split at h
    · simpa using h
    · split at h
      · rcases List.mem_cons.mp h with h | h
        · exact .inl h
        · exact .inr (List.mem_cons_of_mem _ h)
      · rcases List.mem_cons.mp h with h | h
        · exact .inr (h ▸ List.mem_cons_self)
        · rcases ih h with h | h
          · exact .inl h
          · exact .inr (List.mem_cons_of_mem _ h)

theorem Table.canonical_nil (b : Nat) : Table.Canonical b ([] : Table α) := ⟨List.Pairwise.nil, by simp⟩

theorem Table.canonical_put {b : Nat} {t : Table α} (hc : Table.Canonical b t) {n : Nat} (hn : n < b) (a : α) :
    Table.Canonical b (Table.put t n a) := by
  constructor
  · obtain ⟨hp, -⟩ := hc
    induction t with
    | nil => simp [Table.put]
    | cons x rest ih =>
      obtain ⟨k, c⟩ := x
      simp only [List.map_cons, List.pairwise_cons] at hp
      unfold Table.put
      split
      · rename_i h
        simp only [List.map_cons, List.pairwise_cons, List.mem_cons]
        refine ⟨?_, hp.1, hp.2⟩
        rintro m (rfl | hm)
        · exact h
        · exact Nat.lt_trans h (hp.1 _ hm)
      · split
        · rename_i h2
          subst h2
          simpa using hp
        · simp only [List.map_cons, List.pairwise_cons]
          refine ⟨?_, ih hp.2⟩
          intro m hm
          obtain ⟨e, he, rfl⟩ := List.mem_map.mp hm
          rcases Table.mem_put he with rfl | he
          · simp only; omega
          · exact hp.1 _ (List.mem_map_of_mem he)
  · intro e he
    rcases Table.mem_put he with rfl | he
    · exact hn
    · exact hc.2 _ he

theorem Table.canonical_filter {b : Nat} {t : Table α} (hc : Table.Canonical b t) (p : Nat × α → Bool) :
    Table.Canonical b (t.filter p) :=
  ⟨hc.1.sublist (List.filter_sublist.map _), fun e he => hc.2 e (List.mem_of_mem_filter he)⟩

theorem Table.canonical_drop {b : Nat} {t : Table α} (hc : Table.Canonical b t) (n : Nat) :
    Table.Canonical b (Table.drop t n) := Table.canonical_filter hc _

theorem Table.canonical_mapEach {b : Nat} {t : Table α} (hc : Table.Canonical b t) (f : Nat → α → α) :
    Table.Canonical b (Table.mapEach f t) := by
  unfold Table.mapEach
  refine ⟨by simpa [List.map_map, Function.comp_def] using hc.1, ?_⟩
  intro e he
  obtain ⟨x, hx, rfl⟩ := List.mem_map.mp he
  exact hc.2 x hx

/-- In a table in canonical form, a number that is found is within the range. -/
theorem Table.lt_of_find {b : Nat} {t : Table α} (hc : Table.Canonical b t) {n : Nat} {a : α}
    (h : Table.find t n = some a) : n < b := hc.2 _ (Table.mem_of_find h)

@[simp] theorem NatSet.mem_add (l : NatSet) (n m : Nat) : m ∈ NatSet.add l n ↔ m = n ∨ m ∈ l := by
  induction l with
  | nil => simp [NatSet.add]
  | cons k rest ih =>
    unfold NatSet.add
    split
    · simp
    · split
      · rename_i h; subst h; simp
      · simp only [List.mem_cons, ih]; tauto

@[simp] theorem NatSet.mem_remove (l : NatSet) (n m : Nat) : m ∈ NatSet.remove l n ↔ m ∈ l ∧ m ≠ n := by
  simp [NatSet.remove]

end Sys2Proof.Machine
end

