-- ==== Sys2Proof/Laws/Records.lean ====
section
/-! SUPPORT. What the shared operations over records do to each record and to the rest of the state. -/

namespace Sys2Proof.Machine

variable {s : State} {n m : Nat} {r : LoadRecord} {new : LoadState} {out : Option (Operation × OpResult)}

/-! ### Finding a record after an update -/

@[simp] theorem load_setLoad (s : State) (n m : Nat) (r : LoadRecord) :
    (s.setLoad n r).load m = if m = n then some r else s.load m := Table.find_put s.loads n m r

@[simp] theorem load_mark (s : State) (k m : Nat) : (s.mark k).load m = s.load m := rfl
@[simp] theorem load_setLine (s : State) (l : Fin 4) (x : Line) (m : Nat) : (s.setLine l x).load m = s.load m := rfl
@[simp] theorem load_offerUrgent (s : State) (l : Fin 4) (a m : Nat) : (s.offerUrgent l a).load m = s.load m := rfl
@[simp] theorem load_dropEntry (s : State) (k m : Nat) : (s.dropEntry k).load m = s.load m := rfl
@[simp] theorem load_settleFeeder (s : State) (f : Fin 8) (m : Nat) : (s.settleFeeder f).load m = s.load m := rfl
@[simp] theorem load_occupyFeeder (s : State) (f : Fin 8) (k m : Nat) : (s.occupyFeeder f k).load m = s.load m := rfl
@[simp] theorem load_groupsFollow (s : State) (k : Nat) (st : LoadState) (m : Nat) :
    (s.groupsFollow k st).load m = s.load m := rfl
@[simp] theorem load_forgetFailed (s : State) (k m : Nat) : (s.forgetFailed k).load m = s.load m := rfl
@[simp] theorem load_setPlan (s : State) (p : Nat) (x : WakePlan) (m : Nat) : (s.setPlan p x).load m = s.load m := rfl
@[simp] theorem load_setReason (s : State) (k : Nat) (w : WaitReason) (m : Nat) : (s.setReason k w).load m = s.load m := rfl
@[simp] theorem load_recompute (s : State) (m : Nat) : s.recompute.load m = s.load m := rfl
@[simp] theorem load_respond (s : State) (c : Completion) (d : List Byte) (m : Nat) : (s.respond c d).load m = s.load m := rfl

@[simp] theorem load_modifyGroup (s : State) (g : Nat) (f : Group → Group) (m : Nat) :
    (s.modifyGroup g f).load m = s.load m := by
  unfold State.modifyGroup; split <;> rfl

theorem stateOf_eq {st : LoadState} : s.stateOf n = some st ↔ ∃ r, s.load n = some r ∧ r.state = st := by
  unfold State.stateOf
  cases s.load n <;> simp

/-! ### `moveTo` -/

@[simp] theorem movedRecord_state (s : State) (r : LoadRecord) (new : LoadState) (out : Option (Operation × OpResult)) :
    (s.movedRecord r new out).state = new := by
  unfold State.movedRecord; cases out <;> rfl

theorem moveTo_vacant (h : s.load n = none) : s.moveTo n new out = s := by simp [State.moveTo, h]

/-- `moveTo` writes one record and no other. -/
theorem moveTo_load (h : s.load n = some r) (m : Nat) :
    (s.moveTo n new out).load m = if m = n then some (s.movedRecord r new out) else s.load m := by
  simp only [State.moveTo, h]
  split <;> split <;> split <;> split <;> simp

@[simp] theorem moveTo_load_self (h : s.load n = some r) :
    (s.moveTo n new out).load n = some (s.movedRecord r new out) := by simp [moveTo_load h]

theorem moveTo_load_ne (h : m ≠ n) : (s.moveTo n new out).load m = s.load m := by
  cases hl : s.load n with
  | none => rw [moveTo_vacant hl]
  | some r => simp [moveTo_load hl, h]

/-- `moveTo` keeps the canonical form of the load table. -/
theorem moveTo_canonical (hc : Table.Canonical 240 s.loads) : Table.Canonical 240 (s.moveTo n new out).loads := by
  cases hl : s.load n with
  | none => rwa [moveTo_vacant hl]
  | some r =>
    have hn : n < 240 := Table.lt_of_find hc hl
    simp only [State.moveTo, hl]
    have := Table.canonical_put hc hn (s.movedRecord r new out)
    split <;> split <;> split <;> split <;> simpa [State.offerUrgent] using this

/-! ### What no operation of a hand-off touches -/

/-- The parts of the state that no hand-off touches: everything but the authority, the records, the marks, the groups,
the queue and its count, the feeders, the wake plans, the urgent lists and the choice counter. -/
def State.frozen (s : State) : State :=
  { s with
    authority := 0, loads := [], marks := [], groups := [], queue := [], arrivals := 0
    feeders := Vector.replicate 8 .free, plans := [], lines := s.lines.map (fun x => { x with urgent := [] }), choices := 0 }

theorem frozen_field {s t : State} (h : t.frozen = s.frozen) :
    t.timeBase = s.timeBase ∧ t.nextHoldMinute = s.nextHoldMinute ∧ t.clock = s.clock ∧ t.dayMap = s.dayMap
      ∧ t.todayOverride = s.todayOverride ∧ t.yesterday = s.yesterday ∧ t.windows = s.windows ∧ t.period = s.period
      ∧ t.periodEnd = s.periodEnd ∧ t.slotOutcomes = s.slotOutcomes ∧ t.listCursor = s.listCursor
      ∧ t.holds = s.holds ∧ t.inrushLimit = s.inrushLimit ∧ t.settleTime = s.settleTime
      ∧ t.executing = s.executing ∧ t.answer = s.answer ∧ t.overrun = s.overrun ∧ t.mask = s.mask
      ∧ t.miso = s.miso ∧ t.pending = s.pending ∧ t.finishing = s.finishing := by
  have := congrArg (fun x => (x.timeBase, x.nextHoldMinute, x.clock, x.dayMap, x.todayOverride, x.yesterday, x.windows,
    x.period, x.periodEnd, x.slotOutcomes, x.listCursor, x.holds, x.inrushLimit, x.settleTime, x.executing, x.answer,
    x.overrun, x.mask, x.miso, x.pending, x.finishing)) h
  simpa [State.frozen] using this

theorem frozen_lines {s t : State} (h : t.frozen = s.frozen) (l : Fin 4) :
    ∃ u, t.lineAt l = { s.lineAt l with urgent := u } := by
  have h1 : t.lines.map (fun x : Line => { x with urgent := [] }) = s.lines.map (fun x : Line => { x with urgent := [] }) :=
    congrArg State.lines h
  have h2 := congrArg (fun v : Vector Line 4 => v[l]) h1
  simp only [Fin.getElem_fin, Vector.getElem_map, Line.mk.injEq] at h2
  refine ⟨(t.lineAt l).urgent, ?_⟩
  cases ht : t.lineAt l
  simp only [State.lineAt, Fin.getElem_fin] at ht h2 ⊢
  rw [ht] at h2
  cases hs : s.lines[l.val]
  rw [hs] at h2
  simp_all

@[simp] theorem frozen_setLoad (s : State) (n : Nat) (r : LoadRecord) : (s.setLoad n r).frozen = s.frozen := rfl
@[simp] theorem frozen_mark (s : State) (n : Nat) : (s.mark n).frozen = s.frozen := rfl
@[simp] theorem frozen_dropEntry (s : State) (n : Nat) : (s.dropEntry n).frozen = s.frozen := rfl
@[simp] theorem frozen_settleFeeder (s : State) (f : Fin 8) : (s.settleFeeder f).frozen = s.frozen := rfl
@[simp] theorem frozen_occupyFeeder (s : State) (f : Fin 8) (n : Nat) : (s.occupyFeeder f n).frozen = s.frozen := rfl
@[simp] theorem frozen_groupsFollow (s : State) (n : Nat) (st : LoadState) : (s.groupsFollow n st).frozen = s.frozen := rfl
@[simp] theorem frozen_forgetFailed (s : State) (n : Nat) : (s.forgetFailed n).frozen = s.frozen := rfl
@[simp] theorem frozen_setPlan (s : State) (p : Nat) (x : WakePlan) : (s.setPlan p x).frozen = s.frozen := rfl
@[simp] theorem frozen_setReason (s : State) (n : Nat) (w : WaitReason) : (s.setReason n w).frozen = s.frozen := rfl
@[simp] theorem frozen_recompute (s : State) : s.recompute.frozen = s.frozen := rfl
@[simp] theorem frozen_choices (s : State) (k : Nat) : ({ s with choices := k } : State).frozen = s.frozen := rfl
@[simp] theorem frozen_queue (s : State) (q : List Entry) (a : BitVec 32) :
    ({ s with queue := q, arrivals := a } : State).frozen = s.frozen := rfl

@[simp] theorem frozen_modifyGroup (s : State) (g : Nat) (f : Group → Group) : (s.modifyGroup g f).frozen = s.frozen := by
  unfold State.modifyGroup; split <;> rfl

@[simp] theorem offer_urgent_erased (x : Line) (a : Nat) :
    ({ x.offer a with urgent := [] } : Line) = { x with urgent := [] } := by
  unfold Line.offer; split <;> rfl

@[simp] theorem frozen_offerUrgent (s : State) (l : Fin 4) (a : Nat) : (s.offerUrgent l a).frozen = s.frozen := by
  have : (s.offerUrgent l a).lines.map (fun x : Line => { x with urgent := [] })
      = s.lines.map (fun x : Line => { x with urgent := [] }) := by
    apply Vector.ext
    intro i hi
    simp only [State.offerUrgent, State.setLine, Vector.getElem_map]
    by_cases h : l.val = i
    · subst h
      simp [State.lineAt]
    · have := Vector.getElem_set_ne (xs := s.lines) (i := l.val) (j := i) (x := (s.lineAt l).offer a) l.isLt hi h
      simp_all
  simp only [State.frozen, this]
  rfl

/-- `moveTo` touches nothing that is frozen. -/
@[simp] theorem frozen_moveTo (s : State) (n : Nat) (new : LoadState) (out : Option (Operation × OpResult)) :
    (s.moveTo n new out).frozen = s.frozen := by
  unfold State.moveTo
  split
  · rfl
  · dsimp only; split <;> split <;> split <;> split <;> simp

theorem moveTo_settled (s : State) (n : Nat) (new : LoadState) (out : Option (Operation × OpResult)) :
    (s.moveTo n new out).plans = s.plans ∧ (s.moveTo n new out).authority = s.authority := by
  unfold State.moveTo
  split
  · simp
  · dsimp only; split <;> split <;> split <;> split <;> simp [State.offerUrgent]

theorem moveTo_marks (s : State) (n : Nat) (new : LoadState) (out : Option (Operation × OpResult)) {k : Nat}
    (h : k ∈ s.marks) : k ∈ (s.moveTo n new out).marks := by
  unfold State.moveTo
  split
  · exact h
  · dsimp only; split <;> split <;> split <;> split <;> simp [State.offerUrgent, h]

theorem moveTo_marks_self (h : s.load n = some r) : n ∈ (s.moveTo n new out).marks := by
  simp only [State.moveTo, h]
  split <;> split <;> split <;> split <;> simp [State.offerUrgent]

theorem follow_margin (x : Group) (n : Nat) (new : LoadState) : (x.follow n new).margin = x.margin := by
  unfold Group.follow; split <;> (try split) <;> rfl

/-- `moveTo` neither defines nor removes a group nor changes a margin. -/
theorem moveTo_margin (s : State) (n : Nat) (new : LoadState) (out : Option (Operation × OpResult)) (g : Nat) :
    ((s.moveTo n new out).group g).map (·.margin) = (s.group g).map (·.margin) := by
  unfold State.moveTo
  split
  · rfl
  · dsimp only; split <;> split <;> split <;> split <;>
      simp [State.group, State.offerUrgent, Function.comp_def, follow_margin]

/-- `moveTo` leaves a SETTLING feeder as it is, but for the one it settles itself or, on a grant, occupies. -/
theorem moveTo_feeders (h : s.load n = some r) (f : Fin 8) (h1 : r.state ≠ .starting ∨ f ≠ r.feeder)
    (h2 : new ≠ .starting ∨ f ≠ r.feeder) : (s.moveTo n new out).feeders[f] = s.feeders[f] := by
  have hne : ∀ (v : Vector Feeder 8) (x : Feeder), f ≠ r.feeder → (v.set r.feeder x)[f] = v[f] := by
    intro v x hx
    have : r.feeder.val ≠ f.val := fun hh => hx (Fin.ext hh.symm)
    simp [this]
  simp only [State.moveTo, h]
  by_cases a : r.state = .starting <;> by_cases b : new = .starting
  · have := hne; simp_all
    split <;> simp_all [State.offerUrgent]
  · simp_all
    split <;> simp_all [State.offerUrgent]
  · simp_all
    split <;> split <;> simp_all [State.offerUrgent]
  · simp_all
    split <;> split <;> simp_all [State.offerUrgent]

/-! ### The pins of a line -/

@[simp] theorem Line.quieted_exchange (x : Line) : x.quieted.exchange = none := rfl
@[simp] theorem Line.quieted_txdNow (x : Line) : x.quieted.txdNow = true := rfl
@[simp] theorem Line.quieted_deNow (x : Line) : x.quieted.deNow = false := rfl
@[simp] theorem Line.disabled_txdNow (x : Line) : x.disabled.txdNow = true := rfl
@[simp] theorem Line.disabled_deNow (x : Line) : x.disabled.deNow = false := rfl
@[simp] theorem Line.afterReset_txdNow (x : Line) : x.afterReset.txdNow = true := rfl
@[simp] theorem Line.afterReset_deNow (x : Line) : x.afterReset.deNow = false := rfl
@[simp] theorem Line.polling_txdNow (x : Line) (n address : Nat) (o : Order) : (x.polling n address o).txdNow = true := by
  simp [Line.polling, Line.txdNow, pollLevels]
@[simp] theorem Line.polling_deNow (x : Line) (n address : Nat) (o : Order) : (x.polling n address o).deNow = false := by
  simp [Line.polling, Line.deNow, pollDrive]

end Sys2Proof.Machine
end

