-- ==== Sys2Proof/Laws/Settle.lean ====
section
/-! SUPPORT. What taking hand-offs can do, said once: an induction principle for the loop, and what a step's hand-offs of the
three plain kinds (an evaluation, a group's test, an examination) leave as it was. -/

namespace Sys2Proof.Machine

/-! ### The induction principle -/

theorem mem_addWork {waiting new : List Work} {w : Work} (h : w ∈ addWork waiting new) : w ∈ waiting ∨ w ∈ new := by
  unfold addWork at h
  induction new generalizing waiting with
  | nil => exact .inl h
  | cons x rest ih =>
    rcases ih h with h | h
    · simp only at h
      split at h
      · exact .inl h
      · rcases List.mem_append.mp h with h | h
        · exact .inl h
        · exact .inr (by simp at h; simp [h])
    · exact .inr (List.mem_cons_of_mem _ h)

/-- What a choice among the waiting hand-offs can answer: one of them, the others, and a state in which at most the
choice counter has moved. -/
theorem choose_spec (s : State) (w : Work) (rest : List Work) :
    (s.choose w rest).1 ∈ w :: rest ∧ (∀ x ∈ (s.choose w rest).2.1, x ∈ w :: rest)
      ∧ ∃ k, (s.choose w rest).2.2 = { s with choices := k } := by
  unfold State.choose
  cases rest with
  | nil => exact ⟨List.mem_cons_self, by simp, s.choices, rfl⟩
  | cons v rest' =>
    refine ⟨?_, ?_, _, rfl⟩
    · have hi : Config.pick s.choices ((v :: rest').length + 1) % ((v :: rest').length + 1) < (w :: v :: rest').length :=
        Nat.mod_lt _ (by simp)
      simp only [List.getD_eq_getElem?_getD, List.getElem?_eq_getElem hi, Option.getD_some]
      exact List.getElem_mem hi
    · intro x hx
      exact List.mem_of_mem_eraseIdx hx

theorem dueHandoffs_mem {s0 s1 : State} {w : Work} (h : w ∈ dueHandoffs s0 s1) : w ∈ handoffs s0 s1 := by
  unfold handoffs
  simp [h]

/-- Offering the members one after another keeps what every run of an offer keeps. -/
theorem offerMembers_keeps {P : State → Prop} {Q : Work → Prop} (hrun : ∀ w s, Q w → P s → P (w.run s).1)
    (hleft : ∀ w s, Q w → P s → ∀ x ∈ (w.run s).2, Q x) :
    ∀ (l : List Nat) (s : State), Q (.offer l) → P s → P (s.offerMembers l) := by
  intro l
  induction l with
  | nil => intro s _ h; exact h
  | cons n rest ih =>
    intro s hq h
    have h1 := hrun _ s hq h
    have h2 := hleft _ s hq h
    by_cases hf : (s.offerWake n).queue.length < Config.queueEntries
    · simp only [Work.run, hf, if_true] at h1 h2
      exact ih _ (h2 _ (by simp)) h1
    · simpa [Work.run, hf] using h1

/-- Taking a hand-off at the bound keeps what every run of it and of what it leaves keeps. -/
theorem finish_keeps {P : State → Prop} {Q : Work → Prop} (hrun : ∀ w s, Q w → P s → P (w.run s).1)
    (hwork : ∀ w s, Q w → P s → ∀ x ∈ (w.run s).2 ++ handoffs s (w.run s).1, Q x) (w : Work) (s : State) (hw : Q w)
    (hs : P s) : P (w.finish s) := by
  have hoffer := offerMembers_keeps hrun (fun w s hq hp x hx => hwork w s hq hp x (List.mem_append_left _ hx))
  have hleft : ∀ x ∈ (w.run s).2 ++ dueHandoffs s (w.run s).1, Q x := fun x hx => hwork w s hw hs x (by
    rcases List.mem_append.mp hx with h | h
    · exact List.mem_append_left _ h
    · exact List.mem_append_right _ (dueHandoffs_mem h))
  unfold Work.finish
  have h1 := hrun w s hw hs
  generalize (w.run s).1 = t at h1 hleft ⊢
  generalize (w.run s).2 ++ dueHandoffs s t = l at hleft
  induction l generalizing t with
  | nil => exact h1
  | cons v rest ih =>
    have hv := hleft v List.mem_cons_self
    refine ih _ ?_ (fun x hx => hleft x (List.mem_cons_of_mem _ hx))
    cases v with
    | evaluate n => exact hrun _ t hv h1
    | offer members => exact hoffer members t hv h1
    | testGroup _ => exact h1
    | examine => exact h1
    | recompute => exact h1
    | periodEnd _ => exact h1
    | activate _ => exact h1

/-- A property of states holds after the hand-offs of a step if it holds before them, does not read the choice counter,
and is kept by every hand-off of a class `Q` that the waiting hand-offs are of and that begets only its own kind. -/
theorem settleLoop_induction {P : State → Prop} {Q : Work → Prop}
    (hchoice : ∀ s k, P s → P { s with choices := k })
    (hrun : ∀ w s, Q w → P s → P (w.run s).1)
    (hwork : ∀ w s, Q w → P s → ∀ x ∈ (w.run s).2 ++ handoffs s (w.run s).1, Q x) :
    ∀ fuel ws s, (∀ w ∈ ws, Q w) → P s → P (settleLoop fuel ws s) := by
  intro fuel
  induction fuel with
  | zero =>
    intro ws s hw h
    unfold settleLoop
    induction ws generalizing s with
    | nil => exact h
    | cons w rest ih =>
      exact ih (w.finish s) (fun x hx => hw x (List.mem_cons_of_mem _ hx))
        (finish_keeps hrun hwork w s (hw w List.mem_cons_self) h)
  | succ fuel ih =>
    intro ws s hw hs
    unfold settleLoop
    split
    · exact hs
    · rename_i w rest hf
      have hall : ∀ x ∈ w :: rest, Q x := fun x hx => by
        rw [← hf] at hx; exact hw x (List.mem_of_mem_filter hx)
      obtain ⟨h1, h2, k, h3⟩ := choose_spec s w rest
      generalize s.choose w rest = c at h1 h2 h3
      obtain ⟨next, others, s1⟩ := c
      simp only at h1 h2 h3
      subst h3
      have hq := hall next h1
      have hp := hchoice s k hs
      refine ih _ _ ?_ (hrun next _ hq hp)
      intro x hx
      rcases mem_addWork hx with hx | hx
      · exact hall x (h2 x hx)
      · exact hwork next _ hq hp x hx

theorem settle_induction {P : State → Prop} {Q : Work → Prop} {s0 s1 : State} {work : List Work}
    (hchoice : ∀ s k, P s → P { s with choices := k })
    (hrun : ∀ w s, Q w → P s → P (w.run s).1)
    (hwork : ∀ w s, Q w → P s → ∀ x ∈ (w.run s).2 ++ handoffs s (w.run s).1, Q x)
    (h0 : ∀ w ∈ work ++ handoffs s0 s1, Q w) (hs : P s1) : P (s0.settle s1 work) := by
  unfold State.settle
  refine settleLoop_induction hchoice hrun hwork _ _ _ ?_ hs
  intro w hw
  rcases mem_addWork hw with h | h
  · simp at h
  · exact h0 w h

/-- The induction principle for a property that every hand-off of every kind keeps. -/
theorem settle_keeps {P : State → Prop} {s0 s1 : State} {work : List Work}
    (hchoice : ∀ s k, P s → P { s with choices := k }) (hrun : ∀ (w : Work) s, P s → P (w.run s).1) (hs : P s1) :
    P (s0.settle s1 work) :=
  settle_induction (Q := fun _ => True) hchoice (fun w s _ h => hrun w s h) (fun _ _ _ _ _ _ => trivial)
    (fun _ _ => trivial) hs

/-! ### The plain hand-offs -/

/-- An evaluation, a group's test or an examination. -/
def Work.plain : Work → Prop
  | .evaluate _ | .testGroup _ | .examine => True
  | .recompute | .periodEnd _ | .activate _ | .offer _ => False

theorem handoffs_plain (s0 s1 : State) : ∀ w ∈ handoffs s0 s1, w.plain := by
  intro w hw
  unfold handoffs at hw
  simp only [List.mem_append] at hw
  rcases hw with (((hw | hw) | hw) | hw) | hw
  · unfold dueHandoffs at hw
    obtain ⟨e, -, rfl⟩ := List.mem_map.mp hw
    trivial
  · obtain ⟨g, -, hw⟩ := List.mem_flatMap.mp hw
    unfold groupHandoffs at hw
    split at hw
    · simp at hw
    · simp only [List.mem_append, List.mem_map, List.mem_cons, List.not_mem_nil, or_false] at hw
      rcases hw with (⟨p, -, rfl⟩ | rfl) | hw
      · trivial
      · trivial
      · split at hw
        · simp only [List.mem_cons, List.not_mem_nil, or_false] at hw; subst hw; trivial
        · simp at hw
  · unfold removalHandoffs shortTests at hw
    split at hw
    · simp at hw
    · obtain ⟨e, -, rfl⟩ := List.mem_map.mp hw; trivial
  · unfold barHandoffs at hw
    obtain ⟨e, -, hw⟩ := List.mem_flatMap.mp hw
    rcases List.mem_append.mp hw with hw | hw
    · simp only [Option.mem_toList, Option.map_eq_some_iff] at hw
      obtain ⟨p, -, rfl⟩ := hw; trivial
    · simp only [List.mem_cons, List.not_mem_nil, or_false] at hw; subst hw; trivial
  · split at hw
    · simp only [List.mem_cons, List.not_mem_nil, or_false] at hw; subst hw; trivial
    · simp at hw

theorem run_plain_work {w : Work} (h : w.plain) (s : State) : (w.run s).2 = [] := by
  cases w <;> first | rfl | exact absurd h (by simp [Work.plain])

/-- A property holds after plain hand-offs if evaluations, group tests and examinations keep it. -/
theorem settle_plain {P : State → Prop} {s0 s1 : State} {work : List Work} (hp : ∀ w ∈ work, w.plain)
    (hchoice : ∀ s k, P s → P { s with choices := k }) (he : ∀ s n, P s → P (s.evaluate n))
    (ht : ∀ s g, P s → P (s.testGroup g)) (hx : ∀ s e, P s → P (s.examineEntry e)) (hs : P s1) :
    P (s0.settle s1 work) := by
  refine settle_induction (Q := Work.plain) hchoice ?_ ?_ ?_ hs
  · intro w s hw h
    cases w with
    | evaluate n => exact he s n h
    | testGroup g => exact ht s g h
    | examine =>
      show P (s.examine)
      unfold State.examine
      generalize s.queue = q
      clear hs
      induction q generalizing s with
      | nil => exact h
      | cons e rest ih => exact ih _ (hx s e h)
    | recompute => exact absurd hw (by simp [Work.plain])
    | periodEnd _ => exact absurd hw (by simp [Work.plain])
    | activate _ => exact absurd hw (by simp [Work.plain])
    | offer _ => exact absurd hw (by simp [Work.plain])
  · intro w s hw _ x hx
    rw [run_plain_work hw, List.nil_append] at hx
    exact handoffs_plain _ _ x hx
  · intro w hw
    rcases List.mem_append.mp hw with h | h
    · exact hp w h
    · exact handoffs_plain _ _ w h

end Sys2Proof.Machine
end

