-- ==== Sys2Proof/Laws/Quiet.lean ====
section
/-! SUPPORT. What a step's plain hand-offs (evaluations, group tests, examinations) can do, said once: `settle_quiet`. Each record
changes by `HandedOn` at most; the clock, the holds, the plans, the lines' settings and the port stay as they are. -/

namespace Sys2Proof.Machine

/-- What plain hand-offs keep of the state `s0` they began in. -/
structure Quiet (s0 s : State) : Prop where
  frozen : s.frozen = s0.frozen
  plans : s.plans = s0.plans
  authority : s.authority = s0.authority
  canonical : Table.Canonical 240 s0.loads → Table.Canonical 240 s.loads
  record : Table.Canonical 240 s0.loads → ∀ n r, s0.load n = some r → ∃ r', s.load n = some r' ∧ HandedOn s0.timeBase r r'
  vacant : ∀ n, s0.load n = none → s.load n = none
  marks : ∀ k, k ∈ s0.marks → k ∈ s.marks
  margin : ∀ g, (s.group g).map (·.margin) = (s0.group g).map (·.margin)
  settling : ∀ (f : Fin 8) e, s0.feeders[f] = .settling e → s.feeders[f] = .settling e

theorem Quiet.refl (s : State) : Quiet s s :=
  ⟨rfl, rfl, rfl, id, fun _ _ r h => ⟨r, h, .inl rfl⟩, fun _ h => h, fun _ h => h, fun _ => rfl, fun _ _ h => h⟩

theorem Quiet.timeBase {s0 s : State} (h : Quiet s0 s) : s.timeBase = s0.timeBase := (frozen_field h.frozen).1

/-- A change that touches only the queue, the choice counter and the states of groups is quiet. -/
theorem Quiet.of_same {s0 s t : State} (h : Quiet s0 s) (hf : t.frozen = s.frozen) (hp : t.plans = s.plans)
    (ha : t.authority = s.authority) (hl : t.loads = s.loads) (hm : t.marks = s.marks)
    (hg : ∀ g, (t.group g).map (·.margin) = (s.group g).map (·.margin)) (hfe : t.feeders = s.feeders) : Quiet s0 t := by
  have hload : ∀ n, t.load n = s.load n := fun n => by unfold State.load; rw [hl]
  refine ⟨hf.trans h.frozen, hp.trans h.plans, ha.trans h.authority, ?_, ?_, ?_, ?_, ?_, ?_⟩
  · rw [hl]; exact h.canonical
  · intro hc n r hr
    rw [hload]; exact h.record hc n r hr
  · intro n hn
    rw [hload]; exact h.vacant n hn
  · rw [hm]; exact h.marks
  · intro g; rw [hg, h.margin]
  · rw [hfe]; exact h.settling

/-- The changes of state that a hand-off makes. -/
def HandoffMove (s : State) (r : LoadRecord) (new : LoadState) : Prop :=
  (r.state = .due ∧ new = .stopping)
    ∨ (r.state = .stopped ∧ new = .queued ∧ (Table.Canonical 240 s.loads → r.provides.isSome = true))
    ∨ (r.state = .queued ∧ new = .starting ∧ s.feeders[r.feeder] = .free)

theorem HandedOn.move {s : State} {r0 r : LoadRecord} {new : LoadState} {now : Nat} (h : HandedOn now r0 r)
    (hm : HandoffMove s r new) (hc : Table.Canonical 240 s.loads) : HandedOn now r0 (r.entering new now) := by
  rcases h with rfl | ⟨h0, ⟨b, rfl⟩ | rfl⟩ | ⟨h0, hp, rfl | rfl⟩ | ⟨h0, rfl⟩ <;>
    rcases hm with ⟨h1, rfl⟩ | ⟨h1, rfl, h2⟩ | ⟨h1, rfl, -⟩ <;>
    simp_all [HandedOn, LoadRecord.entering, commandedOn]

theorem Quiet.moveTo {s0 s : State} (h : Quiet s0 s) {n : Nat} {r : LoadRecord} {new : LoadState}
    (hl : s.load n = some r) (hm : HandoffMove s r new) : Quiet s0 (s.moveTo n new none) := by
  have hset := moveTo_settled s n new none
  refine ⟨(frozen_moveTo s n new none).trans h.frozen, hset.1.trans h.plans, hset.2.trans h.authority,
    fun hc => moveTo_canonical (h.canonical hc), ?_, ?_, fun k hk => moveTo_marks s n new none (h.marks k hk),
    fun g => (moveTo_margin s n new none g).trans (h.margin g), ?_⟩
  · intro hc k r0 hr0
    obtain ⟨r1, h1, h2⟩ := h.record hc k r0 hr0
    by_cases hk : k = n
    · subst hk
      rw [hl, Option.some.injEq] at h1; subst h1
      refine ⟨_, moveTo_load_self hl, ?_⟩
      have := HandedOn.move h2 hm (h.canonical hc)
      simpa [State.movedRecord, h.timeBase] using this
    · exact ⟨r1, by rw [moveTo_load_ne hk, h1], h2⟩
  · intro k hk
    have h1 := h.vacant k hk
    have : k ≠ n := fun hh => by rw [hh, hl] at h1; exact absurd h1 (by simp)
    rw [moveTo_load_ne this, h1]
  · intro f e he
    have h1 := h.settling f e he
    rw [moveTo_feeders hl f, h1]
    · left
      rcases hm with ⟨a, -⟩ | ⟨a, -⟩ | ⟨a, -⟩ <;> simp [a]
    · rcases hm with ⟨-, rfl⟩ | ⟨-, rfl, -⟩ | ⟨-, rfl, a⟩
      · exact .inl (by simp)
      · exact .inl (by simp)
      · right; rintro rfl; rw [a] at h1; exact absurd h1 (by simp)

theorem Quiet.evaluate {s0 s : State} (h : Quiet s0 s) (n : Nat) : Quiet s0 (s.evaluate n) := by
  unfold State.evaluate
  split
  · exact h
  · rename_i r hl
    split
    · rename_i hd
      split
      · exact h.moveTo hl (.inl ⟨hd, rfl⟩)
      · refine ⟨h.frozen, h.plans, h.authority, ?_, ?_, ?_, h.marks, h.margin, h.settling⟩
        · intro hc
          exact Table.canonical_put (h.canonical hc) (Table.lt_of_find (h.canonical hc) hl) _
        · intro hc k r0 hr0
          obtain ⟨r1, h1, h2⟩ := h.record hc k r0 hr0
          by_cases hk : k = n
          · subst hk
            rw [hl, Option.some.injEq] at h1; subst h1
            refine ⟨_, by simp; rfl, ?_⟩
            rcases h2 with rfl | ⟨h0, ⟨b, rfl⟩ | rfl⟩ | ⟨h0, hp, rfl | rfl⟩ | ⟨h0, rfl⟩ <;>
              simp_all [HandedOn, LoadRecord.entering]
          · exact ⟨r1, by simp [hk, h1], h2⟩
        · intro k hk
          have h1 := h.vacant k hk
          have : k ≠ n := fun hh => by rw [hh, hl] at h1; exact absurd h1 (by simp)
          simp [this, h1]
    · exact h

theorem providers_mem {s : State} {g : Nat} {q : Provider} (h : q ∈ s.providers g) : q ∈ s.providersByLoad g := by
  unfold State.providers at h
  have place : ∀ (p : Provider) l, q ∈ placeProvider p l → q = p ∨ q ∈ l := by
    intro p l
    induction l with
    | nil => intro h; simpa [placeProvider] using h
    | cons x rest ih =>
      intro h
      unfold placeProvider at h
      split at h
      · simpa using h
      · rcases List.mem_cons.mp h with h | h
        · exact .inr (by simp [h])
        · rcases ih h with h | h
          · exact .inl h
          · exact .inr (List.mem_cons_of_mem _ h)
  generalize s.providersByLoad g = l at h
  induction l with
  | nil => exact h
  | cons x rest ih =>
    rcases place _ _ h with h | h
    · exact h ▸ List.mem_cons_self
    · exact List.mem_cons_of_mem _ (ih h)

/-- A provider of a group is a record whose provides link names it (R105), in a table in canonical form. -/
theorem provider_record {s : State} {g : Nat} {q : Provider} (hc : Table.Canonical 240 s.loads)
    (h : q ∈ s.providersByLoad g) :
    ∃ r p, s.load q.load = some r ∧ r.provides = some p ∧ p.group = g ∧ q.rank = p.rank ∧ q.capacity = p.capacity
      ∧ q.state = r.state := by
  unfold State.providersByLoad at h
  obtain ⟨e, he, hq⟩ := List.mem_filterMap.mp h
  simp only [LoadRecord.providesTo, Option.map_eq_some_iff, Option.filter_eq_some_iff] at hq
  obtain ⟨p, ⟨hp, hg⟩, rfl⟩ := hq
  exact ⟨e.2, p, Table.find_of_mem hc he, hp, by simpa using hg, rfl, rfl, rfl⟩

/-- The provider a group chooses is one of its own, by the conditions of R115. -/
theorem chosen_spec {s : State} {g p : Nat} {x : Group} (h : s.chooseProvider g x = some p) :
    ∃ q ∈ s.providersByLoad g, q.load = p ∧ q.state = .stopped ∧ s.keepOff p = false ∧ p ∉ x.failed := by
  unfold State.chooseProvider at h
  obtain ⟨q, hq, rfl⟩ := Option.map_eq_some_iff.mp h
  have hmem := List.mem_of_find?_eq_some hq
  have hprop := List.find?_some hq
  simp only [Bool.and_eq_true, beq_iff_eq, Bool.not_eq_true', List.contains_eq_mem, decide_eq_false_iff_not] at hprop
  exact ⟨q, providers_mem hmem, rfl, hprop.1.1, hprop.1.2, hprop.2⟩

theorem startOffer_entered {s : State} {n : Nat} (h : s.startOffer n = .entered) :
    s.stateOf n = some .stopped ∧ s.keepOff n = false ∧ s.queue.length < 32 := by
  unfold State.startOffer at h
  split at h
  · rename_i h1
    split at h
    · rename_i h2; exact ⟨h1.1, h1.2, h2⟩
    · exact absurd h (by simp)
  · exact absurd h (by simp)

theorem Quiet.modifyGroup {s0 s : State} (h : Quiet s0 s) (g : Nat) (f : Group → Group)
    (hf : ∀ x, (f x).margin = x.margin) : Quiet s0 (s.modifyGroup g f) := by
  unfold State.modifyGroup
  split
  · exact h
  · rename_i x hx
    refine h.of_same rfl rfl rfl rfl rfl ?_ rfl
    intro k
    by_cases hk : k = g
    · subst hk; simp [State.group, hf]; unfold State.group at hx; simp [hx]
    · simp [State.group, Table.find_put_ne _ _ hk]

theorem Quiet.testGroup {s0 s : State} (h : Quiet s0 s) (g : Nat) : Quiet s0 (s.testGroup g) := by
  unfold State.testGroup
  split
  · exact h
  · rename_i x hx
    split
    · exact h
    all_goals
      split
      · split
        · exact h.modifyGroup _ _ (fun _ => rfl)
        · rename_i p hp
          split
          · rename_i ho
            refine Quiet.modifyGroup ?_ g _ (fun _ => rfl)
            obtain ⟨hs, -, -⟩ := startOffer_entered ho
            obtain ⟨r, hr, hst⟩ := stateOf_eq.mp hs
            unfold State.enqueue
            have hq : Quiet s0 { s with queue := placeEntry (s.newEntry p .supply) s.queue, arrivals := s.arrivals + 1 } :=
              h.of_same rfl rfl rfl rfl rfl (fun _ => rfl) rfl
            refine hq.moveTo (r := r) hr (.inr (.inl ⟨hst, rfl, ?_⟩))
            intro hc
            obtain ⟨q, hmem, rfl, -⟩ := chosen_spec hp
            obtain ⟨r', pr, h1, h2, -⟩ := provider_record (s := s) hc hmem
            have : r' = r := by rw [hr] at h1; exact (Option.some.inj h1).symm
            simp [← this, h2]
          all_goals exact h.modifyGroup _ _ (fun _ => rfl)
      · exact h.modifyGroup _ _ (fun _ => rfl)

/-- An entry passes the four tests only on a FREE feeder (R129). -/
theorem waitReason_none {s : State} {r : LoadRecord} (h : s.waitReason r = .none) :
    s.rested r = true ∧ s.feeders[r.feeder] = .free ∧ s.fitsBudget r = true ∧ s.supplied r = true := by
  unfold State.waitReason at h
  split at h
  · simp at h
  · split at h
    · simp at h
    · split at h
      · simp at h
      · split at h
        · simp at h
        · simp_all

theorem Quiet.examineEntry {s0 s : State} (h : Quiet s0 s) (e : Entry) : Quiet s0 (s.examineEntry e) := by
  unfold State.examineEntry
  split
  · exact h
  · rename_i r hl
    split
    · rename_i hq
      split
      · rename_i hw
        exact h.moveTo hl (.inr (.inr ⟨hq, rfl, (waitReason_none hw).2.1⟩))
      · exact h.of_same rfl rfl rfl rfl rfl (fun _ => rfl) rfl
    · exact h

/-- What plain hand-offs leave as it was. -/
theorem settle_quiet {s0 s1 : State} {work : List Work} (hp : ∀ w ∈ work, w.plain) : Quiet s1 (s0.settle s1 work) :=
  settle_plain hp (fun _ _ h => h.of_same rfl rfl rfl rfl rfl (fun _ => rfl) rfl) (fun _ n h => h.evaluate n)
    (fun _ g h => h.testGroup g) (fun _ e h => h.examineEntry e) (Quiet.refl s1)

/-- A record in a state in which no hand-off acts stays exactly as it is. -/
theorem HandedOn.still {now : Nat} {r r' : LoadRecord} (h : HandedOn now r r') (h1 : r.state ≠ .due)
    (h2 : r.state ≠ .queued) (h3 : r.state ≠ .stopped ∨ r.provides = none) : r' = r := by
  rcases h with rfl | ⟨h0, -⟩ | ⟨h0, hp, -⟩ | ⟨h0, -⟩
  · rfl
  · exact absurd h0 h1
  · rcases h3 with h3 | h3
    · exact absurd h0 h3
    · simp [h3] at hp
  · exact absurd h0 h2

end Sys2Proof.Machine
end

