-- ==== Sys2Proof/Laws/Commands.lean ====
section
/-! SUPPORT. How a command is taken: the parameters of the command in execution, the hand-offs of a step that changes nothing or
little, and the shape of `runCommand`. -/

namespace Sys2Proof.Machine

/-! ### The command in execution -/

/-- A well-formed frame gives the command it names its parameters. -/
theorem commandParams_of {s : State} {code len : Byte} {params : List Byte} (h : s.executing = some (code :: len :: params))
    (hcode : commandCodes.contains code = true) (hlen : params.length = len.toNat) (hmax : len.toNat ≤ 38) :
    s.commandParams code = some params := by
  have : ¬ (38 < len.toNat) := by omega
  rw [List.contains_iff_mem] at hcode
  simp [State.commandParams, h, frameRefusal, Config.maxParameters, hlen, this, hcode]

theorem runCommand_of {s : State} {code : Byte} {body : List Byte → State → Reply} {params : List Byte}
    (h : s.commandParams code = some params) :
    s.runCommand code body
      = (s.settle (body params s).state (body params s).work).respond (body params s).code (body params s).data := by
  simp [State.runCommand, h]

theorem runCommand_not {s : State} {code : Byte} {body : List Byte → State → Reply} (h : s.commandParams code = none) :
    s.runCommand code body = s := by simp [State.runCommand, h]

/-! ### A transaction meets the port -/

/-- With a command in execution the port is EXECUTING, and a transaction that comes moves nothing of the port's own fields (R159). -/
theorem met_executing {s : State} (h : s.executing ≠ none) : s.portExecuting = true ∧ s.met = s := by
  have hp : s.portExecuting = true := by simp [State.portExecuting, Option.isSome_iff_ne_none.mpr h]
  exact ⟨hp, by simp [State.met, hp, h]⟩

/-- With no command in execution and none whose answer may be unwritten the port is IDLE (R160). -/
theorem met_idle {s : State} (h : s.executing = none) (hf : s.finishing = false) : s.portExecuting = false ∧ s.met = s := by
  refine ⟨by simp [State.portExecuting, h, hf], ?_⟩
  obtain ⟨⟩ := s
  simp_all [State.met]

/-- After a READ ATTENTION or a RESET CONTROL a transaction finds the port EXECUTING, or IDLE with the answer written; the free value
says which (log entry 23). -/
theorem met_finishing {s : State} (h : s.executing = none) (hf : s.finishing = true) :
    (s.portExecuting = true ∧ s.met = { s with choices := s.choices + 1 })
      ∨ (s.portExecuting = false ∧ s.met = { s with finishing := false, choices := s.choices + 1 }) := by
  cases hb : Config.beforeAnswer s.choices
  · exact .inr ⟨by simp [State.portExecuting, h, hb], by simp [State.met, State.portExecuting, h, hf, hb]⟩
  · exact .inl ⟨by simp [State.portExecuting, hf, hb], by simp [State.met, State.portExecuting, h, hf, hb]⟩

/-! ### Hand-offs that are not called for -/

theorem settle_nil {s0 s1 : State} (h : handoffs s0 s1 = []) : s0.settle s1 [] = s1 := by
  simp [State.settle, h, addWork, settleFuel, settleLoop]

theorem filterMap_put {α β : Type} {b : Nat} {t : Table α} (hc : Table.Canonical b t) (f : Nat × α → Option β) (n : Nat)
    (a : α) (h : f (n, a) = (Table.find t n).bind (fun x => f (n, x))) : (Table.put t n a).filterMap f = t.filterMap f := by
  obtain ⟨hp, -⟩ := hc
  induction t with
  | nil => simpa [Table.put] using h
  | cons e rest ih =>
    obtain ⟨k, x⟩ := e
    simp only [List.map_cons, List.pairwise_cons] at hp
    unfold Table.put
    split
    · rename_i hlt
      have hnone : Table.find ((k, x) :: rest) n = none := by
        rw [← Option.not_isSome_iff_eq_none, Option.isSome_iff_exists]
        rintro ⟨y, hy⟩
        rcases List.mem_cons.mp (Table.mem_of_find hy) with hm | hm
        · simp only [Prod.mk.injEq] at hm; omega
        · have := hp.1 n (List.mem_map_of_mem (f := Prod.fst) hm); omega
      rw [hnone] at h
      rw [List.filterMap_cons_none (by simpa using h)]
    · split
      · rename_i hnk
        subst hnk
        simp only [Table.find, if_true, Option.bind_some] at h
        rw [List.filterMap_cons, List.filterMap_cons, h]
      · rename_i h1 h2
        have hk : ¬ k = n := fun hh => h2 hh.symm
        simp only [Table.find, hk, if_false] at h
        have := ih h hp.2
        cases hf : f (k, x) <;> simp [hf, this]

/-- Writing a record that stands in the same links, state and last run state changes no group's view. -/
theorem groupView_setLoad {s : State} (hc : Table.Canonical 240 s.loads) {n : Nat} {r r' : LoadRecord}
    (hl : s.load n = some r) (h1 : r'.provides = r.provides) (h2 : r'.drawsA = r.drawsA) (h3 : r'.drawsB = r.drawsB)
    (h4 : r'.state = r.state) (h5 : r'.lastRun = r.lastRun) (g : Nat) : (s.setLoad n r').groupView g = s.groupView g := by
  unfold State.groupView State.providersByLoad State.consumers State.margin State.group
  unfold State.load at hl
  simp only [State.setLoad_loads, State.setLoad_groups, GroupView.mk.injEq, true_and]
  constructor
  · apply filterMap_put hc
    simp [hl, LoadRecord.providesTo, LoadRecord.supplies, h1, h4, h5]
  · apply filterMap_put hc
    simp [hl, LoadRecord.demandOn, LoadRecord.draws, h2, h3, h4, h5]

theorem hasEntry_of_mem {s : State} {e : Entry} (h : e ∈ s.queue) : s.hasEntry e.load = true := by
  unfold State.hasEntry
  exact List.any_eq_true.mpr ⟨e, h, by simp⟩

/-- When a change calls for no hand-off: no group's view, no entry, no feeder and no authority has changed, no record has
entered DUE or left STARTING, and no load has lost its last KEEP-OFF hold. -/
theorem handoffs_nil {s0 s1 : State} (h0 : Table.Canonical 240 s0.loads) (h1 : Table.Canonical 240 s1.loads)
    (ha : s1.authority = s0.authority) (hv : ∀ g, s1.groupView g = s0.groupView g)
    (hq : ∀ n, s1.hasEntry n = s0.hasEntry n) (hf : s1.feeders = s0.feeders)
    (hd : ∀ n, s1.stateOf n = some .due → s0.stateOf n = some .due)
    (hs : ∀ n, s0.stateOf n = some .starting → s1.stateOf n = some .starting)
    (hk : ∀ n, s0.keepOff n = true → (s1.load n).isSome = true → s1.keepOff n = true) : handoffs s0 s1 = [] := by
  have hdep : departed s0 s1 = [] := by
    unfold departed
    simp only [List.filter_eq_nil_iff, hq]
    intro e he
    simp [hasEntry_of_mem he]
  have hfind1 : ∀ e ∈ s1.loads, s1.load e.1 = some e.2 := fun e he => Table.find_of_mem h1 he
  have hfind0 : ∀ e ∈ s0.loads, s0.load e.1 = some e.2 := fun e he => Table.find_of_mem h0 he
  have e1 : dueHandoffs s0 s1 = [] := by
    unfold dueHandoffs
    simp only [List.map_eq_nil_iff, List.filter_eq_nil_iff]
    intro e he
    simp only [ha, Bool.and_eq_true, beq_iff_eq, Bool.or_eq_true, bne_iff_ne, ne_eq, not_true, false_or, not_and, not_not]
    intro hst
    exact hd _ (stateOf_eq.mpr ⟨_, hfind1 e he, hst⟩)
  have e2 : (s1.groups.map Prod.fst).flatMap (groupHandoffs s0 s1) = [] := by
    simp only [List.flatMap_eq_nil_iff, groupHandoffs, hv, if_true, implies_true]
  have e3 : removalHandoffs s0 s1 = [] := by simp [removalHandoffs, hdep]
  have e4 : barHandoffs s0 s1 = [] := by
    unfold barHandoffs
    have : s1.loads.filter (fun e => s0.keepOff e.1 && !s1.keepOff e.1) = [] := by
      simp only [List.filter_eq_nil_iff, Bool.and_eq_true, Bool.not_eq_true', not_and, Bool.not_eq_false]
      intro e he h
      exact hk _ h (by rw [hfind1 e he]; rfl)
    rw [this]; rfl
  have e5 : examinationDue s0 s1 = false := by
    unfold examinationDue
    simp only [hdep, List.any_nil, Bool.or_false, Bool.or_eq_false_iff]
    refine ⟨⟨?_, ?_⟩, ?_⟩
    · simp only [List.any_eq_false, ← hq]
      intro e he
      simp [hasEntry_of_mem he]
    · simp [feederFreed, hf]
    · simp only [List.any_eq_false, Bool.and_eq_true, beq_iff_eq, bne_iff_ne, ne_eq, not_and, not_not]
      intro e he hst
      exact hs _ (stateOf_eq.mpr ⟨_, hfind0 e he, hst⟩)
  simp [handoffs, e1, e2, e3, e4, e5]

theorem handoffs_self {s : State} (hc : Table.Canonical 240 s.loads) : handoffs s s = [] :=
  handoffs_nil hc hc rfl (fun _ => rfl) (fun _ => rfl) rfl (fun _ h => h) (fun _ h => h) (fun _ h _ => h)

/-- Writing a record that stands in the same links, state, last run state and isolator hold calls for no hand-off by itself. -/
theorem handoffs_setLoad {s : State} {n : Nat} {r r' : LoadRecord} (hc : Table.Canonical 240 s.loads) (hl : s.load n = some r) (h1 : r'.provides = r.provides)
    (h2 : r'.drawsA = r.drawsA) (h3 : r'.drawsB = r.drawsB) (h4 : r'.state = r.state) (h5 : r'.lastRun = r.lastRun)
    (h6 : r'.isolatorHold = r.isolatorHold) : handoffs s (s.setLoad n r') = [] := by
  have hst : ∀ m, (s.setLoad n r').stateOf m = s.stateOf m := fun m => by
    by_cases h : m = n
    · subst h; simp [State.stateOf, hl, h4]
    · simp [State.stateOf, h]
  refine handoffs_nil hc (Table.canonical_put hc (Table.lt_of_find hc hl) r') rfl (groupView_setLoad hc hl h1 h2 h3 h4 h5) (fun _ => rfl) rfl
    (fun m h => hst m ▸ h) (fun m h => (hst m).trans h) (fun m h _ => ?_)
  rw [← h]
  by_cases hm : m = n
  · subst hm; simp [State.keepOff, State.holdsOn, hl, h6]
  · simp [State.keepOff, State.holdsOn, hm]

/-- A change that touches neither the records, the holds, the groups, the queue, the feeders nor the authority calls for
no hand-off. -/
theorem handoffs_elsewhere {s0 s1 : State} (hc : Table.Canonical 240 s0.loads) (hl : s1.loads = s0.loads)
    (ha : s1.authority = s0.authority) (hh : s1.holds = s0.holds) (hg : s1.groups = s0.groups)
    (hq : s1.queue = s0.queue) (hf : s1.feeders = s0.feeders) : handoffs s0 s1 = [] := by
  have e1 : ∀ n, s1.load n = s0.load n := fun n => by unfold State.load; rw [hl]
  have e2 : ∀ n, s1.stateOf n = s0.stateOf n := fun n => by unfold State.stateOf; rw [e1]
  refine handoffs_nil hc (hl ▸ hc) ha ?_ ?_ hf (fun n h => e2 n ▸ h) (fun n h => (e2 n).symm ▸ h) ?_
  · intro g
    unfold State.groupView State.margin State.group State.providersByLoad State.consumers
    rw [hl, hg]
  · intro n; unfold State.hasEntry; rw [hq]
  · intro n h _
    unfold State.keepOff State.holdsOn at *
    rw [hh, e1]; exact h

/-- A command that changes none of these writes its answer over exactly the state it makes. -/
theorem runCommand_plain {s : State} {code : Byte} {body : List Byte → State → Reply} {params : List Byte}
    (h : s.commandParams code = some params) (hw : (body params s).work = [])
    (hh : handoffs s (body params s).state = []) :
    s.runCommand code body = ((body params s).state).respond (body params s).code (body params s).data := by
  rw [runCommand_of h, hw, settle_nil hh]

/-- The record of every load after a command with plain hand-offs, and what the command's answer leaves. -/
theorem runCommand_quiet {s : State} {code : Byte} {body : List Byte → State → Reply} {params : List Byte}
    (h : s.commandParams code = some params) (hw : ∀ w ∈ (body params s).work, w.plain) :
    ∃ t, s.runCommand code body = t.respond (body params s).code (body params s).data
      ∧ Quiet (body params s).state t := ⟨_, runCommand_of h, settle_quiet hw⟩

/-! ### A single hand-off -/

/-- The loop with one waiting hand-off: no choice is made. -/
theorem settleLoop_single (fuel : Nat) (w : Work) (s : State) :
    settleLoop (fuel + 1) [w] s
      = if w.idle s = true then s
        else settleLoop fuel (addWork [] ((w.run s).2 ++ handoffs s (w.run s).1)) (w.run s).1 := by
  by_cases h : w.idle s = true <;> simp [settleLoop, h, State.choose]

/-- The hand-offs of a step that calls for one alone. -/
theorem settle_single {s0 s1 : State} {work : List Work} {w : Work} (h : work ++ handoffs s0 s1 = [w]) :
    s0.settle s1 work
      = if w.idle s1 = true then s1
        else settleLoop 999999 (addWork [] ((w.run s1).2 ++ handoffs s1 (w.run s1).1)) (w.run s1).1 := by
  unfold State.settle
  rw [h]
  exact settleLoop_single 999999 w s1

end Sys2Proof.Machine
end

