-- ==== Sys2Proof/Laws/Operations.lean ====
section
/-! SUPPORT. What the shared operations of holds, reports, lines and plans do, said once: each touches the record of its own load
and no other (`…_load_ne`), and what it writes there; and the step that recomputes the authority (`settle_recompute`). -/

namespace Sys2Proof.Machine

variable {s : State} {n m : Nat} {r : LoadRecord}

/-! ### One record -/

/-- `modifyLoad` rewrites the record of its load alone. -/
theorem modifyLoad_load (f : LoadRecord → LoadRecord) (m : Nat) :
    (s.modifyLoad n f).load m = if m = n then (s.load n).map f else s.load m := by
  unfold State.modifyLoad
  cases hl : s.load n with
  | none => by_cases h : m = n <;> simp [h, hl]
  | some r => simp

theorem modifyLoad_load_ne (f : LoadRecord → LoadRecord) (h : m ≠ n) : (s.modifyLoad n f).load m = s.load m := by
  simp [modifyLoad_load, h]

/-- `writeOutcome` writes the outcome and nothing else of the record (R8, R48). -/
theorem writeOutcome_load (hl : s.load n = some r) (o : Operation) (x : OpResult) (m : Nat) :
    (s.writeOutcome n o x).load m
      = if m = n then some { r with lastOutcome := some { operation := o, result := x, time := s.stamp } }
        else s.load m := by
  simp [State.writeOutcome, hl]

theorem writeOutcome_load_ne (o : Operation) (x : OpResult) (h : m ≠ n) :
    (s.writeOutcome n o x).load m = s.load m := by
  unfold State.writeOutcome; split <;> simp [h]

/-- `removeLoad` leaves the slot VACANT and no other (R22). -/
theorem removeLoad_load (o : Operation × OpResult) (m : Nat) :
    (s.removeLoad n o).load m = if m = n then none else s.load m := by
  unfold State.removeLoad
  cases hl : s.load n with
  | none => by_cases h : m = n <;> simp [h, hl]
  | some r =>
    have := Table.find_drop s.loads n m
    simpa [State.load] using this

theorem removeLoad_load_ne (o : Operation × OpResult) (h : m ≠ n) : (s.removeLoad n o).load m = s.load m := by
  simp [removeLoad_load, h]

/-- What `removeLoad` writes beside the slot: its outcome, its mark and its line (R22, R152, R154). -/
theorem removeLoad_rest (hl : s.load n = some r) (o : Operation × OpResult) :
    (s.removeLoad n o).slotOutcomes = Table.put s.slotOutcomes n (s.outcomeOf o)
      ∧ (s.removeLoad n o).marks = NatSet.add s.marks n
      ∧ (s.removeLoad n o).lines = s.lines.set r.line ((s.lineAt r.line).forget n r.address)
      ∧ (s.removeLoad n o).holds = s.holds ∧ (s.removeLoad n o).groups = s.groups
      ∧ (s.removeLoad n o).queue = s.queue ∧ (s.removeLoad n o).feeders = s.feeders := by
  simp [State.removeLoad, hl]

/-! ### Start requests -/

/-- R123: an entered request moves its record to QUEUED and no other. -/
theorem enqueue_load (hl : s.load n = some r) (c : StartClass) (m : Nat) :
    (s.enqueue n c).load m = if m = n then some (r.entering .queued s.timeBase) else s.load m := by
  exact moveTo_load (s := { s with queue := placeEntry (s.newEntry n c) s.queue, arrivals := s.arrivals + 1 })
    (new := .queued) (out := none) hl m

theorem enqueue_load_ne (c : StartClass) (h : m ≠ n) : (s.enqueue n c).load m = s.load m := by
  unfold State.enqueue; exact moveTo_load_ne h

/-- R123, R140: a member that a wake slot offers is queued, or writes START MISSED at a full queue, or is passed over. -/
theorem offerWake_cases (s : State) (n : Nat) :
    (s.stateOf n = some .stopped ∧ s.keepOff n = false ∧ s.queue.length < 32 ∧ s.offerWake n = s.enqueue n .wake)
      ∨ (s.stateOf n = some .stopped ∧ s.keepOff n = false ∧ 32 ≤ s.queue.length
          ∧ s.offerWake n = s.writeOutcome n .start .missed)
      ∨ ((s.stateOf n ≠ some .stopped ∨ s.keepOff n = true) ∧ s.offerWake n = s) := by
  unfold State.offerWake State.startOffer
  by_cases h : s.stateOf n = some .stopped ∧ s.keepOff n = false
  · by_cases hq : s.queue.length < Config.queueEntries
    · exact .inl ⟨h.1, h.2, hq, by simp [h, hq]⟩
    · exact .inr (.inl ⟨h.1, h.2, Nat.le_of_not_lt hq, by simp [h, hq]⟩)
  · refine .inr (.inr ⟨?_, by simp [h]⟩)
    by_cases h1 : s.stateOf n = some .stopped
    · right; simpa [h1] using h
    · exact .inl h1

theorem offerWake_load_ne (h : m ≠ n) : (s.offerWake n).load m = s.load m := by
  rcases offerWake_cases s n with ⟨-, -, -, e⟩ | ⟨-, -, -, e⟩ | ⟨-, e⟩ <;> rw [e]
  · exact enqueue_load_ne _ h
  · exact writeOutcome_load_ne _ _ h

theorem offerButton_load_ne (h : m ≠ n) : (s.offerButton n).load m = s.load m := by
  unfold State.offerButton
  split
  · exact enqueue_load_ne _ h
  · exact writeOutcome_load_ne _ _ h
  · exact writeOutcome_load_ne _ _ h

/-! ### Evaluations and holds -/

/-- An evaluation leaves a DUE record judged under the authority in force: its first failing condition written, or STOPPING entered
(R56, R57, R58). -/
theorem evaluate_judged (hl : s.load n = some r) (hd : r.state = .due) :
    ∃ r', (s.evaluate n).load n = some r' ∧ s.Judged s.authority n r r' := by
  rcases Decidable.em (s.permission n r = .none) with hp | hp
  · refine ⟨r.entering .stopping s.timeBase, by simp [State.evaluate, hl, hd, hp, moveTo_load hl, State.movedRecord], fun E hE => ?_⟩
    simp only [State.permission, State.effectiveAuthority, ← hE] at hp
    by_cases h0 : E = 0
    · simp [h0] at hp
    by_cases h1 : (s.keepRunLevels n).all (fun l => l < E) = false
    · simp [h0, h1] at hp
    by_cases h2 : s.timeBase < r.runSince + r.tuning.minimumRun * 60
    · simp [h0, h1, h2] at hp
    simp only [Bool.not_eq_false, List.all_eq_true, decide_eq_true_eq] at h1
    exact ⟨fun h => absurd h h0, fun _ ⟨l, hm, hle⟩ => absurd (h1 l hm) (by omega),
      fun _ _ => ⟨fun h => absurd h h2, fun _ => .inl (by simp [LoadRecord.entering, hd, commandedOn])⟩⟩
  · refine ⟨{ r with blockReason := s.permission n r }, by simp [State.evaluate, hl, hd, hp], fun E hE => ?_⟩
    simp only [State.permission, State.effectiveAuthority, ← hE] at hp ⊢
    refine ⟨fun h => by simp [h], fun h0 ⟨l, hm, hle⟩ => ?_, fun h0 hall => ⟨fun hmin => ?_, fun hmin => ?_⟩⟩
    · have h1 : (s.keepRunLevels n).all (fun l => l < E) = false := by
        simp only [List.all_eq_false, decide_eq_true_eq]
        exact ⟨l, hm, by omega⟩
      simp [Nat.ne_of_gt h0, h1]
    · have h1 : (s.keepRunLevels n).all (fun l => l < E) = true := by simpa using hall
      simp [Nat.ne_of_gt h0, h1, hmin]
    · have h1 : (s.keepRunLevels n).all (fun l => l < E) = true := by simpa using hall
      have h2 : ¬ s.timeBase < r.runSince + r.tuning.minimumRun * 60 := by omega
      simp only [Nat.ne_of_gt h0, h1, h2, if_false, Bool.true_eq_false] at hp ⊢
      right
      cases hpr : r.provides with
      | none => simp [State.spared, State.otherStopping, hpr] at hp
      | some p =>
        refine ⟨by simp, ?_⟩
        by_cases h3 : s.spared r = false
        · simp [h3]
        · by_cases h4 : s.otherStopping n r = true
          · simp [h3, h4]
          · simp [h3, h4] at hp

/-- An evaluation leaves a DUE record `Evaluated` at the state it is taken in. -/
theorem evaluate_evaluated (hl : s.load n = some r) (hd : r.state = .due) :
    ∃ r', (s.evaluate n).load n = some r' ∧ s.Evaluated n r r' := by
  rcases Decidable.em (s.permission n r = .none) with hp | hp
  · exact ⟨r.entering .stopping s.timeBase, by simp [State.evaluate, hl, hd, hp, moveTo_load hl, State.movedRecord],
      fun _ => by simp [LoadRecord.entering, hd, commandedOn], fun h => absurd hp h⟩
  · exact ⟨{ r with blockReason := s.permission n r }, by simp [State.evaluate, hl, hd, hp], fun h => absurd h hp, fun _ => rfl⟩

theorem evaluate_load_ne (h : m ≠ n) : (s.evaluate n).load m = s.load m := by
  unfold State.evaluate
  repeat' split
  all_goals first | rfl | exact moveTo_load_ne h | simp [h]

theorem overtake_load_ne (level : Nat) (h : m ≠ n) : (s.overtake n level).load m = s.load m := by
  unfold State.overtake
  repeat' split
  all_goals first | rfl | exact moveTo_load_ne h

theorem keepOffAppears_load_ne (h : m ≠ n) : (s.keepOffAppears n).load m = s.load m := by
  unfold State.keepOffAppears
  repeat' split
  all_goals first | rfl | exact moveTo_load_ne h

/-- R84: the leaving of a KEEP-OFF hold touches no record. -/
theorem keepOffLeft_load (m : Nat) : (s.keepOffLeft n).load m = s.load m := by
  unfold State.keepOffLeft; split <;> rfl

theorem holdActs_load_ne (sense : HoldSense) (h : m ≠ n) : (s.holdActs n sense).state.load m = s.load m := by
  unfold State.holdActs
  split
  · exact keepOffAppears_load_ne h
  · exact overtake_load_ne _ h

/-- R82, R84: a hold that has left touches no record in its own change. -/
theorem holdLeft_load (sense : HoldSense) (m : Nat) : (s.holdLeft n sense).state.load m = s.load m := by
  unfold State.holdLeft
  split
  · exact keepOffLeft_load m
  · rfl

/-! ### Reports -/

theorem followIsolator_load_ne (b : Bool) (h : m ≠ n) : (s.followIsolator n b).load m = s.load m := by
  unfold State.followIsolator
  split
  · rfl
  · split
    · rfl
    · dsimp only
      split
      · rw [keepOffAppears_load_ne h]; simp [h]
      · rw [keepOffLeft_load]; simp [h]

theorem firstReport_load_ne (rep : Report) (h : m ≠ n) : (s.firstReport n rep).load m = s.load m := by
  unfold State.firstReport
  simp only
  rw [moveTo_load_ne h, followIsolator_load_ne _ h, modifyLoad_load_ne _ h]

theorem localStep_load_ne (rep : Report) (h : m ≠ n) : (s.localStep n rep).load m = s.load m := by
  unfold State.localStep
  repeat' split
  all_goals first | rfl | exact moveTo_load_ne h

theorem placeButtonHold_load_ne (h : m ≠ n) : (s.placeButtonHold n).load m = s.load m := by
  simp [State.placeButtonHold, modifyLoad_load_ne _ h]

theorem press_load_ne (b : Bool) (h : m ≠ n) : (s.press n b).load m = s.load m := by
  unfold State.press
  repeat' split
  all_goals
    first
      | rfl
      | exact placeButtonHold_load_ne h
      | exact (evaluate_load_ne h).trans (placeButtonHold_load_ne h)
      | exact (overtake_load_ne 1 h).trans (placeButtonHold_load_ne h)
      | exact offerButton_load_ne h

theorem buttonStep_load_ne (rep : Report) (b : Bool) (h : m ≠ n) : (s.buttonStep n rep b).load m = s.load m := by
  unfold State.buttonStep
  repeat' split
  all_goals first | rfl | (rw [press_load_ne b h]; simp [h])

theorem retireStep_load_ne (rep : Report) (c : Commanded) (h : m ≠ n) : (s.retireStep n r rep c).load m = s.load m := by
  unfold State.retireStep
  repeat' split
  all_goals first | exact removeLoad_load_ne _ h | simp [h]

theorem runStep_load_ne (rep : Report) (c : Commanded) (h : m ≠ n) : (s.runStep n rep c).load m = s.load m := by
  unfold State.runStep
  repeat' split
  all_goals
    first
      | rfl
      | exact moveTo_load_ne h
      | exact (modifyLoad_load_ne _ h).trans (moveTo_load_ne h)
      | exact retireStep_load_ne _ _ h

theorem laterReport_load_ne (old : LoadState) (rep : Report) (c : Commanded) (h : m ≠ n) :
    (s.laterReport n old rep c).load m = s.load m := by
  unfold State.laterReport
  dsimp only
  repeat' split
  all_goals
    simp only [runStep_load_ne _ _ h, buttonStep_load_ne _ _ h, localStep_load_ne _ h, followIsolator_load_ne _ h,
      modifyLoad_load_ne _ h]

/-- R117: leaving the failed-raise sets touches no record. -/
@[simp] theorem ranByReport_load (s : State) (n : Nat) (old : LoadState) (m : Nat) :
    (s.ranByReport n old).load m = s.load m := by
  unfold State.ranByReport; split <;> rfl

/-- A report acts on the record of its own load alone (R49). -/
theorem report_load_ne (rep : Report) (c : Commanded) (h : m ≠ n) : (s.report n rep c).load m = s.load m := by
  unfold State.report
  split
  · rfl
  · dsimp only
    rw [ranByReport_load]
    split
    · rw [firstReport_load_ne rep h]; simp [h]
    · rw [laterReport_load_ne _ rep c h]; simp [h]

/-! ### Loss, disabling and the end of an exchange -/

theorem loseLoad_load_ne (h : m ≠ n) : (s.loseLoad n).load m = s.load m := by
  unfold State.loseLoad
  repeat' split
  all_goals first | rfl | exact moveTo_load_ne h | exact removeLoad_load_ne _ h | simp [h]

theorem abandonLoad_load_ne (h : m ≠ n) : (s.abandonLoad n).load m = s.load m := by
  unfold State.abandonLoad
  split
  · rfl
  · dsimp only
    split
    all_goals first | (simp [h]) | (rw [removeLoad_load_ne _ h]; simp [h]) | (rw [moveTo_load_ne h]; simp [h])

theorem declareLost_load_ne (l : Fin 4) (a : Nat) (h : m ≠ n) : (s.declareLost l n a).load m = s.load m := by
  unfold State.declareLost; rw [loseLoad_load_ne h]; simp

theorem failDrop_load_ne (l : Fin 4) (h : m ≠ n) : (s.failDrop l n).load m = s.load m := by
  unfold State.failDrop
  split
  · rfl
  · dsimp only
    repeat' split
    all_goals
      first
        | (rw [removeLoad_load_ne _ h]; simp [h])
        | (rw [declareLost_load_ne _ _ h]; simp [h])
        | simp [h]

theorem validDrop_load_ne (l : Fin 4) (a : Nat) (rep : Report) (c : Commanded) (h : m ≠ n) :
    (s.validDrop l n a rep c).load m = s.load m := by
  unfold State.validDrop
  dsimp only
  rw [report_load_ne rep c h, load_setLine, modifyLoad_load_ne _ h]

/-- The end of an exchange acts on the record it polled alone (R149 to R151); an exchange without a record acts on none. -/
theorem endExchange_load_ne (l : Fin 4) (chars : List RxChar)
    (h : ∀ e, (s.lineAt l).exchange = some e → e.load ≠ some m) : (s.endExchange l chars).load m = s.load m := by
  unfold State.endExchange
  split
  · rfl
  · rename_i e he
    dsimp only
    split
    · rfl
    · rename_i n hn
      have hm : m ≠ n := fun hh => h e he (by rw [hn, hh])
      split
      all_goals first | (rw [validDrop_load_ne _ _ _ _ hm]; simp) | (rw [failDrop_load_ne _ hm]; simp)

/-- A period end acts on its own record alone (R26). -/
theorem periodEndOf_load_ne (h : m ≠ n) : (s.periodEndOf n).load m = s.load m := by
  unfold State.periodEndOf
  dsimp only
  repeat' split
  all_goals
    first
      | rfl
      | (rw [moveTo_load_ne h]; simp [h])
      | (simp [h])

/-! ### Plans and the authority -/

/-- Finding a wake plan after a write of one. -/
@[simp] theorem plan_setPlan (s : State) (p q : Nat) (x : WakePlan) :
    (s.setPlan p x).plan q = if q = p then some x else s.plan q := Table.find_put s.plans p q x

/-- The computed authority reads the clock, the day types, the windows and the plans alone (R97). -/
theorem computedAuthority_congr {s t : State} (hc : t.clock = s.clock) (ho : t.todayOverride = s.todayOverride)
    (hd : t.dayMap = s.dayMap) (hy : t.yesterday = s.yesterday) (hw : t.windows = s.windows) (hp : t.plans = s.plans) :
    t.computedAuthority = s.computedAuthority := by
  unfold State.computedAuthority State.guarded State.windowAuthority State.covering State.todayType State.window
  rw [hc, ho, hd, hy, hw, hp]

@[simp] theorem computedAuthority_recompute (s : State) : s.recompute.computedAuthority = s.computedAuthority := rfl

/-- What plain hand-offs keep, for the loop from any waiting list. -/
theorem settleLoop_quiet {s0 : State} (fuel : Nat) {ws : List Work} {s : State} (hw : ∀ w ∈ ws, w.plain) (h : Quiet s0 s) :
    Quiet s0 (settleLoop fuel ws s) := by
  refine settleLoop_induction (P := Quiet s0) (Q := Work.plain)
    (fun _ _ h => h.of_same rfl rfl rfl rfl rfl (fun _ => rfl) rfl) ?_ ?_ fuel ws s hw h
  · intro w s hw h
    cases w with
    | evaluate n => exact h.evaluate n
    | testGroup g => exact h.testGroup g
    | examine =>
      show Quiet s0 s.examine
      unfold State.examine
      generalize s.queue = q
      induction q generalizing s with
      | nil => exact h
      | cons e rest ih => exact ih _ (h.examineEntry e)
    | recompute => exact absurd hw (by simp [Work.plain])
    | periodEnd _ => exact absurd hw (by simp [Work.plain])
    | activate _ => exact absurd hw (by simp [Work.plain])
    | offer _ => exact absurd hw (by simp [Work.plain])
  · intro w s hw _ x hx
    rw [run_plain_work hw, List.nil_append] at hx
    exact handoffs_plain _ _ x hx

/-- A step that calls for one evaluation alone: what it makes of the record stands, whatever follows. -/
theorem settle_evaluate {s0 : State} (hc : Table.Canonical 240 s.loads) (h : handoffs s0 s = []) (hl : s.load n = some r)
    (hd : r.state = .due) :
    ∃ r', (s0.settle s [.evaluate n]).load n = some r' ∧ s.Evaluated n r r' ∧ s.Judged s.authority n r r' := by
  have hi : Work.idle (.evaluate n) s = false := by simp [Work.idle, State.stateOf, hl, hd]
  rw [settle_single (w := .evaluate n) (by simp [h])]
  simp only [hi, Bool.false_eq_true, if_false, Work.run, List.nil_append]
  obtain ⟨r', hr', he⟩ := evaluate_evaluated hl hd
  obtain ⟨r'', hr'', hj⟩ := evaluate_judged hl hd
  obtain rfl : r' = r'' := Option.some.inj (hr'.symm.trans hr'')
  refine ⟨r', ?_, he, hj⟩
  rcases Decidable.em (s.permission n r = .none) with hp | hp
  · have hq := settleLoop_quiet (s0 := s.evaluate n) 999999 (ws := addWork [] (handoffs s (s.evaluate n)))
      (fun w hw => handoffs_plain _ _ w ((mem_addWork hw).resolve_left (by simp))) (Quiet.refl _)
    obtain ⟨x, hx, hh⟩ := hq.record (((Quiet.refl s).evaluate n).canonical hc) n r' hr'
    have hs : r'.state = .stopping := by rw [he.1 hp]
    rw [hx, hh.still (by simp [hs]) (by simp [hs]) (.inl (by simp [hs]))]
  · have hw : handoffs s (s.evaluate n) = [] := by
      have : s.evaluate n = s.setLoad n { r with blockReason := s.permission n r } := by simp [State.evaluate, hl, hd, hp]
      rw [this]
      exact handoffs_setLoad hc hl rfl rfl rfl rfl rfl rfl
    simpa [hw, addWork, settleLoop] using hr'

/-- The authority after plain hand-offs is still the computed one. -/
theorem Quiet.computedAuthority {s0 s : State} (h : Quiet s0 s) : s.computedAuthority = s0.computedAuthority := by
  obtain ⟨-, -, hc, hd, ho, hy, hw, -⟩ := frozen_field h.frozen
  exact computedAuthority_congr hc ho hd hy hw h.plans

/-- A step that calls for a recomputation alone: it is taken first, and the hand-offs that it calls for are plain (R98). -/
theorem settle_recompute {s0 s1 : State} (h : handoffs s0 s1 = []) : Quiet s1.recompute (s0.settle s1 [.recompute]) := by
  rw [settle_single (w := .recompute) (by simp [h])]
  split
  · rename_i hi
    have hi : s1.authority = s1.computedAuthority := by simpa [Work.idle] using hi
    have : s1.recompute = s1 := by unfold State.recompute; rw [← hi]
    rw [this]; exact Quiet.refl s1
  · refine settleLoop_quiet _ ?_ (Quiet.refl _)
    intro w hw
    rcases mem_addWork hw with hw | hw
    · simp at hw
    · exact handoffs_plain _ _ w (by simpa [Work.run] using hw)

/-- R98: after such a step the authority is the computed one. -/
theorem settle_recompute_authority {s0 s1 : State} (h : handoffs s0 s1 = []) :
    (s0.settle s1 [.recompute]).authority = (s0.settle s1 [.recompute]).computedAuthority := by
  have hq := settle_recompute h
  rw [hq.computedAuthority, hq.authority]
  rfl

end Sys2Proof.Machine
end

