-- ==== Sys2Proof/Laws/Examination.lean ====
section
/-! SUPPORT. What an examination of the queue can do, said once (`Examining`), and the step that calls for one alone
(`settle_examine`; R126, R127, R128). -/

namespace Sys2Proof.Machine

variable {s : State}

/-- What an examination that began in `s` keeps, entry by entry: a load loses its entry only by a grant, and while no entry has
left nothing but wait reasons has changed. -/
structure Examining (s t : State) : Prop where
  canonical : Table.Canonical 240 t.loads
  authority : t.authority = s.authority
  undefined : s.groups = [] → t.groups = []
  keepOff : ∀ m, t.keepOff m = s.keepOff m
  state : ∀ m, t.stateOf m = s.stateOf m ∨ (s.stateOf m = some .queued ∧ t.stateOf m = some .starting)
  entry : ∀ m, t.hasEntry m = true → s.hasEntry m = true
  gone : ∀ m, s.hasEntry m = true → t.hasEntry m = true ∨ t.stateOf m = some .starting
  feeders : ∀ f : Fin 8, t.feeders[f] = .free → s.feeders[f] = .free
  room : t.queue.length ≤ s.queue.length
  still : t.queue.length = s.queue.length →
    t.loads = s.loads ∧ t.groups = s.groups ∧ t.feeders = s.feeders ∧ ∀ m, t.hasEntry m = s.hasEntry m

theorem hasEntry_setReason (s : State) (k : Nat) (w : WaitReason) (m : Nat) : (s.setReason k w).hasEntry m = s.hasEntry m := by
  unfold State.hasEntry State.setReason
  simp only [List.any_map]
  congr 1
  funext e
  simp only [Function.comp]
  split <;> rfl

theorem hasEntry_dropEntry (s : State) (k m : Nat) : (s.dropEntry k).hasEntry m = (s.hasEntry m && m != k) := by
  rw [Bool.eq_iff_iff]
  simp only [State.hasEntry, State.dropEntry, List.any_filter, List.any_eq_true, Bool.and_eq_true, bne_iff_ne, beq_iff_eq]
  constructor
  · rintro ⟨e, he, h1, h2⟩; exact ⟨⟨e, he, h2⟩, h2 ▸ h1⟩
  · rintro ⟨⟨e, he, h2⟩, h1⟩; exact ⟨e, he, h2 ▸ h1, h2⟩

/-- What the walk does at one entry keeps it. -/
theorem Examining.entryStep {t : State} (h : Examining s t) {e : Entry} (he : s.hasEntry e.load = true) :
    Examining s (t.examineEntry e) := by
  unfold State.examineEntry
  split
  · exact h
  rename_i r hl
  split
  swap
  · exact h
  rename_i hq
  split
  · have hqs : t.stateOf e.load = some .queued := stateOf_eq.mpr ⟨r, hl, hq⟩
    have hin : t.hasEntry e.load = true := (h.gone _ he).resolve_right (by simp [hqs])
    have hst : ∀ m, (t.grant e.load).stateOf m = if m = e.load then some .starting else t.stateOf m := fun m => by
      unfold State.grant State.stateOf
      rw [moveTo_load hl]
      split <;> simp
    have hqq : (t.grant e.load).queue = (t.dropEntry e.load).queue := by
      unfold State.grant State.moveTo
      simp only [hl, hq, if_true, reduceCtorEq, if_false]
      split <;> rfl
    have hen : ∀ m, (t.grant e.load).hasEntry m = (t.hasEntry m && m != e.load) := fun m => by
      rw [← hasEntry_dropEntry]; unfold State.hasEntry; rw [hqq]
    have hlen : (t.grant e.load).queue.length < t.queue.length := by
      rw [hqq]
      obtain ⟨x, hx, hxl⟩ := List.any_eq_true.mp hin
      exact List.length_filter_lt_length_iff_exists.mpr ⟨x, hx, by simpa using hxl⟩
    have hqe := h.state e.load
    refine ⟨moveTo_canonical h.canonical, (moveTo_settled _ _ _ _).2.trans h.authority, fun hg => ?_, fun m => ?_, fun m => ?_,
      fun m hm => ?_, fun m hm => ?_, fun f hf => ?_, le_trans hlen.le h.room, fun hx => absurd hx (by have := h.room; omega)⟩
    · have := h.undefined hg
      unfold State.grant State.moveTo
      simp only [hl]
      simp [State.groupsFollow, Table.mapEach]
      split <;> split <;> simp_all [State.offerUrgent, State.occupyFeeder, State.dropEntry]
    · rw [← h.keepOff m]
      have hho : (t.grant e.load).holds = t.holds := by
        obtain ⟨-, -, -, -, -, -, -, -, -, -, -, hh, -⟩ := frozen_field (frozen_moveTo t e.load .starting none)
        exact hh
      unfold State.keepOff State.holdsOn
      rw [hho]
      congr 1
      unfold State.grant
      rw [moveTo_load hl]
      by_cases hm : m = e.load
      · subst hm; simp [hl, State.movedRecord, LoadRecord.entering]
      · simp [hm]
    · rw [hst]
      split
      · rename_i hm
        subst hm
        rcases h.state e.load with h1 | ⟨-, h1⟩
        · exact .inr ⟨h1 ▸ hqs, rfl⟩
        · simp [hqs] at h1
      · exact h.state m
    · rw [hen] at hm
      exact h.entry m (by simp_all)
    · rw [hen, hst]
      by_cases hme : m = e.load
      · simp [hme]
      · simpa [hme] using h.gone m hm
    · by_cases hfr : f = r.feeder
      · subst hfr
        unfold State.grant State.moveTo at hf
        simp only [hl, hq, if_true, reduceCtorEq, if_false] at hf
        split at hf <;> simp [State.groupsFollow, State.offerUrgent, State.occupyFeeder, State.setLine] at hf
      · exact h.feeders f ((moveTo_feeders hl f (.inr hfr) (.inr hfr)).symm.trans hf)
  · refine ⟨h.canonical, h.authority, h.undefined, h.keepOff, h.state, fun m hm => h.entry m (hasEntry_setReason t _ _ m ▸ hm),
      fun m hm => (h.gone m hm).imp_left (fun x => (hasEntry_setReason t _ _ m).trans x), h.feeders, by simpa [State.setReason] using h.room, fun hx => ?_⟩
    obtain ⟨a, b, c, d⟩ := h.still (by simpa [State.setReason] using hx)
    exact ⟨a, b, c, fun m => (hasEntry_setReason t _ _ m).trans (d m)⟩

/-- One examination, whole. -/
theorem examine_examining (hc : Table.Canonical 240 s.loads) : Examining s s.examine := by
  have key : ∀ (q : List Entry) (t : State), (∀ e ∈ q, s.hasEntry e.load = true) → Examining s t →
      Examining s (q.foldl State.examineEntry t) := by
    intro q
    induction q with
    | nil => exact fun _ _ h => h
    | cons e rest ih =>
      exact fun t hq h => ih _ (fun x hx => hq x (List.mem_cons_of_mem _ hx)) (h.entryStep (hq e List.mem_cons_self))
  exact key s.queue s (fun e he => hasEntry_of_mem he)
    ⟨hc, rfl, id, fun _ => rfl, fun _ => .inl rfl, fun _ h => h, fun _ h => .inl h, fun _ h => h, le_rfl,
      fun _ => ⟨rfl, rfl, rfl, fun _ => rfl⟩⟩

/-- With no group to tell, or nothing granted, an examination calls for no further hand-off. -/
theorem examine_handoffs (hc : Table.Canonical 240 s.loads)
    (hg : s.groups = [] ∨ s.examine.queue.length = s.queue.length) : handoffs s s.examine = [] := by
  have h := examine_examining hc
  rcases hg with hg | hg
  · have hg' := h.undefined hg
    have hload : ∀ e ∈ s.examine.loads, s.examine.stateOf e.1 = some e.2.state := fun e he =>
      stateOf_eq.mpr ⟨_, Table.find_of_mem h.canonical he, rfl⟩
    have e1 : dueHandoffs s s.examine = [] := by
      unfold dueHandoffs
      simp only [List.map_eq_nil_iff, List.filter_eq_nil_iff]
      intro e he
      have h1 := hload e he
      simp only [h.authority, Bool.and_eq_true, beq_iff_eq, Bool.or_eq_true, bne_iff_ne, ne_eq, not_true, false_or, not_and, not_not]
      intro hst
      rcases h.state e.1 with h2 | ⟨-, h2⟩
      · rw [← h2, h1, hst]
      · simp [h1, hst] at h2
    have e4 : barHandoffs s s.examine = [] := by simp [barHandoffs, h.keepOff]
    have e5 : examinationDue s s.examine = false := by
      unfold examinationDue
      simp only [Bool.or_eq_false_iff, List.any_eq_false]
      refine ⟨⟨⟨fun e he => ?_, fun e he => ?_⟩, ?_⟩, fun e he => ?_⟩
      · simp [h.entry _ (hasEntry_of_mem he)]
      · obtain ⟨h1, h2⟩ := List.mem_filter.mp he
        have := (h.gone _ (hasEntry_of_mem h1)).resolve_left (by simpa using h2)
        simp [this]
      · simp only [feederFreed, List.any_eq_false, Bool.and_eq_true, bne_iff_ne, beq_iff_eq, not_and]
        exact fun f _ h1 h2 => h1 (h.feeders f h2)
      · simp only [Bool.and_eq_true, beq_iff_eq, bne_iff_ne, not_and, not_not]
        intro hst
        have h0 : s.stateOf e.1 = some .starting := stateOf_eq.mpr ⟨_, Table.find_of_mem hc he, hst⟩
        rcases h.state e.1 with h2 | ⟨h2, -⟩
        · rw [h2, h0]
        · simp [h0] at h2
    simp [handoffs, e1, e4, e5, hg', removalHandoffs, shortTests]
  · obtain ⟨hl, hgr, hf, he⟩ := h.still hg
    have hst : ∀ m, s.examine.stateOf m = s.stateOf m := fun m => by unfold State.stateOf State.load; rw [hl]
    exact handoffs_nil hc h.canonical h.authority
      (fun g => by
        unfold State.groupView State.providersByLoad State.consumers State.margin State.group
        rw [hl, hgr])
      he hf (fun m h => hst m ▸ h) (fun m h => (hst m).trans h) (fun m hm _ => (h.keepOff m).trans hm)

/-- A step that calls for one examination alone, in a part with no group to tell, or where it grants nothing, is that
examination. -/
theorem settle_examine {s0 : State} (hc : Table.Canonical 240 s.loads) (h : handoffs s0 s = [])
    (hg : s.groups = [] ∨ s.examine.queue.length = s.queue.length) : s0.settle s [.examine] = s.examine := by
  rw [settle_single (w := .examine) (by simp [h])]
  split
  · rename_i hi
    have : s.queue = [] := by simpa [Work.idle] using hi
    simp [State.examine, this]
  · simp [Work.run, examine_handoffs hc hg, addWork, settleLoop]
end Sys2Proof.Machine
end

