-- ==== Sys2Proof/Laws/Graph.lean ====
section
/-! SUPPORT. The model's test of the dependency graph (R106, R13 step 9) is the rule's own property: no cycle and no chain of more
than four groups. -/

namespace Sys2Proof.Machine

variable {edges : List (Nat × Nat)}

/-- A walk of `k` edges from `g` is a chain of `k + 1` groups that begins with `g`. -/
theorem walkFrom_iff (k g : Nat) :
    walkFrom edges k g = true ↔ ∃ l, l.length = k ∧ (g :: l).IsChain (fun a b => (a, b) ∈ edges) := by
  induction k generalizing g with
  | zero => simp [walkFrom]
  | succ k ih =>
    simp only [walkFrom, List.any_eq_true, Bool.and_eq_true, beq_iff_eq]
    constructor
    · rintro ⟨⟨a, b⟩, he, rfl, hw⟩
      obtain ⟨l, hl, hc⟩ := (ih b).1 hw
      exact ⟨b :: l, by simp [hl], List.isChain_cons_cons.2 ⟨he, hc⟩⟩
    · rintro ⟨l, hl, hc⟩
      cases l with
      | nil => simp at hl
      | cons b l =>
        obtain ⟨he, hc⟩ := List.isChain_cons_cons.1 hc
        exact ⟨(g, b), he, rfl, (ih b).2 ⟨l, by simpa using hl, hc⟩⟩

/-- From a group on a cycle there are walks of every length. -/
theorem walkFrom_of_cycle {g : Nat} (h : Relation.TransGen (fun a b => (a, b) ∈ edges) g g) (k x : Nat)
    (hx : Relation.TransGen (fun a b => (a, b) ∈ edges) x g) : walkFrom edges k x = true := by
  induction k generalizing x with
  | zero => rfl
  | succ k ih =>
    obtain ⟨y, hxy, hy⟩ := Relation.TransGen.head'_iff.1 hx
    have hyg : Relation.TransGen (fun a b => (a, b) ∈ edges) y g := by
      rcases Relation.reflTransGen_iff_eq_or_transGen.1 hy with rfl | h' <;> assumption
    exact List.any_eq_true.2 ⟨(x, y), hxy, by simp [ih y hyg]⟩

/-- R106: the test refuses a graph exactly where it has a cycle or a chain of more than four groups. -/
theorem graphRefused_eq_false_iff : graphRefused edges = false ↔ GraphSound edges := by
  have key : graphRefused edges = true ↔ ∃ g, ∃ l, l.length = 4 ∧ (g :: l).IsChain (fun a b => (a, b) ∈ edges) := by
    simp only [graphRefused, List.any_eq_true, walkFrom_iff, Config.chainGroups]
    constructor
    · rintro ⟨e, -, l, hl⟩; exact ⟨e.1, l, hl⟩
    · rintro ⟨g, l, hl, hc⟩
      cases l with
      | nil => simp at hl
      | cons b l => exact ⟨(g, b), (List.isChain_cons_cons.1 hc).1, b :: l, hl, hc⟩
  rw [← Bool.not_eq_true, key]
  constructor
  · refine fun h => ⟨fun g hg => h ?_, fun chain hc => ?_⟩
    · obtain ⟨l, hl⟩ := (walkFrom_iff 4 g).1 (walkFrom_of_cycle hg 4 g hg)
      exact ⟨g, l, hl⟩
    · by_contra hlt
      obtain ⟨g, l, rfl⟩ : ∃ g l, chain = g :: l := by
        cases chain with
        | nil => simp at hlt
        | cons g l => exact ⟨g, l, rfl⟩
      refine h ⟨g, l.take 4, by simp at hlt ⊢; omega, ?_⟩
      simpa using hc.take 5
  · rintro h ⟨g, l, hl, hc⟩
    have := h.short _ hc
    simp [hl] at this

end Sys2Proof.Machine
end

