-- ==== Sys2Proof/WellFormed.lean ====
section
/-! DEFINITION. Which terms are commands and events that can occur: the ranges of the numbers they carry and the form of the bits
and characters they carry. `exec` is total: on a term that is not well formed it does what the same rule says of nothing there. -/

namespace Sys2Proof

/-- R158: a transaction that is a command frame: a first whole byte other than 1. -/
def frameWellFormed (mosi : List Bool) : Bool :=
  match Machine.wholeBytes mosi with
  | [] => false
  | b :: _ => b != 1

/-- R149: a reply that has ended: one to six characters, of which only the last may be malformed. -/
def replyWellFormed (samples : List (BitVec 11)) : Bool :=
  let chars := Machine.receivedChars samples
  !chars.isEmpty && decide (chars.length ≤ 6) && chars.dropLast.all Machine.rxWellFormed

/-- The commands and events that can occur. -/
def Instr.wellFormed (i : Instr) : Bool :=
  match i with
  | .commandFrame mosi => frameWellFormed mosi
  | .fetch clocks => decide (8 ≤ clocks)
  | .minimumRunReached n => decide (n < 240)
  | .portHoldExpiry h => decide (h < 96)
  | .buttonHoldExpiry n => decide (n < 240)
  | .stopVerifyTimerExpiry n => decide (n < 240)
  | .startVerifyTimerExpiry n => decide (n < 240)
  | .restEnd n => decide (n < 240)
  | .wakeSlot p => decide (p < 4)
  | .guardEnd p => decide (p < 4)
  | .replyEnd _ samples => replyWellFormed samples
  | .unknownCommand | .hardwareReset | .identify | .readAttention | .setAttentionMask | .resetControl | .setPlant
  | .enrolLoad | .tuneLoad | .linkLoad | .planLoad | .readLoad | .findLoad | .retireLoad | .listChanged | .startLoad
  | .stopLoad | .cancelStop | .clearFault | .cancelStart | .readQueue | .placeHold | .releaseHold | .releaseButtonHold
  | .readHolds | .defineGroup | .removeGroup | .readGroup | .setClock | .readClock | .setDayMap | .overrideToday
  | .setWindow | .readAuthority | .setWakePlan | .readWakePlan | .setLine | .readLine | .timeBaseSecond
  | .plantClockMinute | .midnight | .activityPeriodEnd | .holdMinute | .settleEnd _ | .exchangeStart _
  | .replyWindowExpiry _ => true

end Sys2Proof
end

