-- ==== Sys2Proof/Tests/Slice0.lean ====
section
/-! SUPPORT. Tests of single steps, whose expected results are the data sheet's own examples and tables or worked by hand from its
rules, and for each statement a witness: concrete states and operands that meet its hypotheses, clause by clause. -/

namespace Sys2Proof.Tests

open Sys2Proof.Machine

/-! ### Small states -/

/-- A record of load state `st` at drop 1 of line 0 on feeder 0, weight 4, with the values of R10. -/
def recIn (st : LoadState) : LoadRecord := { newRecord 0 1 0 4 0 with state := st }

/-- A part at second 1000 with load 5 in this record. -/
def one (r : LoadRecord) : State := { State.reset with timeBase := 1000, loads := [(5, r)] }

/-- Line 0 on. -/
def lineOn (s : State) : State := s.setLine 0 { s.lineAt 0 with enabled := true }

/-- A frame is the command in execution. -/
def sent (s : State) (code : Byte) (params : List Byte) : State :=
  { s with executing := some (code :: byte params.length :: params) }

/-- A group that has failed to raise load 5. -/
def failedOnce (s : State) : State := { s with groups := [(0, ⟨0, .short, [5]⟩)] }

/-- The state a row answers; the same state where it answers none. -/
def after (i : Instr) (s : State) : State :=
  match exec i s with
  | .next t => t
  | .fault _ => s
  | .refused _ => s

/-- The completion code the row leaves in the answer buffer. -/
def code (i : Instr) (s : State) : Option Completion := (after i s).answer.map (·.code)

theorem canon {s : State} (h : Table.Canonical 240 s.loads ∧ Table.Canonical 96 s.holds ∧ Table.Canonical 16 s.groups
    ∧ Table.Canonical 4 s.plans ∧ Table.Canonical 240 s.slotOutcomes) : Canonical s :=
  ⟨h.1, h.2.1, h.2.2.1, h.2.2.2.1, h.2.2.2.2⟩

theorem sent_frame (s : State) (c : Byte) (p : List Byte) : (sent s c p).Sent c p := rfl

/-- The eleven levels of a well-formed character of each of these bytes: start bit at space, mark bit at space, stop bit at mark. -/
def samples (l : List Byte) : List (BitVec 11) := l.map (fun b => BitVec.ofNat 11 (b.toNat * 2 + 1024))

/-- The characters of these bytes, well formed. -/
def chars (l : List Byte) : List RxChar := l.map (fun b => ⟨b, false, true⟩)

/-- A property of every live record, from the table. -/
theorem each_load {s : State} {P : Nat → LoadRecord → Prop} (h : ∀ e ∈ s.loads, P e.1 e.2) :
    ∀ n r, s.load n = some r → P n r := fun _ _ hr => h _ (Table.mem_of_find hr)

/-! ### Ill-formed terms are refused -/

theorem test_wf_frame_is_no_fetch : (Instr.commandFrame (portBits 1)).wellFormed = false := by decide
theorem test_wf_frame_has_a_byte : (Instr.commandFrame [true, false, true]).wellFormed = false := by decide
theorem test_wf_fetch_has_a_byte : (Instr.fetch 7).wellFormed = false := by decide
theorem test_wf_load_in_range : (Instr.minimumRunReached 240).wellFormed = false
    ∧ (Instr.buttonHoldExpiry 240).wellFormed = false ∧ (Instr.stopVerifyTimerExpiry 240).wellFormed = false
    ∧ (Instr.startVerifyTimerExpiry 240).wellFormed = false ∧ (Instr.restEnd 240).wellFormed = false := by decide
theorem test_wf_hold_in_range : (Instr.portHoldExpiry 96).wellFormed = false := by decide
theorem test_wf_plan_in_range : (Instr.wakeSlot 4).wellFormed = false ∧ (Instr.guardEnd 4).wellFormed = false := by decide
theorem test_wf_reply_has_a_character : (Instr.replyEnd 0 []).wellFormed = false := by decide
theorem test_wf_reply_is_no_glitch : (Instr.replyEnd 0 [1]).wellFormed = false := by decide
theorem test_wf_reply_ends_at_six : (Instr.replyEnd 0 (samples (List.replicate 7 0))).wellFormed = false := by decide
/-- A first character of 0 with its mark bit at mark, and one with its stop bit at space. -/
theorem test_wf_reply_ends_at_a_malformed_character : (Instr.replyEnd 0 ([1536] ++ samples [0])).wellFormed = false
    ∧ (Instr.replyEnd 0 ([0] ++ samples [0])).wellFormed = false := by decide
theorem test_wf_accepts : (Instr.replyEnd 0 [1536]).wellFormed = true
    ∧ (Instr.commandFrame (portBits 2 ++ portBits 0)).wellFormed = true ∧ (Instr.fetch 8).wellFormed = true := by decide

/-! ### The data sheet's own examples -/

/-- R175, the worked example of chapter 11: the CRC over 0x01 and 0x18. -/
theorem test_crc_worked_example : crc8 [0x01, 0x18] = 0x5D := by decide +kernel

/-- Chapter 11: commanded RUN, start count 2, button count 1, lamp dark: order byte 0x18. -/
theorem test_order_byte : Order.toByte ⟨.run, 2, 1, false⟩ = 0x18 := by decide

/-- R109's two examples with a margin of 15 %. -/
theorem test_required_capacity : raisedDemand 36 15 = 42 ∧ raisedDemand 21 15 = 25 := by decide

/-- R139's table for k = 3. -/
theorem test_slots_of_eight : [0, 1, 2, 3, 4, 5, 6, 7, 11].map (fun o => slotOf o 3) = [0, 4, 2, 6, 1, 5, 3, 7, 6] := by decide

/-- R164: the twelve bytes of IDENTIFY. -/
theorem test_identify_bytes : (after .identify (sent State.reset 0x02 [])).answer
    = some ⟨.done, [0, 19, 0x0C, 0xA8, 1, 240, 96, 16, 32, 4, 8, 4]⟩ := by decide

/-! ### The port -/

theorem test_frame_taken : (after (.commandFrame (portBits 0x18 ++ portBits 1 ++ portBits 5 ++ [true])) State.reset).executing
    = some [0x18, 1, 5] := by decide
theorem test_frame_while_executing : (after (.commandFrame (portBits 2 ++ portBits 0)) (sent State.reset 0x18 [5])).overrun
    = true := by decide
theorem test_unknown_code : code .unknownCommand (sent State.reset 0x07 []) = some .unknownCommand := by decide
theorem test_short_frame : code .unknownCommand { State.reset with executing := some [0x18] } = some .badLength := by decide
theorem test_fetch_pending : (after (.fetch 40) (sent State.reset 0x18 [5])).miso
      = [some 0, some 1, some 0, some 0, some 0, none]
    ∧ (after (.fetch 40) (sent State.reset 0x18 [5])).misoNow = none := by decide
theorem test_fetch_cut_short :
    (after (.fetch 32) { State.reset with answer := some ⟨.done, [7]⟩ }).answer = some ⟨.done, [7]⟩
    ∧ (after (.fetch 40) { State.reset with answer := some ⟨.done, [7]⟩ }).answer = none := by decide
theorem test_attention_after_reset : State.reset.attentionFlags = 32 ∧ State.reset.attnLow = true := by decide
theorem test_mask_out_of_range : code .setAttentionMask (sent State.reset 0x04 [64]) = some .badValue := by decide
theorem test_reset_control_sets_marks : (after .resetControl (sent (one (recIn .run)) 0x05 [])).marks.length = 240 := by decide +kernel
theorem test_set_plant_clamps : (after .setPlant (sent State.reset 0x06 [4, 61, 61])).period = 5
    ∧ (after .setPlant (sent State.reset 0x06 [4, 61, 61])).inrushLimit = 60
    ∧ (after .setPlant (sent State.reset 0x06 [4, 61, 61])).settleTime = 60 := by decide

/-! ### Loads -/

theorem test_enrol_unknown : (after .enrolLoad (sent State.reset 0x10 [239, 3, 60, 7, 15])).stateOf 239 = some .unknown := by decide
theorem test_enrol_same_drop : code .enrolLoad (sent (one (recIn .run)) 0x10 [6, 0, 1, 0, 1]) = some .conflict := by decide
theorem test_link_needs_group : code .linkLoad (sent (one (recIn .run)) 0x12 [5, 0, 0, 1, 255, 0, 255, 0]) = some .noSuch := by decide
theorem test_plan_absent : ((after .planLoad (sent (one (recIn .run)) 0x13 [5, 255, 9])).load 5).map (·.membership) = some none := by
  decide
theorem test_find : (after .findLoad (sent (one (recIn .retiring)) 0x15 [0, 1])).answer = some ⟨.done, [5]⟩ := by decide
theorem test_read_vacant : (after .readLoad (sent State.reset 0x14 [239])).answer = some ⟨.done, [239, 255, 0, 0, 0, 0, 0]⟩ := by
  decide
theorem test_retire_on_a_line_off : (after .retireLoad (sent (one (recIn .run)) 0x16 [5])).load 5 = none := by decide
theorem test_list_changed : (after .listChanged (sent { one (recIn .run) with marks := [5] } 0x17 [])).answer
    = some ⟨.done, [1, 0, 5, 1]⟩ := by decide

/-! ### Operations -/

theorem test_start_granted : (after .startLoad (sent (one (recIn .stopped)) 0x18 [5])).stateOf 5 = some .starting := by decide
theorem test_stop_due_on_hold : ((after .stopLoad (sent (one { recIn .run with buttonHold := some 1 }) 0x19 [5, 1])).load 5).map
    (fun r => (r.state, r.blockReason)) = some (.due, .hold) := by decide
theorem test_stop_verify_timeout : ((after (.stopVerifyTimerExpiry 5) (one { recIn .stopping with verifyEnd := some 1000 })).load 5).map
    (fun r => (r.state, r.commanded)) = some (.fault, .run) := by decide
theorem test_start_verify_timeout : ((after (.startVerifyTimerExpiry 5) (one { recIn .starting with verifyEnd := some 1000 })).load 5).map
    (fun r => (r.state, r.commanded)) = some (.fault, .stop) := by decide
/-- R60, R117: the hold overtakes the stop, which is no report, so the load stays in the failed-raise set. -/
theorem test_keep_run_overtakes :
    (after .placeHold (sent (failedOnce (one { recIn .stopping with portStop := some 2 })) 0x20 [5, 0, 2, 0, 0])).stateOf 5 = some .run
    ∧ ((after .placeHold (sent (failedOnce (one { recIn .stopping with portStop := some 2 })) 0x20 [5, 0, 2, 0, 0])).group 0).map
      (·.failed) = some [5] := by decide
/-- R57: a port hold of either sense has a DUE record evaluated. -/
theorem test_keep_off_evaluates :
    (after .placeHold (sent (one { recIn .due with portStop := some 3 }) 0x20 [5, 1, 0, 0, 0])).stateOf 5 = some .stopping := by decide

/-! ### Clock, plans and lines -/

/-- R90: yesterday's type of day 0 is the map's entry for day 6. -/
theorem test_yesterday_of_day_0 :
    (after .setClock (sent { State.reset with dayMap := #v[.work, .work, .work, .work, .work, .work, .rest] }
      0x30 [0, 0, 0, 0])).yesterday = .rest := by decide
/-- R89, R90: the second before the setting was a midnight, so the day that ended with its override is yesterday. -/
theorem test_set_clock_takes_midnight_first :
    (after .setClock (sent { State.reset with clock := some ⟨6, 1439, 60⟩, todayOverride := some .rest } 0x30 [0, 0, 5, 0])).yesterday
      = .rest
    ∧ (after .setClock (sent { State.reset with clock := some ⟨6, 1439, 60⟩, todayOverride := some .rest } 0x30 [0, 0, 5, 0])).clock
      = some ⟨0, 5, 0⟩ := by decide
/-- R92: at 00:00:00 of day 0 the types are those of day 0, the override has gone, and yesterday's is the one in force before. -/
theorem test_read_clock_gives_one_second :
    (after .readClock (sent { State.reset with clock := some ⟨6, 1439, 60⟩, todayOverride := some .rest } 0x31 [])).answer.map
      (·.data.take 8) = some [1, 0, 0, 0, 0, 0, 255, 2] := by decide
theorem test_midnight_wraps_the_week :
    (after .midnight { State.reset with clock := some ⟨6, 1439, 60⟩ }).clock = some ⟨0, 0, 0⟩ := by decide
theorem test_window_raises_authority :
    (after .setWindow (sent { State.reset with clock := some ⟨0, 10, 0⟩ } 0x34 [0, 0, 0, 10, 0, 20, 2])).authority = 2 := by decide
theorem test_tail_of_yesterday : (Window.mk 1320 360 2).coversTail 359 = true ∧ (Window.mk 1320 360 2).coversTail 360 = false
    ∧ (Window.mk 1320 360 2).coversToday 1320 = true := by decide
theorem test_wake_plan_clamped : ((after .setWakePlan (sent State.reset 0x38 [0, 1, 6, 0, 0, 9, 7, 241])).plan 0).map
    (fun x => (x.start, x.spacing, x.bits, x.guard)) = some (1439, 10, 6, 240) := by decide
theorem test_set_line_clamps : ((after .setLine (sent State.reset 0x40 [3, 1, 4, 0, 64, 0])).lineAt 3).divisor = 1023
    ∧ ((after .setLine (sent State.reset 0x40 [3, 1, 4, 0, 64, 0])).lineAt 3).lossCount = 1 := by decide
/-- R145: a line disabled with an exchange in flight, its pins put elsewhere, abandons it, releases DE and holds TXD at mark. -/
theorem test_disabling_quiets_line :
    ((after .setLine (sent (State.reset.setLine 0 { Line.reset with
      enabled := true, exchange := some ⟨1, none, ⟨.run, 0, 0, false⟩, 48, 8⟩, txd := [false], de := [true] })
        0x40 [0, 0, 0, 48, 8, 3])).lineAt 0) = Line.reset := by decide +kernel
/-- R175: the poll of load 5 with commanded RUN and start count 0: bytes 1, 0 and their CRC 0x15. -/
theorem test_poll_sent : ((after (.exchangeStart 0) (lineOn (one (recIn .run)))).lineAt 0).txd
    = charBits true 1 ++ charBits false 0 ++ charBits false 0x15 ++ [true] := by decide +kernel

/-- R149: DE is asserted over the 33 bits of the poll and released after its last stop bit. -/
theorem test_poll_drives : ((after (.exchangeStart 0) (lineOn (one (recIn .run)))).lineAt 0).de
    = List.replicate 33 true ++ [false] := by decide +kernel

/-- R147: a start bit, the bits of 0x62 least significant first, mark bit at space, stop bit at mark; and the same back at mark when its
start bit is sampled. -/
theorem test_received_character : receivedChar 0b10011000100 = some ⟨0x62, false, true⟩ ∧ receivedChar 0b10011000101 = none := by
  decide

/-- R151: the third failure in a row at loss count 3 takes the drop into the LOST set. -/
theorem test_third_failure_is_lost :
    ((after (.replyWindowExpiry 0) ((one { recIn .run with missCount := 2 }).setLine 0
      { Line.reset with enabled := true, exchange := some ⟨1, some 5, ⟨.run, 0, 0, false⟩, 48, 8⟩ })).lineAt 0).lost = [1] := by
  decide

/-- R50: the first report, STOPPED with flags 0 and counts 0; the CRC over 1, 0, 0, 0, 0 is computed by R175's steps outside the model. -/
theorem test_first_report_stopped :
    (after (.replyEnd 0 (samples [1, 0, 0, 0, 0, 0x62])) ((one (recIn .unknown)).setLine 0
      { Line.reset with enabled := true, exchange := some ⟨1, some 5, ⟨.run, 0, 0, false⟩, 48, 8⟩ })).stateOf 5
    = some .stopped := by decide +kernel

/-! ### Witnesses: the port -/

theorem canon_sent {s : State} {c : Byte} {p : List Byte} (h : Canonical s) : Canonical (sent s c p) :=
  ⟨h.loads, h.holds, h.groups, h.plans, h.slotOutcomes⟩

theorem canon_reset : Canonical State.reset := canon (by decide)

theorem canon_one (r : LoadRecord) : Canonical (one r) := canon (by simp [one, State.reset, Table.Canonical])

/-- Load 5 and its state, of the frame's state too. -/
theorem one_load (r : LoadRecord) (c : Byte) (p : List Byte) : (sent (one r) c p).load 5 = some r := rfl

theorem witness_StepTakesFrontCommand :
    ({ State.reset with pending := [.identify] } : State).pending = .identify :: [] ∧ State.reset.pending = [] := ⟨rfl, rfl⟩

theorem witness_TransactionsReachPort :
    (List.replicate 7 true).length < 8 ∧ (0 : Byte) ≠ 1 ∧ (2 : Byte) ≠ 1
    -- an IDLE port, one whose READ ATTENTION may be unanswered, and an EXECUTING one
    ∧ State.reset.executing = none ∧ State.reset.finishing = false ∧ (after .readAttention (sent State.reset 3 [])).executing = none
    ∧ (after .readAttention (sent State.reset 3 [])).finishing = true ∧ (sent State.reset 2 []).executing ≠ none
    -- FETCH of no whole byte, and of one
    ∧ 0 = 7 / 8 ∧ 1 = 8 / 8 ∧ 0 < 1 ∧ State.reset.answer = none
    ∧ ({ State.reset with answer := some ⟨.done, [7]⟩ } : State).answer = some ⟨.done, [7]⟩
    ∧ (.identify, 0x02, 0) ∈ commandTable
    ∧ exec (.fetch 40) (sent State.reset 2 []) = .next (after (.fetch 40) (sent State.reset 2 []))
    ∧ exec .identify (after (.fetch 40) (sent State.reset 2 []))
      = .next (after .identify (after (.fetch 40) (sent State.reset 2 []))) :=
  ⟨by decide, by decide, by decide, rfl, rfl, by decide, by decide, by decide, by decide, by decide, by decide, rfl, rfl, by decide,
    rfl, rfl⟩

theorem witness_BadFramesAnswered : ([0x18] : List Byte).length < 2 ∧ 38 < (39 : Byte).toNat
    ∧ ([] : List Byte).length ≠ (1 : Byte).toNat ∧ (38 : Byte).toNat ≤ 38
    ∧ (List.replicate 38 (0 : Byte)).length = (38 : Byte).toNat ∧ (∀ e ∈ commandTable, e.2.1 ≠ 0x07)
    ∧ Canonical (sent State.reset 0x18 []) ∧ (.startLoad, 0x18, 1) ∈ commandTable
    ∧ ([] : List Byte).length ≠ 1 ∧ (List.replicate 38 (0 : Byte)).length ≤ 38 ∧ (sent State.reset 0x18 []).Sent 0x18 [] :=
  ⟨by decide, by decide, by decide, by decide, by decide, by decide, canon_sent canon_reset, by decide, by decide, by decide, rfl⟩

theorem witness_RefusedCommandChangesNothing : Canonical (sent State.reset 0x18 [5]) ∧ (.startLoad, 0x18, 1) ∈ commandTable
    ∧ (sent State.reset 0x18 [5]).Sent 0x18 [5]
    ∧ exec .startLoad (sent State.reset 0x18 [5]) = .next (after .startLoad (sent State.reset 0x18 [5]))
    ∧ (after .startLoad (sent State.reset 0x18 [5])).answer = some ⟨.noSuch, []⟩ ∧ Completion.noSuch ≠ .done :=
  ⟨canon_sent canon_reset, by decide, rfl, rfl, by decide, by decide⟩

theorem witness_AttentionFollowsState : Canonical (sent State.reset 0x03 []) ∧ (sent State.reset 0x03 []).Sent 0x03 []
    ∧ (sent State.reset 0x04 [63]).Sent 0x04 [63] ∧ (63 : Byte).toNat ≤ 63 ∧ 63 < (64 : Byte).toNat :=
  ⟨canon_sent canon_reset, rfl, rfl, by decide, by decide⟩

theorem witness_IdentifyAnswersTwelveBytes : Canonical (sent State.reset 0x02 []) ∧ (sent State.reset 0x02 []).Sent 0x02 []
    ∧ (sent State.reset 0x02 [0]).Sent 0x02 [0] ∧ ([0] : List Byte) ≠ [] :=
  ⟨canon_sent canon_reset, rfl, rfl, by decide⟩

theorem witness_ResetControlValues : (sent { one (recIn .stopping) with clock := some ⟨0, 0, 0⟩ } 0x05 []).Sent 0x05 []
    ∧ (sent { one (recIn .stopping) with clock := some ⟨0, 0, 0⟩ } 0x05 []).clock = some ⟨0, 0, 0⟩ := ⟨rfl, rfl⟩

/-- Two loads in STARTING, of weights 4 and 4, on feeders 0 and 1. -/
def twoStarting : State :=
  { State.reset with
    loads := [(5, recIn .starting), (6, { recIn .starting with address := 2, feeder := 1 })]
    feeders := #v[.starting 5, .starting 6, .free, .free, .free, .free, .free, .free] }

theorem witness_SetPlantWritesOrRefuses : Canonical (sent twoStarting 0x06 [10, 7, 5])
    ∧ 2 ≤ twoStarting.startingCount ∧ max 1 (min 60 (7 : Byte).toNat) < twoStarting.startingSum
    ∧ twoStarting.startingSum ≤ max 1 (min 60 (8 : Byte).toNat) ∧ State.reset.startingCount < 2 :=
  ⟨canon_sent (canon (by decide)), by decide, by decide, by decide, by decide⟩

/-! ### Witnesses: the load table -/

theorem witness_EnrolLoadCreatesRecord :
    Canonical (sent (one (recIn .retiring)) 0x10 [5, 3, 60, 7, 15])
    ∧ (sent (one (recIn .retiring)) 0x10 [5, 3, 60, 7, 15]).stateOf (5 : Byte).toNat = some .retiring
    ∧ (one (recIn .run)).stateOf (5 : Byte).toNat = some .run ∧ LoadState.run ≠ .retiring
    ∧ 239 < (240 : Byte).toNat ∧ 3 < (4 : Byte).toNat ∧ 60 < (61 : Byte).toNat ∧ 7 < (8 : Byte).toNat ∧ 15 < (16 : Byte).toNat
    ∧ (239 : Byte).toNat ≤ 239 ∧ (3 : Byte).toNat ≤ 3 ∧ (60 : Byte).toNat ≤ 60 ∧ (7 : Byte).toNat ≤ 7 ∧ (15 : Byte).toNat ≤ 15
    ∧ (one (recIn .run)).load (239 : Byte).toNat = none
    ∧ (∃ m r, (one (recIn .run)).load m = some r ∧ r.line.val = (0 : Byte).toNat ∧ r.address = (1 : Byte).toNat)
    ∧ ∀ m r, (one (recIn .run)).load m = some r → ¬ (r.line.val = (3 : Byte).toNat ∧ r.address = (60 : Byte).toNat) :=
  ⟨canon_sent (canon_one _), by decide, by decide, by decide, by decide, by decide, by decide, by decide, by decide, by decide,
    by decide, by decide, by decide, by decide, by decide, ⟨5, _, rfl, by decide, by decide⟩, each_load (by decide)⟩

theorem witness_TuneLoadClampsAndWrites :
    (∀ r, Canonical (sent (one r) 0x11 [5, 0, 4, 0, 0, 0, 1, 8, 16, 255, 0, 0, 255, 0, 0, 0, 0, 0, 0])
      ∧ (one r).load (5 : Byte).toNat = some r)
    ∧ (0 : Byte).toNat * 256 + (0 : Byte).toNat < (0 : Byte).toNat * 256 + (1 : Byte).toNat
    ∧ (0 : Byte).toNat * 256 + (1 : Byte).toNat ≤ (0 : Byte).toNat * 256 + (1 : Byte).toNat
    ∧ (recIn .starting).feeder.val = (0 : Byte).toNat ∧ (recIn .starting).weight = (4 : Byte).toNat
    ∧ (recIn .starting).feeder.val ≠ (1 : Byte).toNat ∧ (recIn .starting).weight ≠ (5 : Byte).toNat
    ∧ (one (recIn .run)).load (239 : Byte).toNat = none
    -- a changed minimum run in DUE; each changed value of a QUEUED record, in a part with no groups; neither
    ∧ (recIn .due).state = .due ∧ (0 : Byte).toNat ≠ (recIn .due).tuning.minimumRun
    ∧ (recIn .queued).state = .queued ∧ (0 : Byte).toNat ≠ (recIn .queued).tuning.minimumOff
    ∧ (1 : Fin 8) ≠ (recIn .queued).feeder ∧ (5 : Byte).toNat ≠ (recIn .queued).weight ∧ (one (recIn .queued)).groups = []
    ∧ (recIn .run).state ≠ .due ∧ (recIn .run).state ≠ .queued :=
  ⟨fun r => ⟨canon_sent (canon_one r), rfl⟩, by decide, by decide, by decide, by decide, by decide, by decide, by decide,
    rfl, by decide, rfl, by decide, by decide, by decide, rfl, by decide, by decide⟩

/-- R12: a longer minimum run blocks a DUE record at once. -/
theorem test_tune_evaluates_due :
    ((after .tuneLoad (sent { one { recIn .due with portStop := some 1 } with timeBase := 5940 }
      0x11 [5, 0, 4, 0, 0, 0, 1, 3, 8, 6, 0, 30, 100, 3, 0, 90, 0, 30, 60])).load 5).map (·.blockReason)
      = some .minRun := by decide +kernel

theorem raiseLaw_failedOnce (s : State) : RaiseLaw (failedOnce s) := by
  intro g p x h hp
  have := Table.mem_of_find h
  simp only [failedOnce, List.mem_singleton, Prod.mk.injEq] at this
  rw [this.2] at hp
  cases hp

/-- Group 0 defined, margin 0, beside load 5. -/
def grouped (r : LoadRecord) : State := { one r with groups := [(0, ⟨0, .normal, []⟩), (1, ⟨0, .normal, []⟩)] }

/-- Six other providers of group 0, of ranks 0 to 5, and load 5. -/
def crowded : State :=
  { grouped (recIn .run) with
    loads := [5, 10, 11, 12, 13, 14, 15].map (fun n =>
      (n, { recIn .run with
              address := n, provides := if n = 5 then none else some { group := 0, rank := n - 10, capacity := 1 } })) }

/-- Groups 0 to 4 in a chain of four edges but one, which load 5 would close. -/
def chained : State :=
  { State.reset with
    groups := [0, 1, 2, 3, 4].map (fun g => (g, ⟨0, .normal, []⟩))
    loads := (5, recIn .run) :: [10, 11, 12].map (fun n =>
      (n, { recIn .run with
              address := n, provides := some { group := n - 10, rank := 0, capacity := 1 },
              drawsA := some { group := n - 9, demand := 1 } })) }

theorem witness_LinkAndPlanLoadCheckAndWrite :
    -- ranges, and step 3
    (15 < (16 : Byte).toNat ∧ (16 : Byte) ≠ 255 ∧ 5 < (6 : Byte).toNat ∧ (15 : Byte).toNat ≤ 15 ∧ (5 : Byte).toNat ≤ 5)
    ∧ Canonical (sent (grouped (recIn .run)) 0x12 [239, 255, 0, 0, 255, 0, 255, 0])
    ∧ (grouped (recIn .run)).load (239 : Byte).toNat = none
    -- step 4 and step 5
    ∧ (grouped (recIn .run)).group (15 : Byte).toNat = none
    ∧ (∀ st, (grouped (recIn st)).load (5 : Byte).toNat = some (recIn st))
    ∧ (∀ g : Byte, (g = 0 ∨ g = 1 ∨ g = 255) → g ≠ 255 → (grouped (recIn .run)).group g.toNat ≠ none)
    -- steps 6, 7 and 8
    ∧ ((0 : Byte) ≠ 255 ∧ (0 : Byte) = 0) ∧ ¬ ((1 : Byte) ≠ 255 ∧ (1 : Byte) = 255)
    ∧ 6 ≤ (crowded.otherProviders (0 : Byte).toNat (5 : Byte).toNat).length
    ∧ (crowded.otherProviders (1 : Byte).toNat (5 : Byte).toNat).length < 6
    ∧ (∃ m rm pm, m ≠ (5 : Byte).toNat ∧ crowded.load m = some rm ∧ rm.provides = some pm ∧ pm.group = (0 : Byte).toNat
        ∧ pm.rank = (5 : Byte).toNat)
    -- step 9
    ∧ ¬ GraphSound (dependencyEdges (chained.setLoad 5
        { recIn .run with provides := some ⟨3, 0, 1⟩, drawsA := some ⟨4, 1⟩ }).loads)
    ∧ GraphSound (dependencyEdges (chained.setLoad 5
        { recIn .run with provides := some ⟨4, 0, 1⟩, drawsA := none }).loads)
    -- a DUE provider whose links change; one that a group has failed to raise, its link removed, kept, and as it was
    ∧ (recIn .due).state = .due ∧ { recIn .due with provides := some ⟨0, 0, 10⟩ } ≠ recIn .due
    ∧ (∀ r, RaiseLaw (failedOnce (one r))) ∧ (failedOnce (one (recIn .run))).group 0 = some ⟨0, .short, [5]⟩
    ∧ (5 : Byte).toNat ∈ (⟨0, .short, [5]⟩ : Group).failed ∧ (0 : Byte).toNat = (⟨0, 0, 10⟩ : Provides).group ∧ (0 : Byte) ≠ 255
    ∧ (1 : Byte).toNat ≠ (⟨0, 0, 10⟩ : Provides).group
    ∧ (after .linkLoad (sent (failedOnce (one { recIn .fault with provides := some ⟨0, 0, 10⟩ }))
        0x12 [5, 255, 0, 0, 255, 0, 255, 0])).answer = some ⟨.done, []⟩
    -- PLAN LOAD
    ∧ (∀ r, Canonical (sent (one r) 0x13 [5, 3, 63]) ∧ (sent (one r) 0x13 [5, 3, 63]).load (5 : Byte).toNat = some r)
    ∧ (3 : Byte).toNat ≤ 3 ∧ (63 : Byte).toNat ≤ 63 ∧ 3 < (254 : Byte).toNat ∧ 63 < (64 : Byte).toNat
    ∧ (recIn .retiring).state = .retiring ∧ (recIn .run).state ≠ .retiring ∧ (one (recIn .run)).load (239 : Byte).toNat = none :=
  ⟨by decide, canon_sent (canon (by decide)), by decide, by decide, fun _ => rfl,
    by
      intro g h h2
      rcases h with rfl | rfl | rfl
      · decide
      · decide
      · exact absurd rfl h2,
    by decide, by decide, by decide, by decide, ⟨15, _, _, by decide, rfl, rfl, by decide, by decide⟩,
    fun h => absurd ((graphRefused_eq_false_iff).2 h) (by decide), (graphRefused_eq_false_iff).1 (by decide),
    rfl, by decide, fun _ => raiseLaw_failedOnce _, rfl, by decide, rfl, by decide, by decide, by decide,
    fun r => ⟨canon_sent (canon_one r), rfl⟩, by decide, by decide, by decide, by decide, rfl, by decide, by decide⟩

theorem witness_ReadLoadAnswersRecord :
    (∀ r, Canonical (sent (one r) 0x14 [5]) ∧ (sent (one r) 0x14 [5]).load (5 : Byte).toNat = some r)
    ∧ (one (recIn .run)).load (239 : Byte).toNat = none ∧ Table.find (one (recIn .run)).slotOutcomes (239 : Byte).toNat = none
    ∧ Table.find ({ State.reset with slotOutcomes := [(239, ⟨.retire, .completed, some ⟨6, 1439⟩⟩)] } : State).slotOutcomes
        (239 : Byte).toNat = some ⟨.retire, .completed, some ⟨6, 1439⟩⟩ :=
  ⟨fun r => ⟨canon_sent (canon_one r), rfl⟩, by decide, by decide, by decide⟩

theorem dropLaw_one (r : LoadRecord) : DropLaw (one r) := by
  intro n m rn rm hn hm _ _
  have h : ∀ k x, (one r).load k = some x → k = 5 := each_load (P := fun k _ => k = 5) (by simp [one])
  rw [h n rn hn, h m rm hm]

theorem witness_FindLoadAnswersHolder : Canonical (sent (one (recIn .retiring)) 0x15 [0, 1])
    ∧ DropLaw (one (recIn .retiring)) ∧ (one (recIn .retiring)).load 5 = some (recIn .retiring)
    ∧ (recIn .retiring).line.val = (0 : Byte).toNat ∧ (recIn .retiring).address = (1 : Byte).toNat
    ∧ (3 : Byte).toNat ≤ 3 ∧ (60 : Byte).toNat ≤ 60 ∧ 60 < (61 : Byte).toNat ∧ 3 < (4 : Byte).toNat
    ∧ ∀ n r, (one (recIn .retiring)).load n = some r → ¬ (r.line.val = (3 : Byte).toNat ∧ r.address = (60 : Byte).toNat) :=
  ⟨canon_sent (canon_one _), dropLaw_one _, rfl, by decide, by decide, by decide, by decide, by decide, by decide,
    each_load (by decide)⟩

theorem witness_ListChangedReportsMarks : Canonical (sent { one (recIn .run) with marks := [0, 5, 239] } 0x17 [])
    ∧ SlotLaw (sent { one (recIn .run) with marks := [0, 5, 239] } 0x17 [])
    ∧ (sent { one (recIn .run) with marks := [0, 5, 239] } 0x17 []).Sent 0x17 [] :=
  ⟨canon_sent (canon (by decide)), ⟨by decide, by decide, by decide⟩, rfl⟩

theorem witness_RetireLoadBegins :
    (∀ st, Canonical (sent (one (recIn st)) 0x16 [5]) ∧ (sent (one (recIn st)) 0x16 [5]).load (5 : Byte).toNat = some (recIn st)
      ∧ (recIn st).state = st)
    ∧ (one (recIn .run)).load (239 : Byte).toNat = none ∧ ((one (recIn .run)).lineAt 0).enabled = false
    ∧ ((lineOn (one (recIn .run))).lineAt 0).enabled = true :=
  ⟨fun st => ⟨canon_sent (canon_one _), rfl, rfl⟩, by decide, by decide, by decide⟩

/-! ### Witnesses: the operations -/

/-- A KEEP-OFF hold on load 5. -/
def heldOff (r : LoadRecord) : State := { one r with holds := [(0, ⟨5, .keepOff, none, none⟩)] }

/-- A full queue of other loads. -/
def full (s : State) : State := { s with queue := List.replicate 32 ⟨9, .call, 0, .none, 0⟩ }

theorem witness_StartLoadByState :
    (∀ st, Canonical (sent (one (recIn st)) 0x18 [5]) ∧ (sent (one (recIn st)) 0x18 [5]).load (5 : Byte).toNat = some (recIn st)
      ∧ (recIn st).state = st)
    ∧ (one (recIn .run)).load (239 : Byte).toNat = none
    ∧ (heldOff (recIn .stopped)).keepOff 5 = true ∧ (heldOff (recIn .stopped)).load 5 = some (recIn .stopped)
    ∧ (one (recIn .stopped)).keepOff 5 = false ∧ (one (recIn .stopped)).queue.length < 32
    ∧ 32 ≤ (full (one (recIn .stopped))).queue.length ∧ (full (one (recIn .stopped))).keepOff 5 = false :=
  ⟨fun _ => ⟨canon_sent (canon_one _), rfl, rfl⟩, by decide, by decide, by decide, by decide, by decide, by decide, by decide⟩

theorem witness_StopLoadByState :
    (∀ r, Canonical (sent (one r) 0x19 [5, 3]) ∧ (sent (one r) 0x19 [5, 3]).load (5 : Byte).toNat = some r
      ∧ (sent (one r) 0x19 [5, 3]).groups = [])
    ∧ (one (recIn .run)).load (239 : Byte).toNat = none ∧ (recIn .run).provides = none
    ∧ (3 : Byte) ≠ 0 ∧ (3 : Byte).toNat ≤ 3 ∧ 3 < (4 : Byte).toNat
    ∧ (∃ l ∈ (one { recIn .run with buttonHold := some 1 }).keepRunLevels 5, max 0 (1 : Byte).toNat ≤ l)
    ∧ (∀ l ∈ (one (recIn .run)).keepRunLevels 5, l < max 0 (1 : Byte).toNat)
    ∧ (one (recIn .run)).timeBase < { recIn .run with runSince := 401 }.runSince + (recIn .run).tuning.minimumRun * 60
    ∧ { recIn .run with runSince := 400 }.runSince + (recIn .run).tuning.minimumRun * 60 ≤ (one (recIn .run)).timeBase :=
  ⟨fun r => ⟨canon_sent (canon_one r), rfl, rfl⟩, by decide, rfl, by decide, by decide, by decide, by decide, by decide, by decide,
    by decide⟩

theorem witness_CancelStopByState :
    (∀ r, Canonical (sent (one r) 0x1A [5]) ∧ (sent (one r) 0x1A [5]).load (5 : Byte).toNat = some r
      ∧ (sent (one r) 0x1A [5]).period = 10)
    ∧ { recIn .stopping with portStop := some 1 }.portStop ≠ none ∧ (recIn .stopping).state ≠ .due
    ∧ (recIn .due).state = .due ∧ (recIn .run).portStop = none
    ∧ (recIn .due).tuning.idleDelay * 60 ≤ { recIn .due with idleClock := 180 }.idleClock * 10
    ∧ { recIn .due with idleClock := 179 }.idleClock * 10 < (recIn .due).tuning.idleDelay * 60
    ∧ (recIn .due).tuning.idleLeave ≤ (recIn .due).level ∧ { recIn .due with level := 199 }.level < (recIn .due).tuning.idleLeave :=
  ⟨fun r => ⟨canon_sent (canon_one r), rfl, rfl⟩, by decide, by decide, rfl, rfl, by decide, by decide, by decide, by decide⟩

/-- R71: with the idle delay reached the record is evaluated under the plant authority alone: at 0 it waits for AUTHORITY, and
at 1 it stops, its minimum run being over. -/
theorem test_cancel_stop_evaluates :
    ((after .cancelStop (sent (one { recIn .due with portStop := some 3, idleClock := 180 }) 0x1A [5])).load 5).map
      (fun r => (r.state, r.blockReason)) = some (.due, .authority)
    ∧ (after .cancelStop (sent { one { recIn .due with portStop := some 3, idleClock := 180 } with authority := 1 }
      0x1A [5])).stateOf 5 = some .stopping := by decide +kernel

theorem witness_ClearFaultAndCancelStart :
    (∀ r, Canonical (sent (one r) 0x1B [5]) ∧ (sent (one r) 0x1B [5]).load (5 : Byte).toNat = some r)
    ∧ (∀ r, Canonical (sent (one r) 0x1C [5]) ∧ (sent (one r) 0x1C [5]).load (5 : Byte).toNat = some r)
    ∧ (recIn .fault).state = .fault ∧ (recIn .run).state ≠ .fault ∧ (recIn .queued).state = .queued
    ∧ (recIn .starting).state ≠ .queued ∧ (one (recIn .run)).load (239 : Byte).toNat = none ∧ 239 < (240 : Byte).toNat :=
  ⟨fun r => ⟨canon_sent (canon_one r), rfl⟩, fun r => ⟨canon_sent (canon_one r), rfl⟩, rfl, by decide, rfl, by decide, by decide,
    by decide⟩

/-- A DUE provider of group 0, of capacity 10, beside another provider of it in this state; the group has no consumer. -/
def twoProviders (other : LoadState) : State :=
  { grouped (recIn .due) with
    authority := 1
    loads := [(5, { recIn .due with provides := some ⟨0, 0, 10⟩ }),
      (6, { recIn other with address := 2, provides := some ⟨0, 1, 10⟩ })] }

/-- The same providers, the first alone drawn on. -/
def drawnOn : State :=
  { twoProviders .stopping with
    loads := (4, { recIn .run with address := 3, drawsA := some ⟨0, 1⟩ }) :: (twoProviders .stopping).loads }

theorem witness_MinimumRunEvaluatesStopPermission :
    Canonical (one (recIn .due)) ∧ (one (recIn .due)).load 5 = some (recIn .due)
    ∧ (recIn .due).runSince + (recIn .due).tuning.minimumRun * 60 ≤ (one (recIn .due)).timeBase
    ∧ (one (recIn .due)).timeBase < { recIn .due with runSince := 401 }.runSince + (recIn .due).tuning.minimumRun * 60
    -- E = 0, and E = 1 against a KEEP-RUN hold of level 1, and against none
    ∧ max (one (recIn .due)).authority ((recIn .due).portStop.getD 0) = 0
    ∧ (∃ l ∈ (one { recIn .due with buttonHold := some 1 }).keepRunLevels 5, 1 ≤ l)
    ∧ (∀ l ∈ (twoProviders .run).keepRunLevels 5, l < 1)
    -- SUPPLY fails with the provider alone drawn on, PACING with another in STOPPING, and all five hold
    ∧ drawnOn.capacity 0 < drawnOn.required 0 + 10
    ∧ (twoProviders .stopping).required 0 + 10 ≤ (twoProviders .stopping).capacity 0
    ∧ (∃ p m rm pm, ({ recIn .due with provides := some ⟨0, 0, 10⟩ } : LoadRecord).provides = some p ∧ m ≠ 5
        ∧ (twoProviders .stopping).load m = some rm ∧ rm.provides = some pm ∧ pm.group = p.group ∧ rm.state = .stopping)
    ∧ (∀ p m rm pm, (recIn .due).provides = some p → m ≠ 5 → (one (recIn .due)).load m = some rm → rm.provides = some pm →
        pm.group = p.group → rm.state ≠ .stopping) :=
  ⟨canon_one _, rfl, by decide, by decide, by decide, by decide, by decide, by decide, by decide,
    ⟨_, 6, _, _, rfl, by decide, rfl, rfl, rfl, rfl⟩, fun p _ _ _ h => by simp [recIn, newRecord] at h⟩

theorem witness_VerifyTimersEndInFault :
    (∀ r, Canonical (one r) ∧ (one r).load 5 = some r)
    ∧ (∀ st, ({ recIn st with verifyEnd := some 1000 } : LoadRecord).verifyEnd = some 1000
        ∧ ({ recIn st with verifyEnd := some 1000 } : LoadRecord).state = st)
    ∧ 1000 ≤ (one (recIn .run)).timeBase ∧ (one (recIn .run)).timeBase < 1001 ∧ (one (recIn .run)).settleTime ≠ 0 :=
  ⟨fun r => ⟨canon_one r, rfl⟩, fun _ => ⟨rfl, rfl⟩, by decide, by decide, by decide⟩

/-! ### Witnesses: the holds -/

/-- Every hold index placed, each on a load of its own. -/
def holdsFull : State := { one (recIn .run) with holds := (List.range 96).map (fun k => (k, ⟨k, .keepOff, none, none⟩)) }

/-- A DUE record with this stop request, and one KEEP-RUN hold of level 3 counted to 0. -/
def dueKept (stop : Option Nat) : State :=
  { one { recIn .due with portStop := stop } with holds := [(0, ⟨5, .keepRun 3, some 0, none⟩)] }

theorem witness_PlaceHoldActs :
    (∀ r sense level, Canonical (sent (one r) 0x20 [5, sense, level, 5, 160])
      ∧ (sent (one r) 0x20 [5, sense, level, 5, 160]).load (5 : Byte).toNat = some r)
    ∧ (1 : Byte).toNat ≤ 1 ∧ 1 < (2 : Byte).toNat ∧ 3 < (4 : Byte).toNat ∧ (3 : Byte) ≠ 0 ∧ (3 : Byte).toNat ≤ 3
    ∧ (one (recIn .run)).load (239 : Byte).toNat = none
    ∧ 3 ≤ (({ one (recIn .run) with holds := [0, 1, 2].map (fun k => (k, ⟨5, .keepOff, none, none⟩)) } : State).holdsOn 5).length
    ∧ (holdsFull.holdsOn 239).length < 3 ∧ (∀ k, k < 96 → Table.find holdsFull.holds k ≠ none)
    ∧ ((one (recIn .run)).holdsOn 5).length < 3 ∧ 0 < 96 ∧ Table.find (one (recIn .run)).holds 0 = none
    ∧ (∀ j, j < 0 → Table.find (one (recIn .run)).holds j ≠ none)
    -- STOPPING under a request of 3, against levels 3 and 2, by a load that a group has failed to raise
    ∧ max (one (recIn .stopping)).authority ({ recIn .stopping with portStop := some 3 }.portStop.getD 0) ≤ (3 : Byte).toNat
    ∧ (2 : Byte).toNat < max (one (recIn .stopping)).authority ({ recIn .stopping with portStop := some 3 }.portStop.getD 0)
    ∧ 5 ∈ (⟨0, .normal, [5]⟩ : Group).failed
    -- DUE: E is 0; E is 2 against level 3; a KEEP-OFF hold, with all five conditions met and with one not
    ∧ max (one (recIn .due)).authority ((recIn .due).portStop.getD 0) = 0
    ∧ 0 < max (one (recIn .due)).authority ({ recIn .due with portStop := some 2 }.portStop.getD 0) ∧ 2 ≤ (3 : Byte).toNat
    ∧ ({ one { recIn .due with portStop := some 3 } with holds := [(0, ⟨5, .keepOff, some 1440, none⟩)] } : State).permission 5
        { recIn .due with portStop := some 3 } = .none
    ∧ ({ one (recIn .due) with holds := [(0, ⟨5, .keepOff, some 1440, none⟩)] } : State).permission 5 (recIn .due) ≠ .none :=
  ⟨fun _ _ _ => ⟨canon_sent (canon_one _), rfl⟩, by decide, by decide, by decide, by decide, by decide, by decide, by decide,
    by decide +kernel, by decide, by decide, by decide, by decide, by decide, by decide, by decide, by decide, by decide, by decide,
    by decide, by decide, by decide⟩

theorem witness_HoldsCountDownAndLeave :
    State.reset.timeBase < State.reset.nextHoldMinute ∧ ({ State.reset with timeBase := 60 } : State).nextHoldMinute ≤ 60
    -- a KEEP-OFF hold, the only one of its load, released and expired
    ∧ Canonical (sent (heldOff (recIn .stopped)) 0x21 [0])
    ∧ Table.find (heldOff (recIn .stopped)).holds (0 : Byte).toNat = some ⟨5, .keepOff, none, none⟩
    ∧ Table.find (heldOff (recIn .stopped)).holds (95 : Byte).toNat = none ∧ 95 < (96 : Byte).toNat ∧ (95 : Byte).toNat ≤ 95
    ∧ (⟨5, .keepOff, some 0, none⟩ : PortHold).remaining = some 0 ∧ (⟨5, .keepOff, some 1, none⟩ : PortHold).remaining ≠ some 0
    ∧ ({ heldOff (recIn .stopped) with holds := [] } : State).keepOff 5 = false ∧ RaiseLaw (heldOff (recIn .stopped))
    -- a KEEP-RUN hold of a DUE record, leaving it with permission and without
    ∧ (∀ stop, Canonical (dueKept stop) ∧ (dueKept stop).load 5 = some { recIn .due with portStop := stop }
      ∧ Table.find (dueKept stop).holds 0 = some ⟨5, .keepRun 3, some 0, none⟩)
    ∧ (after (.portHoldExpiry 0) (dueKept none)).holds = []
    ∧ ({ dueKept (some 3) with holds := [] } : State).permission 5 { recIn .due with portStop := some 3 } = .none
    ∧ ({ dueKept none with holds := [] } : State).permission 5 (recIn .due) ≠ .none
    -- the button hold
    ∧ (∀ r, Canonical (sent (one r) 0x22 [5]) ∧ (one r).load 5 = some r)
    ∧ { recIn .run with buttonHold := some 0 }.buttonHold = some 0 ∧ (recIn .run).buttonHold = none
    ∧ { recIn .run with buttonHold := some 1 }.buttonHold ≠ none :=
  ⟨by decide, by decide, canon_sent (canon (by decide)), by decide, by decide, by decide, by decide, rfl, by decide, by decide,
    fun g p x h => by simp [State.group, heldOff, one, State.reset] at h,
    fun _ => ⟨canon (by simp [dueKept, one, State.reset, Table.Canonical]), rfl, rfl⟩, by decide, by decide, by decide,
    fun r => ⟨canon_sent (canon_one r), rfl⟩, rfl, rfl, by decide⟩

/-- Wake plan 0 as it was set for WORK days, in this state. -/
def planned (start : Nat) (st : PlanState) (guardEnd : Option Nat) : WakePlan :=
  { mask := 1, start := start, spacing := 10, bits := 1, guard := 1, state := st, activationDay := none,
    activationSecond := some 990, cursor := 1, guardEnd := guardEnd }

/-- A part with something for every command that reads: an entry, holds of both senses, a group with a provider and a consumer, a clock
at this second of this minute, a window that covers it and one that runs past midnight, and a plan in this state. -/
def rich (minute second : Nat) (st : PlanState) (guardEnd : Option Nat) : State :=
  { State.reset with
    timeBase := 1000
    loads := [(5, { recIn .queued with drawsA := some ⟨0, 10⟩ }),
      (6, { recIn .stopped with address := 2, provides := some ⟨0, 0, 10⟩ })]
    queue := [⟨5, .call, 0, .supply, 990⟩]
    holds := [(0, ⟨5, .keepRun 3, some 7, none⟩), (1, ⟨5, .keepOff, none, some ⟨0, 9⟩⟩)]
    groups := [(0, ⟨15, .raising 6, []⟩), (1, ⟨0, .normal, []⟩), (2, ⟨0, .short, [6]⟩)]
    clock := some ⟨0, minute, second⟩
    windows := (State.reset.windows.set 0 ⟨0, 1439, 2⟩).set 1 ⟨1400, 1399, 1⟩
    plans := [(0, { planned 9 st guardEnd with activationDay := some 0, activationSecond := some 995 })] }

theorem dropLaw_rich (m second : Nat) (st : PlanState) (g : Option Nat) : DropLaw (rich m second st g) := by
  have h : ∀ (P : Nat → LoadRecord → Prop), P 5 { recIn .queued with drawsA := some ⟨0, 10⟩ } →
      P 6 { recIn .stopped with address := 2, provides := some ⟨0, 0, 10⟩ } → ∀ n r, (rich m second st g).load n = some r → P n r :=
    fun P h5 h6 => each_load (fun e he => by
      simp only [rich, List.mem_cons, List.not_mem_nil, or_false] at he
      rcases he with rfl | rfl
      · exact h5
      · exact h6)
  intro n k rn rk hn hk _ ha
  revert ha
  refine h (fun n rn => rn.address = rk.address → n = k) ?_ ?_ n rn hn
  · exact h (fun k rk => 1 = rk.address → 5 = k) (by decide) (by decide) k rk hk
  · exact h (fun k rk => 2 = rk.address → 6 = k) (by decide) (by decide) k rk hk

theorem witness_ReadCommandsAnswer :
    (∀ m second st g c p, Canonical (sent (rich m second st g) c p) ∧ (sent (rich m second st g) c p).Sent c p)
    -- the queue, and the clock UNSET, set, and with its second at 60, within the day and at its end
    ∧ (rich 10 0 .active none).queue[0]? = some ⟨5, .call, 0, .supply, 990⟩ ∧ State.reset.clock = none
    ∧ (rich 1438 60 .active none).clock = some ⟨0, 1438, 60⟩ ∧ (rich 1439 60 .active none).clock = some ⟨0, 1439, 60⟩
    -- the authority: the clock UNSET, a window of today and a tail, no guard, and a guard with 60 seconds left
    ∧ (((List.range 6).map (fun w => (DayType.work, w))).filter (fun e =>
        ((rich 10 0 .active none).window e.1 e.2).authority ≠ 0 ∧ ((rich 10 0 .active none).window e.1 e.2).start ≤ 10
          ∧ (10 < ((rich 10 0 .active none).window e.1 e.2).stop
            ∨ ((rich 10 0 .active none).window e.1 e.2).stop ≤ ((rich 10 0 .active none).window e.1 e.2).start)))
      = [(.work, 0)]
    ∧ (((List.range 6).map (fun w => (DayType.work, w))).filter (fun e =>
        ((rich 10 0 .active none).window e.1 e.2).authority ≠ 0
          ∧ ((rich 10 0 .active none).window e.1 e.2).stop ≤ ((rich 10 0 .active none).window e.1 e.2).start
          ∧ 10 < ((rich 10 0 .active none).window e.1 e.2).stop)) = [(.work, 1)]
    ∧ (∀ p x, (rich 10 0 .active none).plan p = some x → x.guardEnd = none)
    ∧ ((∃ p x e, (rich 10 0 .active (some 1060)).plan p = some x ∧ x.guardEnd = some e
          ∧ e - (rich 10 0 .active (some 1060)).timeBase = 60)
      ∧ ∀ p x e, (rich 10 0 .active (some 1060)).plan p = some x → x.guardEnd = some e →
          e - (rich 10 0 .active (some 1060)).timeBase ≤ 60)
    -- the holds
    ∧ (rich 10 0 .active none).load (239 : Byte).toNat = none ∧ 239 < (240 : Byte).toNat
    ∧ (rich 10 0 .active none).load (5 : Byte).toNat = some { recIn .queued with drawsA := some ⟨0, 10⟩ }
    ∧ ((rich 10 0 .active none).holds.filter (fun e => e.2.load == 5))[0]? = some (0, ⟨5, .keepRun 3, some 7, none⟩)
    ∧ ((rich 10 0 .active none).holds.filter (fun e => e.2.load == 5))[1]? = some (1, ⟨5, .keepOff, none, some ⟨0, 9⟩⟩)
    -- the groups
    ∧ 15 < (16 : Byte).toNat ∧ (rich 10 0 .active none).group (15 : Byte).toNat = none
    ∧ (rich 10 0 .active none).group (0 : Byte).toNat = some ⟨15, .raising 6, []⟩
    ∧ (rich 10 0 .active none).group (1 : Byte).toNat = some ⟨0, .normal, []⟩
    ∧ (rich 10 0 .active none).group (2 : Byte).toNat = some ⟨0, .short, [6]⟩
    -- the plans
    ∧ 3 < (4 : Byte).toNat ∧ (rich 10 0 .active none).plan (3 : Byte).toNat = none
    ∧ (∀ st g, ((rich 10 0 st g).plan (0 : Byte).toNat).map (fun x => (x.state, x.guardEnd)) = some (st, g))
    -- the lines
    ∧ (3 : Fin 4).val = (3 : Byte).toNat ∧ DropLaw (sent (rich 10 0 .active none) 0x41 [3]) :=
  ⟨fun _ _ _ _ _ _ => ⟨canon_sent (canon (by simp [rich, State.reset, Table.Canonical])), rfl⟩, by decide, rfl, rfl, rfl,
    by decide, by decide, fun p x h => by
      have := Table.mem_of_find h
      simp only [rich, List.mem_singleton, Prod.mk.injEq] at this
      rw [this.2]
      rfl,
    ⟨⟨0, _, 1060, rfl, rfl, by decide⟩, fun p x e h he => by
      have := Table.mem_of_find h
      simp only [rich, List.mem_singleton, Prod.mk.injEq] at this
      rw [this.2] at he
      cases he
      decide⟩,
    by decide, by decide, by decide, by decide, by decide, by decide, by decide, by decide, by decide, by decide, by decide, by decide,
    fun _ _ => rfl, by decide, dropLaw_rich 10 0 .active none⟩

/-! ### Witnesses: groups and the arbiter -/

/-- Group 0 with a QUEUED consumer of demand 10 and a STOPPED provider of capacity 10; load 5's entry failed REST. -/
def lacking (free : Bool) : State :=
  { grouped (recIn .queued) with
    loads := [(5, { recIn .queued with drawsA := some ⟨0, 10⟩ }),
      (6, { recIn .stopped with address := 2, provides := some ⟨0, 0, 10⟩, isolatorHold := !free })]
    queue := [⟨5, .call, 0, .rest, 0⟩] }

theorem witness_DefineAndRemoveGroup :
    Canonical (sent (grouped (recIn .run)) 0x28 [15, 50]) ∧ (grouped (recIn .run)).group (15 : Byte).toNat = none
    ∧ (∀ n r, (grouped (recIn .run)).load n = some r → r.namesGroup (15 : Byte).toNat = false)
    ∧ Canonical (sent (lacking true) 0x29 [0]) ∧ (lacking true).group (0 : Byte).toNat ≠ none
    ∧ (∃ n r, (lacking true).load n = some r ∧ ((∃ p, r.provides = some p ∧ p.group = (0 : Byte).toNat)
        ∨ ∃ d, (r.drawsA = some d ∨ r.drawsB = some d) ∧ d.group = (0 : Byte).toNat))
    ∧ (∀ n r, (grouped (recIn .run)).load n = some r → (∀ p, r.provides = some p → p.group ≠ (1 : Byte).toNat)
        ∧ ∀ d, r.drawsA = some d ∨ r.drawsB = some d → d.group ≠ (1 : Byte).toNat) :=
  ⟨canon_sent (canon (by decide)), by decide, each_load (by decide), canon_sent (canon (by decide)), by decide,
    ⟨6, _, rfl, .inl ⟨_, rfl, rfl⟩⟩,
    each_load (fun e he => by
      simp only [grouped, one, List.mem_cons, List.not_mem_nil, or_false] at he; subst he; simp [recIn, newRecord])⟩

theorem witness_RequiredCapacityRoundsUp :
    Canonical (lacking true) ∧ (lacking true).group 0 = some ⟨0, .normal, []⟩ ∧ ((lacking true).providersByLoad 0).length ≤ 6
    ∧ (∀ n r, (lacking true).load n = some r → (∀ d, r.drawsA = some d ∨ r.drawsB = some d → d.demand ≤ 255)
        ∧ ∀ p, r.provides = some p → p.capacity ≤ 255)
    ∧ (∀ n r a b, (lacking true).load n = some r → r.drawsA = some a → r.drawsB = some b → a.group ≠ b.group)
    ∧ (∀ st, (recIn st).state = st) ∧ State.reset.demand 0 = 0
    ∧ (one { recIn .run with drawsA := some ⟨0, 36⟩ }).demand 0 = 36 ∧ (one { recIn .run with drawsA := some ⟨0, 21⟩ }).demand 0 = 21 :=
  ⟨canon (by decide), by decide, by decide,
    each_load (fun e he => by
      simp only [lacking, List.mem_cons, List.not_mem_nil, or_false] at he
      rcases he with rfl | rfl <;> simp [recIn, newRecord]),
    fun n r a b h _ hb => absurd hb (by
      have : ∀ n r, (lacking true).load n = some r → r.drawsB = none := each_load (by decide)
      simp [this n r h]),
    fun _ => rfl, by decide, by decide, by decide⟩

theorem witness_GroupTestChoosesLowestRank :
    Canonical (lacking true) ∧ (lacking true).group 0 = some ⟨0, .normal, []⟩ ∧ (∀ p, GroupState.normal ≠ .raising p)
    ∧ (lacking true).lacks 0 = true ∧ (lacking true).queue.length < 32 ∧ (full (lacking true)).lacks 0 = true
    ∧ (grouped (recIn .run)).lacks 0 = false
    ∧ (∃ n p, ∃ r, (lacking true).load n = some r ∧ r.provides = some p ∧ p.group = 0 ∧ r.state = .stopped
        ∧ (lacking true).keepOff n = false ∧ n ∉ ([] : List Nat))
    ∧ (lacking false).lacks 0 = true ∧ (lacking false).chooseProvider 0 ⟨0, .normal, []⟩ = none :=
  ⟨canon (by decide), by decide, fun _ => by simp, by decide, by decide, by decide, by decide,
    ⟨6, _, _, rfl, rfl, rfl, rfl, by decide, by simp⟩, by decide, by decide⟩

/-- Load 5 QUEUED alone in the queue, in a part with no groups, its entry having failed REST. -/
def waiting (r : LoadRecord) (f : Feeder) (others : Table LoadRecord) : State :=
  { one r with
    loads := (5, r) :: others, queue := [⟨5, .call, 0, .rest, 0⟩],
    feeders := #v[f, .free, .free, .free, .free, .free, .free, .free] }

/-- Load 5 QUEUED at weight 5 with a heavy load STARTING at another feeder. -/
def overBudget : State :=
  waiting { recIn .queued with weight := 5 } .free [(6, { recIn .starting with address := 2, feeder := 1 })]

/-- Load 5 QUEUED drawing on group 0, which has no provider running. -/
def undersupplied : State := waiting { recIn .queued with drawsA := some ⟨0, 1⟩ } .free []

theorem witness_RestEndAndSettleEndExamine :
    Canonical (waiting (recIn .queued) .free []) ∧ (waiting (recIn .queued) .free []).load 5 = some (recIn .queued)
    ∧ (∃ e ∈ (waiting (recIn .queued) .free []).queue, e.load = 5 ∧ e.reason = .rest)
    ∧ { recIn .queued with offSince := 700 }.offSince + (recIn .queued).tuning.minimumOff * 60 ≤ (one (recIn .run)).timeBase
    ∧ (one (recIn .run)).timeBase < { recIn .queued with offSince := 701 }.offSince + (recIn .queued).tuning.minimumOff * 60
    ∧ (waiting (recIn .queued) .free []).groups = []
    ∧ ((lacking true).groups ≠ [] ∧ (lacking true).examine.queue.length = (lacking true).queue.length
      ∧ (lacking true).queue = [⟨5, .call, 0, .rest, 0⟩]
      ∧ (lacking true).capacity 0 < (lacking true).required 0)
    ∧ (waiting (recIn .queued) (.settling 1000) []).feeders[(recIn .queued).feeder] ≠ .free
    ∧ (waiting (recIn .queued) .free []).feeders[(recIn .queued).feeder] = .free
    ∧ (waiting (recIn .queued) .free []).startingCount = 0
    ∧ 0 < overBudget.startingCount ∧ overBudget.inrushLimit < overBudget.startingSum + 5
    ∧ (∃ d, d = (⟨0, 1⟩ : Draws) ∧ undersupplied.capacity d.group < undersupplied.required d.group)
    ∧ (waiting (recIn .queued) (.settling 1000) []).feeders[(0 : Fin 8)] = .settling 1000
    ∧ 1000 ≤ (one (recIn .run)).timeBase ∧ (one (recIn .run)).timeBase < 1001 ∧ (one (recIn .run)).queue = [] :=
  ⟨canon (by decide), by decide, by decide, by decide, by decide, rfl, by decide, by decide, by decide, by decide, by decide, by decide,
    ⟨_, rfl, by decide⟩, by decide, by decide, by decide, rfl⟩

/-- Loads 5 and 6 QUEUED, the second on feeder 1, before an entry of no live load. -/
def queueOfThree (r : LoadRecord) : State :=
  { one r with
    loads := [(5, r), (6, { recIn .queued with address := 2, feeder := 1 })]
    queue := [⟨5, .call, 0, .none, 0⟩, ⟨6, .call, 1, .none, 0⟩, ⟨9, .wake, 2, .none, 0⟩] }

theorem witness_ExaminationWalksQueue :
    (∀ r, Canonical (queueOfThree r) ∧ ((queueOfThree r).queue.map (·.load)).Nodup
      ∧ (queueOfThree r).queue[0]? = some ⟨5, .call, 0, .none, 0⟩ ∧ (queueOfThree r).load 5 = some r
      ∧ (queueOfThree r).stateOf 9 ≠ some .queued)
    ∧ (recIn .queued).state = .queued
    -- the four tests of the first entry
    ∧ (queueOfThree (recIn .queued)).timeBase < { recIn .queued with offSince := 701 }.offSince
        + (recIn .queued).tuning.minimumOff * 60
    ∧ { recIn .queued with offSince := 700 }.offSince + (recIn .queued).tuning.minimumOff * 60
        ≤ (queueOfThree (recIn .queued)).timeBase
    ∧ (waiting (recIn .queued) (.settling 1000) []).feeders[(recIn .queued).feeder] ≠ .free
    ∧ (queueOfThree (recIn .queued)).feeders[(recIn .queued).feeder] = .free
    ∧ 0 < overBudget.startingCount ∧ overBudget.inrushLimit < overBudget.startingSum + 5
    ∧ (queueOfThree (recIn .queued)).startingCount = 0
    ∧ undersupplied.capacity 0 < undersupplied.required 0
    ∧ (∀ d, (recIn .queued).drawsA = some d ∨ (recIn .queued).drawsB = some d →
        (queueOfThree (recIn .queued)).required d.group ≤ (queueOfThree (recIn .queued)).capacity d.group)
    -- the walk: both loads granted, the second within the budget that the first has left
    ∧ (queueOfThree (recIn .queued)).examine.queue.map (·.load) = [9] :=
  ⟨fun r => ⟨canon (by simp [queueOfThree, one, State.reset, Table.Canonical]), by simp [queueOfThree], rfl, rfl,
      by simp [State.stateOf, State.load, queueOfThree, Table.find]⟩, rfl, by decide,
    by decide, by decide, by decide, by decide, by decide, by decide, by decide, fun d h => by simp [recIn, newRecord] at h,
    by decide⟩

/-! ### Witnesses: the clock, the authority, the periods and the plans -/

theorem witness_ClockAdvances : ({ State.reset with timeBase := 4294967294 } : State).timeBase < 4294967295
    ∧ 4294967295 ≤ ({ State.reset with timeBase := 4294967295 } : State).timeBase ∧ State.reset.clock = none
    ∧ Canonical { State.reset with clock := some ⟨6, 1438, 60⟩ } ∧ (⟨6, 1438, 59⟩ : PlantClock).second < 60
    ∧ 60 ≤ (⟨6, 1438, 60⟩ : PlantClock).second ∧ (⟨6, 1438, 60⟩ : PlantClock).minute < 1439
    ∧ 1439 ≤ (⟨6, 1439, 60⟩ : PlantClock).minute :=
  ⟨by decide, by decide, rfl, canon (by decide), by decide, by decide, by decide, by decide⟩

/-- A part with plan 0 and its clock at this time. -/
def clocked (c : PlantClock) (x : WakePlan) : State := { one (recIn .run) with clock := some c, plans := [(0, x)] }

/-- Load 5 in this record, ordinal 1 of plan 0, whose slot 1 is next at second 1000. -/
def falling (r : LoadRecord) : State :=
  { one { r with membership := some ⟨0, 1⟩ } with plans := [(0, planned 10 .active none)] }

theorem witness_NewMinuteReachesPlans :
    Canonical (clocked ⟨0, 9, 60⟩ (planned 10 .waiting none)) ∧ 60 ≤ (⟨0, 9, 60⟩ : PlantClock).second
    ∧ (clocked ⟨0, 9, 60⟩ (planned 10 .waiting none)).plan 0 = some (planned 10 .waiting none)
    ∧ (planned 10 .waiting none).mask.getLsbD (DayType.code .work) = true ∧ (planned 10 .waiting none).start = 9 + 1
    ∧ State.reset.todayOverride.getD State.reset.dayMap[(0 : Fin 7)] = .work
    ∧ ({ clocked ⟨0, 9, 60⟩ (planned 10 .waiting none) with clock := some ⟨0, 10, 0⟩ } : State).computedAuthority = 0
    ∧ (clocked ⟨0, 9, 60⟩ (planned 10 .waiting none)).authority = 0
    ∧ (planned 11 .waiting none).start ≠ 9 + 1 ∧ (planned 10 .done none).state ≠ .waiting
    ∧ (clocked ⟨0, 1439, 60⟩ (planned 0 .done none)).plan 0 = some (planned 0 .done none)
    ∧ State.reset.dayMap[(0 : Fin 7) + 1] = .work
    -- two plans starting at one minute, and load 5 of the first plan's slot 1
    ∧ Canonical { falling (recIn .stopped) with plans := [(0, planned 10 .waiting none), (1, planned 10 .waiting none)] }
    ∧ (falling (recIn .stopped)).load 5 = some { recIn .stopped with membership := some ⟨0, 1⟩ }
    ∧ slotOf 1 (planned 10 .waiting none).bits ≠ 0 :=
  ⟨canon (by decide), by decide, by decide, by decide, by decide, by decide, by decide, by decide, by decide, by decide, by decide,
    by decide, canon (by decide), by decide, by decide⟩

theorem witness_SetClockSets :
    Canonical (sent (clocked ⟨0, 9, 0⟩ (planned 10 .waiting none)) 0x30 [0, 0, 10, 59])
    ∧ (0 : Byte).toNat * 256 + (10 : Byte).toNat ≤ 1439 ∧ (59 : Byte).toNat ≤ 59 ∧ (0 : Fin 7).val = (0 : Byte).toNat
    ∧ 6 < (7 : Byte).toNat ∧ 1439 < (5 : Byte).toNat * 256 + (160 : Byte).toNat ∧ 59 < (60 : Byte).toNat
    ∧ (clocked ⟨0, 9, 0⟩ (planned 10 .waiting none)).clock.map (·.day) = some (0 : Fin 7)
    ∧ (clocked ⟨6, 9, 0⟩ (planned 10 .waiting none)).clock.map (·.day) ≠ some (0 : Fin 7)
    ∧ (one (recIn .run)).clock = none
    ∧ ((planned 10 .waiting none).state = .waiting ∧ 9 < (planned 10 .waiting none).start ∧ (planned 10 .waiting none).start ≤ 10
      ∧ (planned 10 .waiting none).mask.getLsbD (DayType.code .work) = true)
    ∧ ({ clocked ⟨0, 9, 0⟩ (planned 10 .waiting none) with clock := some ⟨0, 10, 59⟩ } : State).computedAuthority = 0
    ∧ ¬ (10 < (planned 10 .waiting none).start)
    -- a second that stands at 60, within the day and at its end
    ∧ (sent (clocked ⟨0, 9, 60⟩ (planned 10 .waiting none)) 0x30 [0, 0, 10, 59]).clock = some ⟨0, 9, 60⟩
    ∧ exec .plantClockMinute (sent (clocked ⟨0, 9, 60⟩ (planned 10 .waiting none)) 0x30 [0, 0, 10, 59])
      = .next (after .plantClockMinute (sent (clocked ⟨0, 9, 60⟩ (planned 10 .waiting none)) 0x30 [0, 0, 10, 59]))
    ∧ exec .midnight (sent (clocked ⟨0, 1439, 60⟩ (planned 10 .waiting none)) 0x30 [0, 0, 10, 59])
      = .next (after .midnight (sent (clocked ⟨0, 1439, 60⟩ (planned 10 .waiting none)) 0x30 [0, 0, 10, 59])) :=
  ⟨canon_sent (canon (by decide)), by decide, by decide, by decide, by decide, by decide, by decide, by decide, by decide, rfl,
    by decide, by decide, by decide, rfl, rfl, rfl⟩

theorem witness_SettingsRecomputeAuthority :
    Canonical (sent (clocked ⟨0, 9, 0⟩ (planned 10 .waiting (some 1000))) 0x32 [0, 1, 2, 0, 1, 2, 0])
    ∧ ([0, 1, 2, 0, 1, 2, 0] : List Byte).length = 7 ∧ (∀ b ∈ ([0, 1, 2, 0, 1, 2, 0] : List Byte), b.toNat ≤ 2)
    ∧ (∃ b ∈ ([0, 1, 2, 0, 1, 2, 3] : List Byte), 2 < b.toNat) ∧ 2 < (3 : Byte).toNat ∧ (3 : Byte) ≠ 255
    ∧ (one (recIn .run)).clock = none ∧ (clocked ⟨0, 9, 0⟩ (planned 10 .waiting none)).clock ≠ none
    ∧ DayType.code .rest = (2 : Byte).toNat ∧ (5 : Byte).toNat ≤ 5 ∧ (3 : Byte).toNat ≤ 3 ∧ 5 < (6 : Byte).toNat
    ∧ (planned 10 .waiting (some 1000)).guardEnd = some 1000 ∧ 1000 ≤ (one (recIn .run)).timeBase
    ∧ (one (recIn .run)).timeBase < 1001 :=
  ⟨canon_sent (canon (by decide)), by decide, by decide, by decide, by decide, by decide, rfl, by decide, by decide, by decide,
    by decide, by decide, by decide, by decide, by decide⟩

theorem witness_AuthorityIsGreatestCovering :
    Canonical (clocked ⟨0, 10, 0⟩ (planned 10 .waiting (some 1060))) ∧ State.reset.clock = none
    ∧ (clocked ⟨0, 10, 0⟩ (planned 10 .waiting (some 1060))).plan 0 = some (planned 10 .waiting (some 1060))
    ∧ (planned 10 .waiting (some 1060)).guardEnd ≠ none
    ∧ ({ State.reset with clock := some ⟨0, 10, 0⟩ } : State).clock = some ⟨0, 10, 0⟩
    ∧ (∀ p x, ({ State.reset with clock := some ⟨0, 10, 0⟩ } : State).plan p = some x → x.guardEnd = none)
    ∧ (Window.mk 10 20 2).start ≤ 10 ∧ 10 < (Window.mk 10 11 2).stop ∧ (Window.mk 10 10 2).stop = (Window.mk 10 10 2).start
    ∧ (Window.mk 20 11 2).stop < (Window.mk 20 11 2).start :=
  ⟨canon (by decide), rfl, by decide, by decide, rfl, fun p x h => by simp [State.plan, State.reset] at h, by decide, by decide,
    by decide, by decide⟩

theorem witness_PeriodEndJudgesActivity :
    (∀ r, Canonical (one r) ∧ (one r).load 5 = some r ∧ (one r).loads = [(5, r)])
    ∧ State.reset.timeBase < State.reset.periodEnd ∧ (one (recIn .run)).periodEnd ≤ (one (recIn .run)).timeBase
    ∧ (recIn .run).figures.seen = false ∧ { recIn .run with figures := ⟨0, none, true⟩ }.figures.seen = true
    -- with no activity a level of 114 falls to 100 = TL, and one of 115 to 101; one of 228 falls to 200 = TH
    ∧ nextLevel 114 3 0 = 100 ∧ nextLevel 115 3 0 = 101 ∧ nextLevel 228 3 0 = 200 ∧ nextLevel 227 3 0 = 199
    ∧ (recIn .idle).tuning.idleDelay * 60 ≤ (179 + 1) * (one (recIn .idle)).period
    ∧ (178 + 1) * (one (recIn .idle)).period < (recIn .idle).tuning.idleDelay * 60 :=
  ⟨fun r => ⟨canon_one r, rfl, rfl⟩, by decide, by decide, by decide, by decide, by decide, by decide, by decide, by decide, by decide,
    by decide⟩

theorem witness_SetWakePlanSettles :
    Canonical (sent (clocked ⟨0, 9, 0⟩ (planned 10 .active (some 1060))) 0x38 [0, 7, 0, 10, 0, 9, 7, 241])
    ∧ 3 < (4 : Byte).toNat ∧ 7 < (8 : Byte).toNat ∧ (3 : Byte).toNat ≤ 3 ∧ (7 : Byte).toNat ≤ 7
    ∧ (clocked ⟨0, 9, 0⟩ (planned 10 .active (some 1060))).plan (3 : Byte).toNat = none
    ∧ (clocked ⟨0, 9, 0⟩ (planned 10 .active (some 1060))).plan (0 : Byte).toNat = some (planned 10 .active (some 1060))
    ∧ (planned 10 .active (some 1060)).state = .active ∧ (planned 10 .done none).state ≠ .active
    ∧ (clocked ⟨0, 9, 0⟩ (planned 10 .active (some 1060))).clock = some ⟨0, 9, 0⟩
    ∧ (planned 10 .active (some 1060)).guardEnd ≠ none ∧ (planned 10 .active none).guardEnd = none :=
  ⟨canon_sent (canon (by decide)), by decide, by decide, by decide, by decide, by decide, by decide, rfl, by decide, rfl, by decide,
    rfl⟩

/-- Loads 5 and 6 STOPPED, both of slot 1 of plan 0, with this many places left in the queue and no feeder FREE. -/
def fallingTwo (room : Nat) : State :=
  { falling (recIn .stopped) with
    loads := [5, 6].map (fun n => (n, { recIn .stopped with address := n, membership := some ⟨0, 1⟩ }))
    queue := List.replicate (32 - room) ⟨9, .call, 0, .none, 0⟩
    feeders := Vector.replicate 8 (.settling 2000) }

theorem witness_WakeSlotFalls :
    (∀ r, Canonical (falling r) ∧ (falling r).plan 0 = some (planned 10 .active none)
      ∧ (falling r).load 5 = some { r with membership := some ⟨0, 1⟩ })
    ∧ (planned 10 .active none).activationSecond = some 990 ∧ 990 + 1 * 10 ≤ (falling (recIn .stopped)).timeBase
    ∧ ({ falling (recIn .stopped) with timeBase := 999 } : State).timeBase < 990 + 1 * 10
    ∧ slotOf 1 1 = (planned 10 .active none).cursor ∧ (planned 10 .waiting none).state ≠ .active
    ∧ (falling (recIn .stopped)).keepOff 5 = false ∧ (falling (recIn .stopped)).hasEntry 5 = false
    ∧ (falling (recIn .stopped)).queue.length < 32 ∧ 32 ≤ (full (falling (recIn .stopped))).queue.length
    ∧ (falling { recIn .stopped with isolatorHold := true }).keepOff 5 = true
    ∧ (one (recIn .run)).members 0 = []
    -- two members for one place
    ∧ (∀ room, Canonical (fallingTwo room) ∧ (fallingTwo room).groups = [] ∧ (fallingTwo room).plan 0 = some (planned 10 .active none))
    ∧ (∀ f : Fin 8, (fallingTwo 1).feeders[f] ≠ .free) ∧ (fallingTwo 1).queue.length + 0 < 32
    ∧ 32 ≤ (fallingTwo 1).queue.length + 1 ∧ ([5, 6] : List Nat).Pairwise (· < ·)
    ∧ (∀ n, n ∈ [5, 6] ↔ (∃ r m, (fallingTwo 1).load n = some r ∧ r.membership = some m ∧ m.plan = 0
        ∧ slotOf m.ordinal 1 = (planned 10 .active none).cursor) ∧ (fallingTwo 1).stateOf n = some .stopped
        ∧ (fallingTwo 1).keepOff n = false) :=
  ⟨fun _ => ⟨canon (by simp [falling, one, State.reset, Table.Canonical]), rfl, rfl⟩, by decide, by decide, by decide, by decide,
    by decide, by decide, by decide, by decide, by decide, by decide, by decide,
    fun _ => ⟨canon (by simp [fallingTwo, falling, one, State.reset, Table.Canonical]), rfl, rfl⟩, by decide, by decide, by decide,
    by decide, fun n => ⟨fun h => by
      simp only [List.mem_cons, List.not_mem_nil, or_false] at h
      rcases h with rfl | rfl
      · exact ⟨⟨_, _, rfl, rfl, rfl, by decide⟩, by decide, by decide⟩
      · exact ⟨⟨_, _, rfl, rfl, rfl, by decide⟩, by decide, by decide⟩,
      fun ⟨⟨r, _, hr, _⟩, _⟩ => each_load (s := fallingTwo 1) (P := fun n _ => n ∈ [5, 6]) (by decide) n r hr⟩⟩

/-! ### Witnesses: the lines -/

/-- Line 0 on with load 5 at drop 1, polled by the exchange in flight, and this LOST set. -/
def polled (r : LoadRecord) (lost : List Nat) : State :=
  (one r).setLine 0
    { Line.reset with enabled := true, lost := lost, exchange := some ⟨1, some 5, ⟨.stop, 0, 0, false⟩, 48, 8⟩ }

theorem canon_polled (r : LoadRecord) (lost : List Nat) : Canonical (polled r lost) :=
  canon (by simp [polled, one, State.setLine, State.reset, Table.Canonical])

theorem witness_SetLineActs :
    (∀ r lost, Canonical (sent (polled r lost) 0x40 [0, 1, 0, 0, 1, 0]) ∧ (polled r lost).load 5 = some r
      ∧ ((polled r lost).lineAt 0).enabled = true ∧ ((polled r lost).lineAt 0).lost = lost)
    ∧ DropLaw (one (recIn .run)) ∧ ((one (recIn .run)).lineAt 0).enabled = false
    ∧ 3 < (4 : Byte).toNat ∧ 1 < (2 : Byte).toNat ∧ (3 : Fin 4).val = (3 : Byte).toNat
    ∧ (∀ st, (recIn st).line = 0 ∧ (recIn st).address = 1 ∧ (recIn st).state = st)
    ∧ (1 ∉ ([] : List Nat) ∧ (recIn .run).missCount < 1) ∧ 1 ∈ [1] ∧ 1 ≤ { recIn .run with missCount := 1 }.missCount :=
  ⟨fun _ _ => ⟨canon_sent (canon_polled _ _), rfl, rfl, rfl⟩, dropLaw_one _, by decide, by decide, by decide, by decide,
    fun _ => ⟨rfl, rfl, rfl⟩, by decide, by decide, by decide⟩

theorem witness_ExchangeStartPolls :
    Canonical (lineOn (one (recIn .run))) ∧ DropLaw (one (recIn .run)) ∧ ((lineOn (one (recIn .run))).lineAt 0).enabled = true
    ∧ ((lineOn (one (recIn .run))).lineAt 0).exchange = none ∧ ((one (recIn .run)).lineAt 0).enabled = false
    ∧ ((polled (recIn .run) []).lineAt 0).exchange ≠ none ∧ (lineOn (one (recIn .run))).load 5 = some (recIn .run)
    ∧ (∀ n r, (one (recIn .run)).load n = some r → r.line ≠ 3)
    ∧ (0 : Byte).toNat = (if (recIn .run).commanded = .run then 0 else if (recIn .run).commanded = .stop then 1 else 2)
        + 4 * (recIn .run).startCount.toNat + 16 * (recIn .run).buttonTaken.toNat
        + (if (one (recIn .run)).keepRunLevels 5 = [] then 0 else 64)
    ∧ ((lineOn (one (recIn .run))).lineAt 0).urgent = [] ∧ ((lineOn (one (recIn .run))).lineAt 0).pass < 8
    -- found on this pass at the cursor's own address, and, of a LOST drop, eight passes on
    ∧ ((lineOn (one (recIn .run))).lineAt 0).cursor ≤ (recIn .run).address ∧ (0 + 8) % 8 = 0
    ∧ (∀ j, 0 < j → j < 8 → ¬ ((0 + j) % 8 = 0 ∨ 1 ∉ [1])) :=
  ⟨canon (by decide), dropLaw_one _, by decide, by decide, by decide, by decide, rfl, each_load (by decide), by decide, by decide,
    by decide, by decide, by decide, fun j h h' => by simp; omega⟩

theorem witness_ReplyIsJudged :
    (0 : BitVec 11).getLsbD 0 = false ∧ (1 : BitVec 11).getLsbD 0 = true
    ∧ chars [1] ≠ [] ∧ (∃ c ∈ ([⟨0, true, true⟩] : List RxChar), c.stopBit = false ∨ c.markBit = true)
    ∧ (∀ c ∈ (chars [1, 0, 0, 0, 0, 0x62]).take 6, c.stopBit = true ∧ c.markBit = false) ∧ (chars [1, 2, 3, 4, 5]).length < 6
    ∧ ((chars [1, 0, 0, 0, 0, 0x62]).take 6).map (·.data) = [1, 0, 0, 0, 0, 0x62]
    ∧ (0x62 : Byte) = crc8 [1, 0, 0, 0, 0] ∧ (0x63 : Byte) ≠ crc8 [1, 0, 0, 0, 0] ∧ (1 : Byte) = byte 1 ∧ (1 : Byte) ≠ byte 65 := by
  decide +kernel

theorem witness_FailedExchangeCounts :
    (∀ r lost, Canonical (polled r lost) ∧ (polled r lost).load 5 = some r
      ∧ ((polled r lost).lineAt 0).exchange = some ⟨1, some 5, ⟨.stop, 0, 0, false⟩, 48, 8⟩
      ∧ ((polled r lost).lineAt 0).lossCount = 3)
    ∧ (∀ rep, judge 1 (receivedChars []) ≠ .valid rep) ∧ (∀ rep, judge 1 (receivedChars [1536]) ≠ .valid rep)
    ∧ ((one (recIn .run)).lineAt 0).exchange = none
    ∧ ((polled (recIn .run) []).lineAt 0).silent ≤ 255 ∧ ((polled (recIn .run) []).lineAt 0).stray ≤ 255
    ∧ (recIn .run).address ∉ ([] : List Nat) ∧ (recIn .run).address ∈ [1]
    ∧ { recIn .run with missCount := 1 }.missCount + 1 < 3 ∧ { recIn .run with missCount := 2 }.missCount + 1 = 3
    ∧ { recIn .retiring with missCount := 3 }.missCount = 3 :=
  ⟨fun _ _ => ⟨canon_polled _ _, rfl, rfl, rfl⟩, fun rep => by simp [judge, receivedChars], fun rep => by
    rw [show judge 1 (receivedChars [1536]) = .framing by decide]
    simp, rfl, by decide, by decide, by decide, by decide, by decide,
    by decide, by decide⟩

theorem witness_ValidReportActs :
    (∀ r lost, Canonical (polled r lost) ∧ ((polled r lost).lineAt 0).exchange = some ⟨1, some 5, ⟨.stop, 0, 0, false⟩, 48, 8⟩
      ∧ (polled r lost).load 5 = some r)
    ∧ (∀ st, (recIn st).line = 0 ∧ (recIn st).address = 1 ∧ (recIn st).isolatorHold = false ∧ (recIn st).buttonTaken = 0
      ∧ (recIn st).startCount = 0)
    -- STOPPED; RUNNING; RUNNING with stop declined; RUNNING with released: flags 0, 1, 17 and 33
    ∧ judge 1 (receivedChars (samples [1, 0, 0, 0, 0, 0x62])) = .valid ⟨.stopped, false, false, false, false, 0, 0, 0, 0⟩
    ∧ judge 1 (receivedChars (samples [1, 1, 0, 0, 0, crc8 [1, 1, 0, 0, 0]])) = .valid ⟨.running, false, false, false, false, 0, 0, 0, 0⟩
    ∧ judge 1 (receivedChars (samples [1, 17, 0, 0, 0, crc8 [1, 17, 0, 0, 0]])) = .valid ⟨.running, false, false, true, false, 0, 0, 0, 0⟩
    ∧ judge 1 (receivedChars (samples [1, 33, 0, 0, 0, crc8 [1, 33, 0, 0, 0]])) = .valid ⟨.running, false, false, false, true, 0, 0, 0, 0⟩
    -- an UNKNOWN provider that a group has failed to raise, found running, and one whose isolator closes
    ∧ (∀ r, RaiseLaw (failedOnce (polled r []))) ∧ (recIn .unknown).state = .unknown
    ∧ (failedOnce (polled { recIn .unknown with isolatorHold := true } [])).holdsOn 5 = []
    ∧ (after (.replyEnd 0 (samples [1, 1, 0, 0, 0, crc8 [1, 1, 0, 0, 0]]))
        (failedOnce (polled (recIn .unknown) []))).stateOf 5 = some .run
    ∧ { recIn .retiring with retireExchanges := 8 }.retireExchanges + 1 < 10
    ∧ { recIn .retiring with retireExchanges := 9 }.retireExchanges + 1 = 10 :=
  ⟨fun _ _ => ⟨canon_polled _ _, rfl, rfl⟩, fun _ => ⟨rfl, rfl, rfl, rfl, rfl⟩, by decide +kernel, by decide +kernel,
    by decide +kernel, by decide +kernel, fun _ => raiseLaw_failedOnce _, rfl, by decide, by decide +kernel, by decide, by decide⟩

/-- The report of flags `f` with drop button count `b`, as it is received. -/
def reported (f b : Byte) : List RxChar := receivedChars (samples [1, f, b * 4, 0, 0, crc8 [1, f, b * 4, 0, 0]])

theorem witness_ReportFlagsAct :
    (∀ r lost, Canonical (polled r lost) ∧ ((polled r lost).lineAt 0).exchange = some ⟨1, some 5, ⟨.stop, 0, 0, false⟩, 48, 8⟩
      ∧ (polled r lost).load 5 = some r)
    ∧ (∀ st, (recIn st).line = 0 ∧ (recIn st).address = 1 ∧ (recIn st).isolatorHold = false ∧ (recIn st).buttonTaken = 0
      ∧ (recIn st).state = st)
    -- the isolator opens, and closes; the local flag appears, alone and with a press, and goes, stopped and running
    ∧ judge 1 (reported 8 0) = .valid ⟨.stopped, false, true, false, false, 0, 0, 0, 0⟩
    ∧ judge 1 (reported 0 0) = .valid ⟨.stopped, false, false, false, false, 0, 0, 0, 0⟩
    ∧ judge 1 (reported 4 0) = .valid ⟨.stopped, true, false, false, false, 0, 0, 0, 0⟩
    ∧ judge 1 (reported 4 1) = .valid ⟨.stopped, true, false, false, false, 0, 1, 0, 0⟩
    ∧ judge 1 (reported 1 0) = .valid ⟨.running, false, false, false, false, 0, 0, 0, 0⟩
    -- a STARTING provider alone in its group, and one with another in STOPPING
    ∧ (∃ p m rm pm, ({ recIn .starting with provides := some ⟨0, 0, 10⟩ } : LoadRecord).provides = some p ∧ m ≠ 5
        ∧ (twoProviders .stopping).load m = some rm ∧ rm.provides = some pm ∧ pm.group = p.group ∧ rm.state = .stopping)
    ∧ (∀ p m rm pm, (recIn .starting).provides = some p → m ≠ 5 → (polled (recIn .starting) []).load m = some rm →
        rm.provides = some pm → pm.group = p.group → rm.state ≠ .stopping)
    ∧ (polled (recIn .starting) []).settleTime ≠ 0
    -- a STOPPED provider found running, and one whose isolator closes, in a group that has failed to raise it
    ∧ (∀ r, RaiseLaw (failedOnce (polled r [])))
    ∧ (failedOnce (polled { recIn .stopped with isolatorHold := true } [])).holdsOn 5 = []
    ∧ (after (.replyEnd 0 (samples [1, 1, 0, 0, 0, crc8 [1, 1, 0, 0, 0]]))
        (failedOnce (polled (recIn .stopped) []))).stateOf 5 = some .run :=
  ⟨fun _ _ => ⟨canon_polled _ _, rfl, rfl⟩, fun _ => ⟨rfl, rfl, rfl, rfl, rfl⟩, by decide +kernel, by decide +kernel,
    by decide +kernel, by decide +kernel, by decide +kernel, ⟨_, 6, _, _, rfl, by decide, rfl, rfl, rfl, rfl⟩,
    fun p _ _ _ h => by simp [recIn, newRecord] at h, by decide, fun _ => raiseLaw_failedOnce _,
    by decide, by decide +kernel⟩

theorem witness_PressActs :
    (∀ r lost, Canonical (polled r lost) ∧ ((polled r lost).lineAt 0).exchange = some ⟨1, some 5, ⟨.stop, 0, 0, false⟩, 48, 8⟩
      ∧ (polled r lost).load 5 = some r)
    ∧ (∀ st, (recIn st).line = 0 ∧ (recIn st).address = 1 ∧ (recIn st).isolatorHold = false ∧ (recIn st).buttonTaken = 0
      ∧ (recIn st).state = st)
    -- a press in a report of STOPPED, of RUNNING, of RUNNING that declines a stop, and of a load in LOCAL
    ∧ judge 1 (reported 0 1) = .valid ⟨.stopped, false, false, false, false, 0, 1, 0, 0⟩
    ∧ judge 1 (reported 1 1) = .valid ⟨.running, false, false, false, false, 0, 1, 0, 0⟩
    ∧ judge 1 (reported 17 1) = .valid ⟨.running, false, false, true, false, 0, 1, 0, 0⟩
    ∧ judge 1 (reported 4 1) = .valid ⟨.stopped, true, false, false, false, 0, 1, 0, 0⟩ ∧ (1 : BitVec 2) ≠ 0
    -- E is 0, 1 and 2
    ∧ max (polled (recIn .due) []).authority ((recIn .due).portStop.getD 0) = 0
    ∧ max (polled (recIn .due) []).authority ({ recIn .due with portStop := some 1 }.portStop.getD 0) = 1
    ∧ 1 < max (polled (recIn .due) []).authority ({ recIn .due with portStop := some 2 }.portStop.getD 0)
    ∧ ((polled (recIn .due) []).setLoad 5 { recIn .due with portStop := some 2, buttonHold := some 60 }).permission 5
        { recIn .due with portStop := some 2, buttonHold := some 60 } = .none
    ∧ ((polled (recIn .due) []).setLoad 5 { recIn .due with buttonHold := some 60 }).permission 5
        { recIn .due with buttonHold := some 60 } ≠ .none
    -- the room of the queue, and a KEEP-OFF hold
    ∧ (polled (recIn .stopped) []).keepOff 5 = false ∧ (polled (recIn .stopped) []).queue.length < 32
    ∧ 32 ≤ (full (polled (recIn .stopped) [])).queue.length
    ∧ (heldOff (recIn .stopped)).keepOff 5 = true :=
  ⟨fun _ _ => ⟨canon_polled _ _, rfl, rfl⟩, fun _ => ⟨rfl, rfl, rfl, rfl, rfl⟩, by decide +kernel, by decide +kernel,
    by decide +kernel, by decide +kernel, by decide, by decide, by decide, by decide, by decide, by decide, by decide, by decide,
    by decide, by decide⟩

/-! ### Witnesses: the laws and the frames -/

/-- Load 5 of `busy`: STARTING. -/
def busy5 : LoadRecord := { recIn .starting with provides := some ⟨0, 0, 10⟩, verifyEnd := some 60 }

/-- Load 6 of `busy`: QUEUED. -/
def busy6 : LoadRecord := { recIn .queued with address := 2, drawsA := some ⟨0, 10⟩ }

/-- Load 7 of `busy`: STOPPING. -/
def busy7 : LoadRecord := { recIn .stopping with address := 3, provides := some ⟨0, 1, 10⟩, verifyEnd := some 300 }

/-- Load 5 STARTING on feeder 0, raised by group 0, for load 6 QUEUED in the queue; load 7 STOPPING under a KEEP-RUN hold; line 0 with
an exchange in flight, an urgent address and a LOST drop; a window that covers the minute. -/
def busy : State :=
  { State.reset.setLine 0 { Line.reset with
      enabled := true, urgent := [1, 3], lost := [2], exchange := some ⟨1, some 5, ⟨.run, 1, 0, false⟩, 48, 8⟩ } with
    pending := [.identify]
    clock := some ⟨0, 10, 0⟩
    windows := State.reset.windows.set 0 ⟨0, 20, 2⟩
    authority := 2
    marks := [5, 239]
    loads := [(5, busy5), (6, busy6), (7, busy7)]
    groups := [(0, ⟨15, .raising 5, []⟩)]
    holds := [(0, ⟨7, .keepRun 1, some 0, none⟩)]
    queue := [⟨6, .call, 0, .supply, 0⟩]
    feeders := #v[.starting 5, .free, .free, .free, .free, .free, .free, .free] }

theorem busy_loads {P : Nat → LoadRecord → Prop} (h : P 5 busy5 ∧ P 6 busy6 ∧ P 7 busy7) :
    ∀ n r, busy.load n = some r → P n r := each_load (fun e he => by
  simp only [busy, List.mem_cons, List.not_mem_nil, or_false] at he
  rcases he with rfl | rfl | rfl
  · exact h.1
  · exact h.2.1
  · exact h.2.2)

theorem busy_vacant {n : Nat} (h5 : n ≠ 5) (h6 : n ≠ 6) (h7 : n ≠ 7) : busy.load n = none := by
  have : (5 : Nat) ≠ n ∧ 6 ≠ n ∧ 7 ≠ n := ⟨h5.symm, h6.symm, h7.symm⟩
  simp [State.load, busy, Table.find, this]

/-- One step answers a next state from here, as the statements about every step ask. -/
theorem busy_steps : step busy = .next (after .identify { busy with pending := [] }) := rfl

theorem witness_TableLawsKept :
    Canonical busy ∧ ThresholdLaw busy ∧ DropLaw busy ∧ GraphLaw busy ∧ HoldLaw busy ∧ SlotLaw busy := by
  refine ⟨canon (by decide), busy_loads (by decide), ?_, graphRefused_eq_false_iff.1 (by decide),
    ⟨fun e he => ?_, fun n => le_trans (List.length_filter_le _ _) (by decide)⟩, ⟨by decide, by decide, by decide⟩⟩
  · intro n m rn rm hn hm _ ha
    revert ha
    refine busy_loads (P := fun n rn => rn.address = rm.address → n = m) ?_ n rn hn
    exact busy_loads (P := fun m rm =>
      ((recIn .starting).address = rm.address → 5 = m) ∧ (2 = rm.address → 6 = m) ∧ (3 = rm.address → 7 = m)) (by decide) m rm hm
  · simp only [busy, List.mem_cons, List.not_mem_nil, or_false] at he
    subst he
    exact ⟨.stopping, by decide, by decide⟩

theorem witness_QueueLawKept : QueueLaw busy := by
  refine ⟨by decide, by decide, by decide, fun n => ?_⟩
  by_cases h5 : n = 5
  · subst h5; decide
  by_cases h6 : n = 6
  · subst h6; decide
  by_cases h7 : n = 7
  · subst h7; decide
  have h : busy.hasEntry n = false := by simp [State.hasEntry, busy, Ne.symm h6]
  simp only [State.stateOf, busy_vacant h5 h6 h7, h]
  simp

theorem witness_FeederAndBudgetLawsKept : FeederLaw busy ∧ BudgetLaw busy := by
  refine ⟨fun f n => ?_, by unfold BudgetLaw; decide⟩
  constructor
  · intro h
    have h0 : ∀ g : Fin 8, busy.feeders[g] = .starting n → g = 0 ∧ n = 5 := by
      intro g
      fin_cases g <;> simp [busy, eq_comm]
    obtain ⟨rfl, rfl⟩ := h0 f h
    exact ⟨_, rfl, rfl, rfl⟩
  · rintro ⟨r, hr, hs, rfl⟩
    revert hs
    exact busy_loads (P := fun n r => r.state = .starting → busy.feeders[r.feeder] = .starting n) (by decide) n r hr

theorem witness_PacingLawKept : PacingLaw busy := by
  intro n m rn rm pn pm hn hm _ _ _ hsn hsm
  have h7 : ∀ n r, busy.load n = some r → r.state = .stopping → n = 7 := busy_loads (by decide)
  rw [h7 n rn hn hsn, h7 m rm hm hsm]

theorem witness_KeepOffLawKept : KeepOffLaw busy := by
  intro n h
  by_cases h5 : n = 5
  · subst h5; exact absurd h (by decide)
  by_cases h6 : n = 6
  · subst h6; exact absurd h (by decide)
  by_cases h7 : n = 7
  · subst h7; decide
  simp [State.stateOf, busy_vacant h5 h6 h7]

theorem witness_RaiseLawKept : RaiseLaw busy := by
  intro g p x hx hp
  have hg : x = ⟨15, .raising 5, []⟩ := by
    simp only [State.group, busy, Table.find] at hx
    split at hx
    · exact (Option.some.inj hx).symm
    · simp at hx
  subst hg
  simp only [GroupState.raising.injEq] at hp
  subst hp
  decide

theorem witness_HoldLawKept : HoldLaw busy := witness_TableLawsKept.2.2.2.2.1

theorem witness_LineLawKept : LineLaw busy := by
  have on0 : ∀ (P : Fin 4 → Line → Prop), P 0 (busy.lineAt 0) → P 1 Line.reset → P 2 Line.reset → P 3 Line.reset →
      ∀ l, P l (busy.lineAt l) := fun P h0 h1 h2 h3 l => by
    fin_cases l
    · exact h0
    · exact h1
    · exact h2
    · exact h3
  have r1 : busy.inRing 0 1 := ⟨5, busy5, rfl, rfl, rfl⟩
  have r2 : busy.inRing 0 2 := ⟨6, busy6, rfl, rfl, rfl⟩
  have r3 : busy.inRing 0 3 := ⟨7, busy7, rfl, rfl, rfl⟩
  refine ⟨by decide, by decide, on0 (fun l x => ∀ a ∈ x.urgent, busy.inRing l a) (fun a ha => ?_) ?_ ?_ ?_,
    on0 (fun l x => ∀ a ∈ x.lost, busy.inRing l a) (fun a ha => ?_) ?_ ?_ ?_, on0 (fun l x => ∀ e n, x.exchange = some e →
      e.load = some n → ∃ r, busy.load n = some r ∧ r.line = l ∧ r.address = e.address) (fun e n he hn => ?_) ?_ ?_ ?_,
    by decide, by decide⟩
  · have ha : a ∈ ([1, 3] : List Nat) := ha
    simp only [List.mem_cons, List.not_mem_nil, or_false] at ha
    rcases ha with rfl | rfl
    · exact r1
    · exact r3
  any_goals simp [Line.reset]
  · have ha : a ∈ ([2] : List Nat) := ha
    simp only [List.mem_cons, List.not_mem_nil, or_false] at ha
    exact ha ▸ r2
  · have he : some (⟨1, some 5, ⟨.run, 1, 0, false⟩, 48, 8⟩ : Exchange) = some e := he
    cases he
    cases hn
    exact ⟨busy5, rfl, rfl, rfl⟩

theorem witness_AuthorityLawKept : AuthorityLaw busy := by unfold AuthorityLaw; decide

theorem witness_RecordLawKept : RecordLaw busy :=
  ⟨busy_loads (by decide), busy_loads (by decide), busy_loads (by decide), busy_loads (by decide)⟩

theorem witness_EachRowWritesItsOwn : exec .identify busy = .next (after .identify busy) ∧ Instr.identify ≠ .hardwareReset
    ∧ writesClock .identify = false ∧ writesDayTypes .identify = false ∧ writesAuthority .identify = false
    ∧ writesSlots .identify = false ∧ writesHolds .identify = false ∧ writesPlans .identify = false
    ∧ writesCounters .identify = false ∧ writesOverrun .identify = false ∧ isTransaction .identify = false
    ∧ isEvent (.settleEnd 0) = true ∧ exec (.settleEnd 0) busy = .next (after (.settleEnd 0) busy) :=
  ⟨rfl, by decide, by decide, by decide, by decide, by decide, by decide, by decide, by decide, by decide, by decide, by decide, rfl⟩

/-- Load 5 in this record on an enabled line, and a frame. -/
def onLine (r : LoadRecord) (code : Byte) (p : List Byte) : State := sent (lineOn (one r)) code p

theorem witness_RecordConfigurationKept : exec .identify busy = .next (after .identify busy) ∧ Instr.identify ≠ .hardwareReset
    ∧ busy.load 5 = some busy5 ∧ (after .identify busy).load 5 = some busy5
    -- a stop and a start, each a change of the orders of a record on an enabled line
    ∧ exec .stopLoad (onLine (recIn .run) 0x19 [5, 3]) = .next (after .stopLoad (onLine (recIn .run) 0x19 [5, 3]))
    ∧ exec .startLoad (onLine (recIn .stopped) 0x18 [5]) = .next (after .startLoad (onLine (recIn .stopped) 0x18 [5]))
    ∧ (∃ r', (after .stopLoad (onLine (recIn .run) 0x19 [5, 3])).load 5 = some r' ∧ r'.commanded ≠ (recIn .run).commanded
        ∧ ((after .stopLoad (onLine (recIn .run) 0x19 [5, 3])).lineAt 0).enabled = true)
    ∧ (∃ r', (after .startLoad (onLine (recIn .stopped) 0x18 [5])).load 5 = some r' ∧ (recIn .stopped).state ≠ .starting
        ∧ r'.state = .starting ∧ r'.startCount ≠ (recIn .stopped).startCount
        ∧ ((after .startLoad (onLine (recIn .stopped) 0x18 [5])).lineAt 0).enabled = true) :=
  ⟨rfl, by decide, rfl, rfl, rfl, rfl,
    ⟨_, rfl, by decide, by decide⟩, ⟨_, rfl, by decide, by decide, by decide, by decide⟩⟩

theorem witness_OtherRecordsTakeOnlyHandoffs :
    Canonical (sent busy 0x18 [5]) ∧ (.startLoad, 0x18) ∈ loadCommandTable ∧ (sent busy 0x18 [5]).Sent 0x18 [5]
    ∧ exec .startLoad (sent busy 0x18 [5]) = .next (after .startLoad (sent busy 0x18 [5])) ∧ (5 : Byte).toNat = 5
    ∧ (sent busy 0x18 [5]).stateOf 6 = some .queued ∧ (sent busy 0x18 [5]).load 8 = none
    ∧ exec (.minimumRunReached 5) busy = .next (after (.minimumRunReached 5) busy)
    -- the hold of load 7, expired and released
    ∧ Table.find (sent busy 0x21 [0]).holds 0 = some ⟨7, .keepRun 1, some 0, none⟩
    ∧ exec (.portHoldExpiry 0) busy = .next (after (.portHoldExpiry 0) busy)
    ∧ exec .releaseHold (sent busy 0x21 [0]) = .next (after .releaseHold (sent busy 0x21 [0])) ∧ (0 : Byte).toNat = 0
    ∧ (busy.lineAt 0).exchange = some ⟨1, some 5, ⟨.run, 1, 0, false⟩, 48, 8⟩ :=
  ⟨canon_sent (canon (by decide)), by decide, rfl, rfl, rfl, by decide, by decide, rfl, by decide, rfl, rfl, rfl, rfl⟩

/-! ### Witnesses: the evaluations, examinations, raises and starts that a step makes -/

theorem witness_SetPlantWritesOrRefuses_examination :
    twoStarting.groups = [] ∧ (lacking true).groups ≠ [] ∧ (lacking true).startingCount < 2
    ∧ ({ lacking true with period := 10, inrushLimit := 8, settleTime := 5 } : State).examine.queue.length
      = (lacking true).queue.length := by decide

/-- Load 5 STOPPED behind load 6 in class CALL and load 7 in class WAKE, with no feeder FREE. -/
def between : State :=
  { one (recIn .stopped) with
    loads := [(5, recIn .stopped), (6, { recIn .queued with address := 2 }), (7, { recIn .queued with address := 3 })]
    queue := [⟨6, .call, 0, .none, 0⟩, ⟨7, .wake, 1, .none, 0⟩]
    arrivals := 2
    feeders := Vector.replicate 8 (.settling 2000) }

theorem test_call_stands_before_wake : (after .startLoad (sent between 0x18 [5])).queue.map (·.load) = [6, 5, 7]
    ∧ (after .startLoad (sent between 0x18 [5])).arrivals = 3 := by decide

theorem witness_StartLoadByState_place :
    Canonical (sent between 0x18 [5]) ∧ QueueLaw between ∧ between.groups = [] ∧ (∀ f : Fin 8, between.feeders[f] ≠ .free)
    ∧ between.load 5 = some (recIn .stopped) ∧ between.keepOff 5 = false ∧ between.queue.length < 32
    ∧ (∃ r', (after .startLoad (sent between 0x18 [5])).load 5 = some r' ∧ r'.state = .queued) := by
  refine ⟨canon_sent (canon (by decide)), ⟨by decide, by decide, by decide, fun n => ?_⟩, rfl, by decide, rfl, by decide, by decide,
    ⟨_, rfl, by decide⟩⟩
  by_cases h5 : 5 = n
  · subst h5; decide
  by_cases h6 : 6 = n
  · subst h6; decide
  by_cases h7 : 7 = n
  · subst h7; decide
  · simp [between, State.hasEntry, State.stateOf, State.load, Table.find, h5, h6, h7]

/-- Load 5 in this state, raised by group 0, which it provides, for load 6, QUEUED on it or else running. -/
def raised (st : LoadState) (asked : Bool) : State :=
  { one (recIn st) with
    loads := [(5, { recIn st with provides := some ⟨0, 0, 10⟩, verifyEnd := some 1000 }),
      (6, { recIn (if asked then .queued else .stopped) with address := 2, feeder := 1, drawsA := some ⟨0, 10⟩ })]
    groups := [(0, ⟨0, .raising 5, []⟩)] }

theorem test_failed_raise_is_remembered :
    (after (.startVerifyTimerExpiry 5) (raised .starting true)).group 0 = some ⟨0, .short, [5]⟩ := by decide

theorem witness_RaiseFailed :
    (∀ st asked, Canonical (raised st asked) ∧ (raised st asked).groups = [(0, ⟨0, .raising 5, []⟩)]
      ∧ (raised st asked).load 5 = some { recIn st with provides := some ⟨0, 0, 10⟩, verifyEnd := some 1000 })
    ∧ ((raised .queued true).setLoad 5
        { recIn .stopped with provides := some ⟨0, 0, 10⟩, verifyEnd := some 1000 }).lacks 0 = true
    ∧ ((raised .starting true).setLoad 5
        { recIn .fault with provides := some ⟨0, 0, 10⟩, verifyEnd := some 1000 }).lacks 0 = true
    ∧ ((raised .queued false).setLoad 5
        { recIn .stopped with provides := some ⟨0, 0, 10⟩, verifyEnd := some 1000 }).lacks 0 = false
    ∧ ((raised .starting false).setLoad 5
        { recIn .fault with provides := some ⟨0, 0, 10⟩, verifyEnd := some 1000 }).lacks 0 = false
    ∧ 1000 ≤ (raised .starting true).timeBase :=
  ⟨fun _ _ => ⟨canon (by simp [raised, one, State.reset, Table.Canonical]), rfl, rfl⟩, by decide, by decide, by decide, by decide,
    by decide⟩

theorem witness_Released : (∀ st, (one (recIn st)).settleTime ≠ 0) ∧ ({ one (recIn .starting) with settleTime := 0 } : State).settleTime = 0
    ∧ (after (.startVerifyTimerExpiry 5) { raised .starting true with settleTime := 0 }).feeders[(0 : Fin 8)] = .free :=
  ⟨fun _ => (by decide : State.reset.settleTime ≠ 0), rfl, by decide⟩

/-- A DUE record under a stop request of 2 with its button hold counted to 0, in a part with a KEEP-OFF hold on it, and any group. -/
def dueHeldOff (groups : Table Group) : State :=
  { one { recIn .due with portStop := some 2, buttonHold := some 0 } with holds := [(0, ⟨5, .keepOff, some 0, none⟩)], groups := groups }

theorem test_button_hold_gone_lets_stop : (after (.buttonHoldExpiry 5)
    (one { recIn .due with portStop := some 1, buttonHold := some 0 })).stateOf 5 = some .stopping := by decide

theorem witness_HoldsCountDownAndLeave_evaluation :
    (∀ g, (dueHeldOff g).load 5 = some { recIn .due with portStop := some 2, buttonHold := some 0 }
      ∧ Table.find (dueHeldOff g).holds 0 = some ⟨5, .keepOff, some 0, none⟩)
    ∧ Canonical (dueHeldOff []) ∧ Canonical (dueHeldOff [(0, ⟨0, .normal, []⟩)]) ∧ (dueHeldOff []).groups = []
    ∧ { recIn .due with portStop := some 2 }.provides = none
    -- E is 2, above the button hold's level 1, and the minimum run has passed
    ∧ 0 < max (dueHeldOff []).authority (({ recIn .due with portStop := some 2 } : LoadRecord).portStop.getD 0)
    ∧ (∀ l ∈ (dueHeldOff []).keepRunLevels 5, l < 2)
    ∧ (recIn .due).runSince + (recIn .due).tuning.minimumRun * 60 ≤ (dueHeldOff []).timeBase
    ∧ ({ dueHeldOff [] with holds := [] } : State).permission 5 { recIn .due with portStop := some 2, buttonHold := some 0 } = .none
    -- without its button hold the record has permission; a DUE record under authority 0 has none
    ∧ ((dueHeldOff []).setLoad 5 { recIn .due with portStop := some 2 }).permission 5 { recIn .due with portStop := some 2 } = .none
    ∧ ((one { recIn .due with buttonHold := some 0 }).setLoad 5 (recIn .due)).permission 5 (recIn .due) ≠ .none :=
  ⟨fun _ => ⟨rfl, rfl⟩, canon (by decide), canon (by decide), rfl, rfl, by decide, by decide, by decide, by decide, by decide,
    by decide⟩

/-- The same part with group 0 alone. -/
def alone (s : State) : State := { s with groups := [(0, ⟨0, .normal, []⟩)] }

theorem test_raised_margin_tests_the_group :
    (after .defineGroup (sent (alone (lacking false)) 0x28 [0, 15])).group 0 = some ⟨15, .short, []⟩ := by decide

theorem witness_GroupTestChoosesLowestRank_row :
    (∀ free, (sent (alone (lacking free)) 0x28 [0, 15]).Sent 0x28 [0, 15] ∧ (alone (lacking free)).groups = [(0, ⟨0, .normal, []⟩)])
    ∧ 0 < min 50 (15 : Byte).toNat
    ∧ (alone (lacking true)).capacity 0 < ((alone (lacking true)).demand 0 * (100 + 15) + 99) / 100
    ∧ (∃ n r d, (alone (lacking true)).load n = some r ∧ r.state = .queued ∧ (r.drawsA = some d ∨ r.drawsB = some d) ∧ d.group = 0)
    ∧ 32 ≤ (full (alone (lacking true))).queue.length
    ∧ (alone (lacking false)).chooseProvider 0 ⟨0, .normal, []⟩ = none
    ∧ ((alone (one (recIn .run))).demand 0 * (100 + 15) + 99) / 100 ≤ (alone (one (recIn .run))).capacity 0 :=
  ⟨fun _ => ⟨rfl, rfl⟩, by decide, by decide, ⟨5, _, _, rfl, rfl, Or.inl rfl, rfl⟩, by decide, by decide, by decide⟩

/-- A provider of group 0 in this state beside another that runs, a consumer of 10 in this state, and the one group in this state at a
margin of 50. -/
def supplied (provider consumer : LoadState) (capacity : Nat) (st : GroupState) : State :=
  { one (recIn .run) with
    authority := 1
    groups := [(0, ⟨50, st, []⟩)]
    loads := [(4, { recIn consumer with address := 3, drawsA := some ⟨0, 10⟩ }),
      (5, { recIn provider with provides := some ⟨0, 0, capacity⟩ }),
      (6, { recIn .run with address := 2, provides := some ⟨0, 1, capacity⟩ })]
    queue := if consumer = .queued then [⟨4, .call, 0, .rest, 0⟩] else [] }

/-- R57, R103: at a margin of 50 the group cannot spare the DUE provider, at a margin of 0 it can. -/
theorem test_lowered_margin_lets_a_due_provider_stop :
    (after .defineGroup (sent (supplied .due .run 10 .normal) 0x28 [0, 0])).stateOf 5 = some .stopping := by decide

theorem witness_StopLoadByState_provider :
    (∀ st, Canonical (sent (supplied st .run 10 .normal) 0x19 [5, 3])
      ∧ (sent (supplied st .run 10 .normal) 0x19 [5, 3]).Sent 0x19 [5, 3]
      ∧ ((supplied st .run 10 .normal).load (5 : Byte).toNat).map (·.state) = some st)
    -- no other DUE provider, and a group that lacks nothing, or one that lacks supply and is RAISING another load
    ∧ (∀ m rm, (supplied .run .run 10 .normal).load m = some rm → m ≠ 5 → rm.state = .due → rm.provides = none)
    ∧ (supplied .run .run 10 .normal).lacks 0 = false
    ∧ (supplied .run .queued 1 (.raising 6)).lacks 0 = true ∧ (6 : Nat) ≠ (5 : Byte).toNat
    -- a DUE provider beside the record
    ∧ ((supplied .due .run 10 .normal).load 5).map (·.provides) = some (some ⟨0, 0, 10⟩) :=
  ⟨fun _ => ⟨canon_sent (canon (by simp [supplied, one, State.reset, Table.Canonical])), rfl, rfl⟩, each_load (by decide), by decide,
    by decide, by decide, by decide⟩

theorem witness_DefineAndRemoveGroup_margin :
    (∀ p c k st, Canonical (sent (supplied p c k st) 0x28 [0, 0]) ∧ (sent (supplied p c k st) 0x28 [0, 0]).Sent 0x28 [0, 0]
      ∧ (supplied p c k st).groups = [(0, ⟨50, st, []⟩)])
    ∧ (0 : Byte).toNat ≤ 15 ∧ min 50 (0 : Byte).toNat < 50
    -- one DUE provider
    ∧ (∀ m rm, (supplied .due .run 10 .normal).load m = some rm → m ≠ 5 → rm.provides ≠ none → rm.state ≠ .due)
    -- none, with less required; the group lacks nothing then, or it lacks supply and has no provider to raise
    ∧ (∀ m rm, (supplied .run .queued 10 .short).load m = some rm → rm.provides ≠ none → rm.state ≠ .due)
    ∧ (alone (supplied .run .queued 10 .short)).required 0 < (supplied .run .queued 10 .short).required 0
    ∧ (alone (supplied .run .queued 10 .short)).lacks 0 = false
    ∧ (alone (supplied .run .queued 1 .normal)).lacks 0 = true
    ∧ (alone (supplied .run .queued 1 .normal)).chooseProvider 0 ⟨0, .normal, []⟩ = none :=
  ⟨fun _ _ _ _ => ⟨canon_sent (canon (by simp [supplied, one, State.reset, Table.Canonical])), rfl, rfl⟩, by decide, by decide,
    each_load (by decide), each_load (by decide), by decide, by decide, by decide, by decide⟩

/-- R65, R146, R18: a loss count lowered to the drop's miss count ends a stop as LOST, and the slot is marked. -/
theorem test_lowered_loss_count_ends_a_stop :
    let s := sent (lineOn (one { recIn .stopping with missCount := 2 })) 0x40 [0, 1, 0, 48, 8, 2]
    (after .setLine s).stateOf 5 = some .unknown ∧ 5 ∈ (after .setLine s).marks
      ∧ ((after .setLine s).load 5).bind (·.lastOutcome) = some { operation := .stop, result := .lost, time := s.stamp } := by
  decide

theorem witness_SetLineActs_loss :
    (∀ st, Canonical (sent (polled { recIn st with missCount := 1 } []) 0x40 [0, 1, 0, 0, 1, 0])
      ∧ (polled { recIn st with missCount := 1 } []).load 5 = some { recIn st with missCount := 1 })
    ∧ (∀ r, DropLaw (one r)) ∧ min 15 (max 1 (0 : Byte).toNat) ≤ 1
    ∧ (recIn .queued).state = .queued ∧ (recIn .stopping).state = .stopping :=
  ⟨fun _ => ⟨canon_sent (canon_polled _ _), rfl⟩, fun r => dropLaw_one r, by decide, rfl, rfl⟩

theorem witness_SettleEnd_examination :
    (waiting (recIn .queued) (.settling 1000) []).groups = [] ∧ (waiting (recIn .queued) (.settling 1000) []).queue ≠ []
    ∧ ({ lacking true with feeders := (lacking true).feeders.set 0 .free } : State).examine.queue.length
      = (lacking true).queue.length := by decide

/-- Load 5 DUE for longer than its minimum run, the clock at this second of minute 9, a window of authority 2 from minute 10, and a plan
whose guard may run. -/
def dueAt (second : Nat) (guardEnd : Option Nat) : State :=
  { one (recIn .due) with
    clock := some ⟨0, 9, second⟩, windows := State.reset.windows.set 0 ⟨10, 20, 2⟩, plans := [(0, planned 99 .waiting guardEnd)] }

theorem test_new_authority_stops_a_due_record : (after .plantClockMinute (dueAt 60 none)).stateOf 5 = some .stopping := by decide

theorem witness_DueJudged :
    Canonical (dueAt 60 none) ∧ (dueAt 60 none).load 5 = some (recIn .due) ∧ (recIn .due).provides = none
    ∧ (after .plantClockMinute (dueAt 60 none)).authority ≠ (dueAt 60 none).authority
    ∧ (after .plantClockMinute (dueAt 60 none)).guarded = (dueAt 60 none).guarded
    ∧ (after .midnight { dueAt 60 none with clock := some ⟨0, 1439, 60⟩, windows := State.reset.windows.set 0 ⟨0, 20, 2⟩ }).authority = 2
    -- SET CLOCK to minute 10, SET WINDOW over minute 9, SET DAY MAP and OVERRIDE TODAY to a type with a window, and a guard that ends
    ∧ (after .setClock (sent (dueAt 0 none) 0x30 [0, 0, 10, 0])).authority = 2
    ∧ (after .setWindow (sent (dueAt 0 none) 0x34 [0, 1, 0, 0, 1, 0, 3])).authority = 3
    ∧ (after .setDayMap (sent { dueAt 0 none with windows := State.reset.windows.set 6 ⟨0, 20, 2⟩ } 0x32 [1, 0, 0, 0, 0, 0, 0])).authority = 2
    ∧ (after .overrideToday (sent { dueAt 0 none with windows := State.reset.windows.set 6 ⟨0, 20, 2⟩ } 0x33 [1])).authority = 2
    ∧ (after (.guardEnd 0) { dueAt 0 (some 1000) with clock := some ⟨0, 12, 0⟩ }).authority = 2
    ∧ (after .setWakePlan (sent { dueAt 0 (some 1060) with clock := some ⟨0, 12, 0⟩ } 0x38 [0, 7, 0, 99, 0, 9, 7, 0])).authority = 2
    ∧ (dueAt 0 none).authority = 0 := by
  refine ⟨canon (by decide), rfl, rfl, ?_, ?_, ?_, ?_, ?_, ?_, ?_, ?_, ?_, rfl⟩ <;> decide

/-- Load 5 IDLE one period before its idle delay, with a report that showed no activity in the period. -/
def nearlyDue : State :=
  { one { recIn .idle with idleClock := 179, level := 0, portStop := none, figures := ⟨0, none, true⟩ } with periodEnd := 1000 }

theorem witness_PeriodEndJudgesActivity_due :
    Canonical nearlyDue ∧ (∃ rb, (nearlyDue.periodEndOf 5).load 5 = some rb ∧ rb.state = .due)
    ∧ (after .activityPeriodEnd nearlyDue).stateOf 5 = some .due :=
  ⟨canon (by decide), ⟨_, rfl, by decide⟩, by decide⟩

theorem test_members_after_a_full_queue_miss :
    (after (.wakeSlot 0) { fallingTwo 1 with feeders := Vector.replicate 8 .free }).loads.map (fun e => e.2.lastOutcome)
      = [none, some ⟨.start, .missed, none⟩] := by decide

theorem witness_WakeSlotFalls_after_a_miss :
    31 ≤ (fallingTwo 1).queue.length ∧ (fallingTwo 0).stateOf 5 = some .stopped ∧ (fallingTwo 0).keepOff 5 = false ∧ 5 < 6 ∧ (fallingTwo 0).keepOff 6 = false
    ∧ (∃ r, (fallingTwo 0).load 6 = some r ∧ r.state = .stopped ∧ r.provides = none)
    ∧ (after (.wakeSlot 0) (fallingTwo 0)).stateOf 5 = some .stopped :=
  ⟨by decide, by decide, by decide, by decide, by decide, ⟨_, rfl, rfl, rfl⟩, by decide⟩

theorem witness_EachRowWritesItsOwn_quiet :
    Canonical busy ∧ quiet .identify = true ∧ Instr.identify ≠ .listChanged ∧ Instr.identify ≠ .removeGroup ∧ 239 ∈ busy.marks
    ∧ busy.load 5 ≠ none
    -- LOST sets and exchanges: a removal takes the load from the exchange that polls it
    ∧ writesSlots .retireLoad = true ∧ ((busy.lineAt 0).lost ≠ [] ∧ (busy.lineAt 0).urgent ≠ []) :=
  ⟨canon (by decide), rfl, by decide, by decide, by decide, by decide, rfl, by decide⟩

end Sys2Proof.Tests
end

section
/-! SUPPORT. The elementary changes of the part. Every command and event is a chain of changes of the kinds below; a law or a
frame is then shown once for each elementary change, and not once for each row of the table. -/

namespace Sys2Proof.Machine

/-! ### What a record names, and what its state rules out -/

/-- R152: the drop of a record. -/
def LoadRecord.drop (r : LoadRecord) : Fin 4 × Nat := (r.line, r.address)

/-- R11: what TUNE LOAD writes in a record. -/
def LoadRecord.tuned (r : LoadRecord) : Fin 8 × Nat × Tuning := (r.feeder, r.weight, r.tuning)

/-- R14: the three links of a record. -/
def LoadRecord.links (r : LoadRecord) : Option Provides × Option Draws × Option Draws := (r.provides, r.drawsA, r.drawsB)

/-- R46: the part's orders to the drop. -/
def LoadRecord.orders (r : LoadRecord) : Commanded × BitVec 2 := (r.commanded, r.startCount)

/-- `RecordLaw` of one record. -/
structure LoadRecord.Tidy (r : LoadRecord) : Prop where
  idle : r.idleClock ≠ 0 → r.state = .idle ∨ r.state = .due
  reason : r.blockReason ≠ .none → r.state = .due
  request : r.portStop ≠ none → r.state = .due ∨ r.state = .stopping
  timer : r.verifyEnd ≠ none ↔ r.state = .stopping ∨ r.state = .starting

theorem recordLaw_iff {s : State} : RecordLaw s ↔ ∀ n r, s.load n = some r → r.Tidy :=
  ⟨fun h n r hr => ⟨h.idle n r hr, h.reason n r hr, h.request n r hr, h.timer n r hr⟩,
    fun h => ⟨fun n r hr => (h n r hr).idle, fun n r hr => (h n r hr).reason, fun n r hr => (h n r hr).request,
      fun n r hr => (h n r hr).timer⟩⟩

/-! ### The kinds of change -/

/-- The kinds of elementary change. Those of the lines' own events name their line. -/
inductive Kind where
  | choices | timeBase | clock | dayTypes | dayMap | windows | authority | plant | periodEnd | reason | feeder | group
  | margin | plan | mask | attention | answer | transaction
  | mark | note | tune | link | member | strip
  | move | lose | rest | retire | evaluate | grant | period | request | enqueue
  | enrol | remove | minute | placeHold | dropHold
  | counters | lost | settings | ended (l : Fin 4) | poll (l : Fin 4)
  | list | reset

/-- The changes of a record's state that each kind may make: `evaluate`, `grant` and `period` are those of hand-offs, `lose` is
the entry to UNKNOWN of a loss or a disabling, and `rest` is a report's entry to STOPPED. -/
def Kind.moves (k : Kind) (old new : LoadState) : Prop :=
  match k with
  | .move => new ≠ .starting ∧ new ≠ .retiring ∧ (new = .stopped ∨ new = .queued → old = .stopped ∨ old = .queued)
  | .lose => new = .unknown
  | .rest => new = .stopped
  | .retire => new = .retiring
  | .evaluate => old = .due ∧ new = .stopping
  | .grant => old = .queued ∧ new = .starting
  | .period => (old = .run ∨ old = .idle ∨ old = .due) ∧ (new = .run ∨ new = .idle ∨ new = .due)
  | .request => (old = .run ∨ old = .idle) ∧ new = .due
  | .enqueue => old = .stopped ∧ new = .queued
  | _ => False

/-- The kinds that may take an address off an urgent list, or turn a line on. -/
def Kind.shrinks : Kind → Bool
  | .remove | .settings | .poll _ | .reset => true
  | _ => false

/-- The kinds that may change the part's orders to a drop, and then offer its address; a control reset does so without. -/
def Kind.orders : Kind → Bool
  | .move | .rest | .retire | .evaluate | .grant | .period | .request | .enqueue => true
  | _ => false

/-- A change that touches neither the records, the marks, the slot outcomes, the LIST CHANGED cursor, the holds nor the lines. -/
inductive Elsewhere : Kind → State → State → Prop where
  | choices (s : State) (c : Nat) : Elsewhere .choices s { s with choices := c }
  | timeBase (s : State) (x : Nat) : Elsewhere .timeBase s { s with timeBase := x }
  | clock (s : State) (c : Option PlantClock) : Elsewhere .clock s { s with clock := c }
  | dayTypes (s : State) (o : Option DayType) (y : DayType) :
      Elsewhere .dayTypes s { s with todayOverride := o, yesterday := y }
  | dayMap (s : State) (d : Vector DayType 7) : Elsewhere .dayMap s { s with dayMap := d }
  | windows (s : State) (w : Vector Window 18) : Elsewhere .windows s { s with windows := w }
  | authority (s : State) : Elsewhere .authority s s.recompute
  | plant (s : State) (p i t : Nat) : Elsewhere .plant s { s with period := p, inrushLimit := i, settleTime := t }
  | periodEnd (s : State) (p : Nat) : Elsewhere .periodEnd s { s with periodEnd := p }
  | reason (s : State) (n : Nat) (w : WaitReason) : Elsewhere .reason s (s.setReason n w)
  | feeder (s : State) (f : Fin 8) : Elsewhere .feeder s { s with feeders := s.feeders.set f .free }
  | group (s : State) (G : Table Group) (hm : ∀ g, (Table.find G g).map (·.margin) = (s.group g).map (·.margin))
      (hc : Table.Canonical 16 s.groups → Table.Canonical 16 G) : Elsewhere .group s { s with groups := G }
  | margin (s : State) (G : Table Group) (hc : Table.Canonical 16 s.groups → Table.Canonical 16 G) :
      Elsewhere .margin s { s with groups := G }
  | plan (s : State) (P : Table WakePlan) (hc : Table.Canonical 4 s.plans → Table.Canonical 4 P) :
      Elsewhere .plan s { s with plans := P }
  | mask (s : State) (m : BitVec 6) : Elsewhere .mask s { s with mask := m }
  | attention (s : State) : Elsewhere .attention s { s with overrun := false, finishing := true }
  | answer (s : State) (c : Completion) (d : List Byte) : Elsewhere .answer s (s.respond c d)
  | transaction (s : State) (b : List Byte) : Elsewhere .transaction s (s.transaction b)
  | fetch (s : State) (n : Nat) : Elsewhere .transaction s (s.fetchTransaction n)

/-- What a change of kind `k` may write in a record without a change of its state. -/
structure Rewritten (k : Kind) (r r' : LoadRecord) : Prop where
  kind : k = .note ∨ k = .tune ∨ k = .link ∨ k = .member
  drop : r'.drop = r.drop
  tuned : k ≠ .tune → r'.tuned = r.tuned
  thresholds : r.tuning.idleEnter < r.tuning.idleLeave → r'.tuning.idleEnter < r'.tuning.idleLeave
  links : k ≠ .link → r'.links = r.links
  membership : k ≠ .member → r'.membership = r.membership
  state : r'.state = r.state
  orders : r'.orders = r.orders
  tidy : r.Tidy → r'.Tidy

/-- What the rules of chapter 9 write in the controller of line `l` beside the urgent list's growth (R153) and a record's removal
(R22). `A` is what the step may take for granted of the state it began in. -/
inductive LineWrite (A : Prop) (s : State) (l : Fin 4) : Kind → Line → Prop where
  | counters : LineWrite A s l .counters (s.lineAt l).cleared
  | ended (a b c d : Nat) (o : Bool) : LineWrite A s l (.ended l)
      { s.lineAt l with exchange := none, silent := a, framing := b, check := c, stray := d, overflow := o }
  | lost (L : NatSet) (h : A → ∀ a ∈ L, a ∈ (s.lineAt l).lost ∨ s.inRing l a) :
      LineWrite A s l .lost { s.lineAt l with lost := L }
  | settings (e : Bool) (d w c cur p : Nat) : LineWrite A s l .settings
      { s.lineAt l with enabled := e, divisor := d, replyWindow := w, lossCount := c, cursor := cur, pass := p }
  | disabled (d w c : Nat) : LineWrite A s l .settings
      ({ s.lineAt l with divisor := d, replyWindow := w, lossCount := c } : Line).disabled
  | taken (u : List Nat) (p c : Nat) (h : u.Sublist (s.lineAt l).urgent) : LineWrite A s l (.poll l)
      { s.lineAt l with urgent := u, pass := p, cursor := c }
  | polling (u : List Nat) (p c n a : Nat) (o : Order) (r : LoadRecord) (h : u.Sublist (s.lineAt l).urgent)
      (hm : (n, r) ∈ s.loads) (hl : r.line = l) (ha : r.address = a) : LineWrite A s l (.poll l)
      (({ s.lineAt l with urgent := u, pass := p, cursor := c } : Line).polling n a o)

/-- The elementary changes, under the assumption `A`. -/
inductive Change (A : Prop) : Kind → State → State → Prop where
  | elsewhere {k : Kind} {s t : State} (h : Elsewhere k s t) : Change A k s t
  | mark {s : State} {n : Nat} (h : s.load n ≠ none) : Change A .mark s (s.mark n)
  | write {k : Kind} {s : State} {n : Nat} {r r' : LoadRecord} (hl : s.load n = some r) (h : Rewritten k r r')
      (hg : k = .link → GraphSound (dependencyEdges (s.setLoad n r').loads)) : Change A k s (s.setLoad n r')
  | move {k : Kind} {s : State} {n : Nat} {r : LoadRecord} {new : LoadState} {out : Option (Operation × OpResult)}
      (hl : s.load n = some r) (hk : k.moves r.state new) (hr : new = .retiring → s.holdsOn n = []) :
      Change A k s (s.moveTo n new out)
  | request {s : State} {n : Nat} {r : LoadRecord} (hl : s.load n = some r) (a : Nat)
      (hs : r.state = .run ∨ r.state = .idle) :
      Change A .request s ((s.setLoad n { r with portStop := some a }).moveTo n .due none)
  | enqueue {s : State} {n : Nat} (c : StartClass) (h : s.stateOf n = some .stopped) :
      Change A .enqueue s (s.enqueue n c)
  | strip {s : State} {n : Nat} {r : LoadRecord} (hl : s.load n = some r) : Change A .strip s (s.stripLoad n r)
  | enrol {s : State} {n a w : Nat} {l : Fin 4} {f : Fin 8} (hn : n < 240) (hl : s.load n = none)
      (hd : ∀ m r, s.load m = some r → ¬ (r.line = l ∧ r.address = a)) : Change A .enrol s (s.enrol n l a f w)
  | remove {s : State} {n : Nat} {r : LoadRecord} (hl : s.load n = some r) (o : Operation × OpResult)
      (h : r.state = .retiring ∨ s.holdsOn n = []) : Change A .remove s (s.removeLoad n o)
  | minute (s : State) : Change A .minute s
      { s with
        nextHoldMinute := s.nextHoldMinute + 60
        holds := Table.mapEach (fun _ h => h.countDown) s.holds
        loads := Table.mapEach (fun _ r => r.countDown) s.loads }
  | placeHold {s : State} {k : Nat} {h : PortHold} {r : LoadRecord} (hk : k < 96) (hf : Table.find s.holds k = none)
      (hl : s.load h.load = some r) (hr : r.state ≠ .retiring) (h3 : (s.holdsOn h.load).length < 3) :
      Change A .placeHold s (({ s with holds := Table.put s.holds k h } : State).mark h.load)
  | dropHold {s : State} {k : Nat} {h : PortHold} (hf : Table.find s.holds k = some h) :
      Change A .dropHold s (({ s with holds := Table.drop s.holds k } : State).mark h.load)
  | line {s : State} {l : Fin 4} {k : Kind} {x : Line} (h : LineWrite A s l k x) : Change A k s (s.setLine l x)
  | list (s : State) : Change A .list s s.afterListing
  | reset (s : State) : Change A .reset s s.controlReset

/-- A chain of elementary changes whose kinds are among those of `K`. -/
def Chain (A : Prop) (K : Kind → Prop) : State → State → Prop := Relation.ReflTransGen (fun a b => ∃ k, K k ∧ Change A k a b)

variable {A : Prop} {K K' : Kind → Prop} {s t u : State} {n m : Nat} {r r' : LoadRecord}

theorem Chain.refl (s : State) : Chain A K s s := Relation.ReflTransGen.refl

theorem Chain.one {k : Kind} (h : Change A k s t) (hk : K k) : Chain A K s t := Relation.ReflTransGen.single ⟨k, hk, h⟩

theorem Chain.trans (h : Chain A K s t) (h' : Chain A K t u) : Chain A K s u := Relation.ReflTransGen.trans h h'

theorem Chain.step {k : Kind} (h : Chain A K s t) (h' : Change A k t u) (hk : K k) : Chain A K s u := h.trans (.one h' hk)

/-- What every elementary change of the kinds of a chain keeps, the chain keeps. -/
theorem Chain.keeps {P : State → Prop} (h : Chain A K s t) (hP : ∀ k a b, K k → Change A k a b → P a → P b) (hs : P s) :
    P t := by
  induction h with
  | refl => exact hs
  | tail _ hc ih => obtain ⟨k, hk, hc⟩ := hc; exact hP k _ _ hk hc ih

theorem Chain.mono (h : Chain A K s t) (hK : ∀ k, K k → K' k) : Chain A K' s t :=
  h.keeps (P := Chain A K' s) (fun k _ _ hk hc ha => ha.step hc (hK k hk)) (.refl s)

/-- What no elementary change of the kinds of a chain touches, the chain leaves as it was. -/
theorem Chain.same {α : Type} (f : State → α) (h : Chain A K s t) (hP : ∀ k a b, K k → Change A k a b → f b = f a) :
    f t = f s :=
  h.keeps (P := fun x => f x = f s) (fun k a b hk hc ha => (hP k a b hk hc).trans ha) rfl

end Sys2Proof.Machine
end

section
/-! SUPPORT. What an elementary change does to each record, to the lines, to the marks and to the tables. -/

namespace Sys2Proof.Machine

variable {A : Prop} {k : Kind} {s t : State} {n m : Nat} {r r' : LoadRecord} {new : LoadState} {out : Option (Operation × OpResult)}

/-! ### Lines of the state -/

theorem lineAt_congr (h : t.lines = s.lines) (l : Fin 4) : t.lineAt l = s.lineAt l := by unfold State.lineAt; rw [h]

@[simp] theorem lineAt_setLine (s : State) (l l' : Fin 4) (x : Line) :
    (s.setLine l x).lineAt l' = if l' = l then x else s.lineAt l' := by
  by_cases h : l' = l
  · subst h; simp [State.lineAt, State.setLine]
  · have : l.val ≠ l'.val := fun hh => h (Fin.ext hh.symm)
    simp [State.lineAt, State.setLine, h, this]

@[simp] theorem lineAt_offerUrgent (s : State) (l l' : Fin 4) (a : Nat) :
    (s.offerUrgent l a).lineAt l' = if l' = l then (s.lineAt l).offer a else s.lineAt l' := lineAt_setLine s l l' _

/-! ### `moveTo` -/

theorem moveTo_holds : (s.moveTo n new out).holds = s.holds := by
  obtain ⟨-, -, -, -, -, -, -, -, -, -, -, h, -⟩ := frozen_field (frozen_moveTo s n new out)
  exact h

theorem moveTo_marks_eq (h : s.load n = some r) : (s.moveTo n new out).marks = NatSet.add s.marks n := by
  simp only [State.moveTo, h]
  split <;> split <;> split <;> split <;> simp [State.offerUrgent]

/-- `moveTo` offers the drop's address where its orders change, and touches no line beside (R46). -/
theorem moveTo_lineAt (h : s.load n = some r) (l : Fin 4) :
    (s.moveTo n new out).lineAt l
      = if ordersDiffer r (s.movedRecord r new out) = true ∧ l = r.line then (s.lineAt l).offer r.address
        else s.lineAt l := by
  have key : ∀ a : State, a.lines = s.lines →
      ((if ordersDiffer r (s.movedRecord r new out) then a.offerUrgent r.line r.address else a).groupsFollow n new).lineAt l
        = if ordersDiffer r (s.movedRecord r new out) = true ∧ l = r.line then (s.lineAt l).offer r.address
          else s.lineAt l := by
    intro a ha
    have hat := lineAt_congr ha
    have hg : ∀ b : State, (b.groupsFollow n new).lineAt l = b.lineAt l := fun _ => rfl
    rw [hg]
    by_cases hd : ordersDiffer r (s.movedRecord r new out) = true
    · by_cases hl : l = r.line
      · subst hl; simp [hd, hat]
      · simp [hd, hl, hat]
    · simp [hd, hat]
  simp only [State.moveTo, h]
  apply key
  split <;> split <;> split <;> rfl

/-- The record that `moveTo` writes, but for its outcome. -/
theorem movedRecord_eq (s : State) (r : LoadRecord) (new : LoadState) (out : Option (Operation × OpResult)) :
    ∃ o, s.movedRecord r new out = { r.entering new s.timeBase with lastOutcome := o } := by
  cases out with
  | none => exact ⟨_, rfl⟩
  | some o => exact ⟨_, rfl⟩

/-- A record that has entered a state is tidy (R40, R45, R58, R63). -/
theorem movedRecord_tidy (s : State) (r : LoadRecord) (new : LoadState) (out : Option (Operation × OpResult)) :
    (s.movedRecord r new out).Tidy := by
  obtain ⟨o, ho⟩ := movedRecord_eq s r new out
  rw [ho]
  refine ⟨?_, ?_, ?_, ?_⟩
  · by_cases h : new = .idle ∨ new = .due <;> simp [LoadRecord.entering, h]
  · simp [LoadRecord.entering]
  · by_cases h : new = .due ∨ new = .stopping <;> simp [LoadRecord.entering, h]
  · by_cases h : new = .stopping
    · simp [LoadRecord.entering, h]
    · by_cases h' : new = .starting <;> simp [LoadRecord.entering, h, h']

/-! ### What a change writes in a record -/

/-- What a change of kind `k` may write in a live record. -/
structure Wrote (k : Kind) (r r' : LoadRecord) : Prop where
  drop : r'.drop = r.drop
  tuned : k ≠ .tune → r'.tuned = r.tuned
  thresholds : r.tuning.idleEnter < r.tuning.idleLeave → r'.tuning.idleEnter < r'.tuning.idleLeave
  links : k ≠ .link → k ≠ .strip → r'.links = r.links
  stripped : k = .strip → r'.provides = none
  membership : k ≠ .member → k ≠ .strip → r'.membership = r.membership
  tidy : r.Tidy → r'.Tidy
  state : r'.state = r.state ∨ (k.moves r.state r'.state ∧ k ≠ .reset) ∨ (k = .reset ∧ r'.state = .unknown)
  count : r'.state ≠ .starting ∨ r.state = .starting → r'.startCount = r.startCount
  started : r.state ≠ .starting → r'.state = .starting → r'.commanded = .run ∧ r'.startCount = r.startCount + 1
  orders : k.orders = false → k ≠ .reset → r'.orders = r.orders
  running : r.state = .starting → r'.state = .starting → r'.commanded = r.commanded

theorem Rewritten.wrote (h : Rewritten k r r') : Wrote k r r' := by
  have hk : k ≠ .strip := by rcases h.kind with rfl | rfl | rfl | rfl <;> simp
  have ho := h.orders
  simp only [LoadRecord.orders, Prod.mk.injEq] at ho
  obtain ⟨hc, hs⟩ := ho
  exact ⟨h.drop, h.tuned, h.thresholds, fun a _ => h.links a, fun a => absurd a hk, fun a _ => h.membership a, h.tidy,
    .inl h.state, fun _ => hs, fun a b => absurd (h.state ▸ b) a, fun _ _ => h.orders, fun _ _ => hc⟩

/-- No kind that leaves the orders alone enters a state that changes them. -/
theorem commandedOn_of_moves {old new : LoadState} {c : Commanded} (hk : k.moves old new) (ho : k.orders = false) :
    commandedOn old new c = c ∧ new ≠ .starting := by
  cases k <;> simp [Kind.orders] at ho <;> simp_all [Kind.moves, commandedOn]

theorem starting_of_moves {old new : LoadState} (hk : k.moves old new) (hn : new = .starting) : old = .queued := by
  subst hn
  cases k <;> simp_all [Kind.moves]

theorem moved_wrote (s : State) (out : Option (Operation × OpResult)) (hk : k.moves r.state new) : Wrote k r (s.movedRecord r new out) := by
  have hs : k ≠ .strip := fun h => by subst h; exact hk
  have hr : k ≠ .reset := fun h => by subst h; exact hk
  have htidy := movedRecord_tidy s r new out
  obtain ⟨o, ho⟩ := movedRecord_eq s r new out
  rw [ho] at htidy ⊢
  refine ⟨rfl, fun _ => rfl, id, fun _ _ => rfl, fun a => absurd a hs, fun _ _ => rfl, fun _ => htidy, .inr (.inl ⟨hk, hr⟩),
    fun a => ?_, fun _ a => ?_, fun a _ => ?_, fun a b => ?_⟩
  · rcases a with a | a
    · exact if_neg a
    · refine if_neg (fun b => ?_)
      rw [starting_of_moves hk b] at a; exact absurd a (by simp)
  · have a : new = .starting := a
    subst a
    exact ⟨rfl, rfl⟩
  · obtain ⟨h1, h2⟩ := commandedOn_of_moves (c := r.commanded) hk a
    simp [LoadRecord.orders, LoadRecord.entering, h1, h2]
  · have b : new = .starting := b
    rw [starting_of_moves hk b] at a; exact absurd a (by simp)


/-- STOP LOAD writes its request and enters DUE (R70). -/
theorem request_wrote (s : State) (a : Nat) (h : r.state = .run ∨ r.state = .idle) :
    Wrote .request r (s.movedRecord { r with portStop := some a } .due none) := by
  have hm : Wrote .request { r with portStop := some a } (s.movedRecord { r with portStop := some a } .due none) :=
    moved_wrote s none ⟨h, rfl⟩
  exact ⟨hm.drop, hm.tuned, hm.thresholds, hm.links, hm.stripped, hm.membership, fun _ => movedRecord_tidy _ _ _ _, hm.state,
    hm.count, hm.started, hm.orders, hm.running⟩

theorem stripped_wrote (r : LoadRecord) : Wrote .strip r r.stripped :=
  ⟨rfl, fun _ => rfl, id, fun _ h => absurd rfl h, fun _ => rfl, fun _ h => absurd rfl h,
    fun h => ⟨h.idle, h.reason, fun h' => absurd rfl h', h.timer⟩, .inl rfl, fun _ => rfl, fun a b => absurd b a, fun _ _ => rfl,
    fun _ _ => rfl⟩

theorem countDown_wrote (r : LoadRecord) : Wrote .minute r r.countDown :=
  ⟨rfl, fun _ => rfl, id, fun _ _ => rfl, (nomatch ·), fun _ _ => rfl,
    fun h => ⟨h.idle, h.reason, h.request, h.timer⟩, .inl rfl, fun _ => rfl, fun a b => absurd b a, fun _ _ => rfl, fun _ _ => rfl⟩

theorem afterReset_wrote (s : State) (r : LoadRecord) : Wrote .reset r (r.afterReset s) :=
  ⟨rfl, fun _ => rfl, id, fun _ _ => rfl, (nomatch ·), fun _ _ => rfl,
    fun _ => ⟨fun h => absurd rfl h, fun h => absurd rfl h, fun h => absurd rfl h, by simp [LoadRecord.afterReset]⟩, .inr (.inr ⟨rfl, rfl⟩),
    fun _ => rfl, fun _ h => (nomatch h), fun _ h => absurd rfl h, fun _ h => (nomatch h)⟩

/-! ### What a change does to each record -/

/-- The tables that a change elsewhere leaves as they were. -/
theorem Elsewhere.same (h : Elsewhere k s t) :
    t.loads = s.loads ∧ t.marks = s.marks ∧ t.slotOutcomes = s.slotOutcomes ∧ t.listCursor = s.listCursor
      ∧ t.holds = s.holds ∧ t.lines = s.lines := by
  cases h with
  | transaction b =>
    unfold State.transaction State.receiveFrame State.fetchTransaction State.met
    split
    · simp
    · split
      · simp
      · split <;> simp
  | fetch n => simp [State.fetchTransaction, State.met]
  | _ => exact ⟨rfl, rfl, rfl, rfl, rfl, rfl⟩

theorem Elsewhere.load (h : Elsewhere k s t) (m : Nat) : t.load m = s.load m := by
  unfold State.load; rw [h.same.1]

/-- A record that is written, moved or not, beside every other record. -/
theorem written_load (hl : s.load n = some r) (hw : Wrote k r r')
    (ht : ∀ m, t.load m = if m = n then some r' else s.load m) (m : Nat) :
    t.load m = s.load m ∨ ∃ r r', s.load m = some r ∧ t.load m = some r' ∧ Wrote k r r' := by
  by_cases h : m = n
  · subst h; exact .inr ⟨r, r', hl, by simp [ht], hw⟩
  · exact .inl (by simp [ht, h])

/-- A change writes a live record, creates one at a vacant slot, removes one, or leaves the slot as it was. -/
theorem Change.load_cases (h : Change A k s t) (m : Nat) :
    t.load m = s.load m
      ∨ (∃ r r', s.load m = some r ∧ t.load m = some r' ∧ Wrote k r r')
      ∨ (k = .enrol ∧ s.load m = none ∧ ∃ l a f w, t.load m = some (newRecord l a f w s.timeBase)
          ∧ ∀ j r, s.load j = some r → ¬ (r.line = l ∧ r.address = a))
      ∨ (k = .remove ∧ t.load m = none ∧ ∃ r, s.load m = some r ∧ (r.state = .retiring ∨ s.holdsOn m = [])) := by
  cases h with
  | elsewhere h => exact .inl (h.load m)
  | mark h => exact .inl rfl
  | write hl hw hg => exact (written_load hl hw.wrote (fun m => load_setLoad _ _ m _) m).imp_right .inl
  | move hl hk hr => exact (written_load hl (moved_wrote s _ hk) (moveTo_load hl) m).imp_right .inl
  | @request _ n r hl a hs =>
    refine (written_load hl (request_wrote s a hs) (fun m => ?_) m).imp_right .inl
    rw [moveTo_load (r := { r with portStop := some a }) (by simp)]
    split
    · rfl
    · rename_i h; simp [h]
  | enqueue c h =>
    obtain ⟨r, hl, hs⟩ := stateOf_eq.mp h
    have hw : Wrote .enqueue r (s.movedRecord r .queued none) := moved_wrote s none ⟨hs, rfl⟩
    exact (written_load hl hw (enqueue_load hl c) m).imp_right .inl
  | strip hl => exact (written_load hl (stripped_wrote _) (fun m => load_setLoad _ _ m _) m).imp_right .inl
  | @enrol _ n a w l f hn hl hd =>
    by_cases hm : m = n
    · subst hm
      exact .inr (.inr (.inl ⟨rfl, hl, l, a, f, w, by simp [State.enrol], hd⟩))
    · have he : (s.enrol n l a f w).load m = if m = n then some (newRecord l a f w s.timeBase) else s.load m :=
        load_setLoad { s with slotOutcomes := Table.drop s.slotOutcomes n } n m _
      exact .inl (by simp [he, hm])
  | @remove _ n r hl o h =>
    by_cases hm : m = n
    · subst hm; exact .inr (.inr (.inr ⟨rfl, by simp [removeLoad_load], r, hl, h⟩))
    · exact .inl (removeLoad_load_ne o hm)
  | minute =>
    cases hl : s.load m with
    | none => left; unfold State.load at hl ⊢; simp [hl]
    | some r => right; left; refine ⟨r, r.countDown, rfl, ?_, countDown_wrote r⟩; unfold State.load at hl ⊢; simp [hl]
  | placeHold hk hf hl hr h3 => exact .inl rfl
  | dropHold hf => exact .inl rfl
  | line h => exact .inl rfl
  | list => exact .inl rfl
  | reset =>
    have ht : ∀ m, s.controlReset.load m = (s.load m).map (fun r => r.afterReset s) := fun m => by
      simp [State.controlReset, State.load]
    cases hl : s.load m with
    | none => left; simp [ht, hl]
    | some r => right; left; exact ⟨r, r.afterReset s, rfl, by simp [ht, hl], afterReset_wrote s r⟩

end Sys2Proof.Machine
end

section
/-! SUPPORT. What an elementary change does to the lines, the marks, the holds and the numbered tables. -/

namespace Sys2Proof.Machine

variable {A : Prop} {k : Kind} {s t u : State} {n m : Nat} {r r' : LoadRecord} {new : LoadState} {out : Option (Operation × OpResult)}

/-! ### The urgent list -/

theorem Line.offer_eq (x : Line) (a : Nat) : ∃ u, x.offer a = { x with urgent := u } ∧ x.urgent <+: u
    ∧ (∀ b ∈ u, b ∈ x.urgent ∨ b = a) ∧ (x.urgent.Nodup → u.Nodup) ∧ (x.urgent.length ≤ 8 → u.length ≤ 8)
    ∧ (x.enabled = true → a ∈ u ∨ 8 ≤ u.length) := by
  unfold Line.offer
  split
  · rename_i h
    obtain ⟨⟨-, h1⟩, h2⟩ : (x.enabled = true ∧ a ∉ x.urgent) ∧ x.urgent.length < Config.urgentEntries := by
      simpa [and_assoc] using h
    have h8 : Config.urgentEntries = 8 := rfl
    refine ⟨_, rfl, List.prefix_append _ _, fun b hb => by simpa using hb, fun hn => ?_, fun _ => ?_, fun _ => .inl (by simp)⟩
    · refine List.nodup_append.mpr ⟨hn, by simp, fun b hb c hc => ?_⟩
      rintro rfl
      exact h1 (by simpa [List.mem_singleton.mp hc] using hb)
    · simp only [List.length_append, List.length_singleton]; omega
  · rename_i h
    refine ⟨x.urgent, rfl, List.prefix_rfl, fun b hb => .inl hb, id, id, fun he => ?_⟩
    by_cases ha : a ∈ x.urgent
    · exact .inl ha
    · right
      have h : Config.urgentEntries ≤ x.urgent.length := by simpa [he, ha] using h
      exact h

/-! ### Lines -/

theorem orders_of_ordersDiffer (h : Wrote k r r') (hk : k ≠ .reset) (hd : ordersDiffer r r' = true) : k.orders = true := by
  by_contra hk'
  have ho := h.orders (by simpa using hk') hk
  simp only [LoadRecord.orders, Prod.mk.injEq] at ho
  simp [ordersDiffer, ho] at hd

/-- Where the line `l` stands after a `moveTo` from a state with the lines of `s`. -/
theorem moveTo_line_cases (hl : u.load n = some r) (hu : u.lines = s.lines) (hk : k.moves r.state new) (l : Fin 4) :
    (u.moveTo n new out).lineAt l = s.lineAt l
      ∨ (k.orders = true ∧ r.line = l ∧ (u.moveTo n new out).lineAt l = (s.lineAt l).offer r.address) := by
  rw [moveTo_lineAt hl, lineAt_congr hu]
  split
  · rename_i h
    exact .inr ⟨orders_of_ordersDiffer (moved_wrote u out hk) (fun e => by subst e; exact hk) h.1, h.2.symm, rfl⟩
  · exact .inl rfl

theorem removeLoad_lineAt (hl : s.load n = some r) (o : Operation × OpResult) (l : Fin 4) :
    (s.removeLoad n o).lineAt l = if l = r.line then (s.lineAt l).forget n r.address else s.lineAt l := by
  have h : (s.removeLoad n o).lineAt l = (s.setLine r.line ((s.lineAt r.line).forget n r.address)).lineAt l :=
    lineAt_congr (removeLoad_rest hl o).2.2.1 l
  rw [h, lineAt_setLine]
  split
  · rename_i h; rw [h]
  · rfl

/-- A change leaves a line as it was, offers it the address of a live record, forgets a record removed from it, writes it, or resets
it. -/
theorem Change.line_cases (h : Change A k s t) (l : Fin 4) :
    t.lineAt l = s.lineAt l
      ∨ (k.orders = true ∧ ∃ n r, s.load n = some r ∧ r.line = l ∧ t.lineAt l = (s.lineAt l).offer r.address)
      ∨ (k = .remove ∧ ∃ n r, s.load n = some r ∧ r.line = l ∧ (∀ m, t.load m = if m = n then none else s.load m)
          ∧ t.lineAt l = (s.lineAt l).forget n r.address)
      ∨ LineWrite A s l k (t.lineAt l)
      ∨ (k = .reset ∧ t.lineAt l = (s.lineAt l).afterReset) := by
  cases h with
  | elsewhere h => exact .inl (lineAt_congr h.same.2.2.2.2.2 l)
  | mark h => exact .inl rfl
  | write hl hw hg => exact .inl rfl
  | move hl hk hr =>
    rcases moveTo_line_cases hl rfl hk l with h | ⟨ho, hr, h⟩
    · exact .inl h
    · exact .inr (.inl ⟨ho, _, _, hl, hr, h⟩)
  | @request _ n r hl a hs =>
    rcases moveTo_line_cases (s := s) (u := s.setLoad n { r with portStop := some a }) (r := { r with portStop := some a })
      (k := .request) (n := n) (new := .due) (out := none) (by simp) rfl ⟨hs, rfl⟩ l with h | ⟨ho, hr, h⟩
    · exact .inl h
    · exact .inr (.inl ⟨ho, n, r, hl, hr, h⟩)
  | @enqueue _ n c h =>
    obtain ⟨r, hl, hs⟩ := stateOf_eq.mp h
    rcases moveTo_line_cases (s := s)
      (u := { s with queue := placeEntry (s.newEntry n c) s.queue, arrivals := s.arrivals + 1 }) (k := .enqueue)
      (new := .queued) (out := none) hl rfl ⟨hs, rfl⟩ l with h | ⟨ho, hr, h⟩
    · exact .inl h
    · exact .inr (.inl ⟨ho, n, r, hl, hr, h⟩)
  | strip hl => exact .inl rfl
  | enrol hn hl hd => exact .inl rfl
  | @remove _ n r hl o h =>
    by_cases hr : l = r.line
    · refine .inr (.inr (.inl ⟨rfl, n, r, hl, hr.symm, fun m => removeLoad_load o m, ?_⟩))
      rw [removeLoad_lineAt hl, if_pos hr]
    · exact .inl (by rw [removeLoad_lineAt hl, if_neg hr])
  | minute => exact .inl rfl
  | placeHold hk hf hl hr h3 => exact .inl rfl
  | dropHold hf => exact .inl rfl
  | @line _ l' _ x h =>
    rw [lineAt_setLine]
    split
    · rename_i hl; subst hl; exact .inr (.inr (.inr (.inl h)))
    · exact .inl rfl
  | list => exact .inl rfl
  | reset =>
    exact .inr (.inr (.inr (.inr ⟨rfl, by simp [State.controlReset, State.recompute, State.lineAt]⟩)))

/-- Where a record's orders change, its address is offered to its line (R46). -/
theorem moveTo_offers (hl : s.load n = some r) (ht : (s.moveTo n new out).load n = some r') (ho : r'.orders ≠ r.orders) :
    (s.moveTo n new out).lineAt r.line = (s.lineAt r.line).offer r.address := by
  rw [moveTo_load_self hl, Option.some.injEq] at ht
  have hd : ordersDiffer r (s.movedRecord r new out) = true := by
    by_contra hd
    simp only [ordersDiffer, Bool.or_eq_true, bne_iff_ne, not_or, not_not] at hd
    exact ho (by simp [← ht, LoadRecord.orders, hd])
  rw [moveTo_lineAt hl, if_pos ⟨hd, rfl⟩]

theorem Change.offers (h : Change A k s t) (hk : k ≠ .reset) (hs : s.load m = some r) (ht : t.load m = some r')
    (ho : r'.orders ≠ r.orders) : t.lineAt r.line = (s.lineAt r.line).offer r.address := by
  have other : ∀ {n}, (m ≠ n → t.load m = s.load m) → m = n := fun hh => by
    by_contra hm
    have h1 := (ht.symm.trans (hh hm)).trans hs
    exact ho (by rw [Option.some.inj h1])
  have ho' : k.orders = true := by
    by_contra hk'
    rcases h.load_cases m with h1 | ⟨r0, r1, h1, h2, hw⟩ | ⟨-, h1, -⟩ | ⟨-, h1, -⟩
    · exact ho (by rw [Option.some.inj ((ht.symm.trans h1).trans hs)])
    · rw [Option.some.inj (hs.symm.trans h1), Option.some.inj (ht.symm.trans h2)] at ho
      exact ho (hw.orders (by simpa using hk') hk)
    · simp [hs] at h1
    · simp [ht] at h1
  cases h with
  | elsewhere h => exact absurd (by rw [Option.some.inj ((ht.symm.trans (h.load m)).trans hs)]) ho
  | write hl hw hg => rcases hw.kind with rfl | rfl | rfl | rfl <;> simp [Kind.orders] at ho'
  | @move _ _ n r0 new out hl hk hr =>
    obtain rfl := other (n := n) (fun hm => moveTo_load_ne hm)
    obtain rfl := Option.some.inj (hl.symm.trans hs)
    exact moveTo_offers hl ht ho
  | @request _ n r0 hl a hs' =>
    obtain rfl := other (n := n) (fun hm => by rw [moveTo_load_ne hm, load_setLoad, if_neg hm])
    obtain rfl := Option.some.inj (hl.symm.trans hs)
    exact moveTo_offers (r := { r0 with portStop := some a }) (by simp) ht ho
  | @enqueue _ n c h =>
    obtain rfl := other (n := n) (fun hm => enqueue_load_ne c hm)
    exact moveTo_offers (s := { s with queue := placeEntry (s.newEntry m c) s.queue, arrivals := s.arrivals + 1 }) hs ht ho
  | line h => cases h <;> simp [Kind.orders] at ho'
  | reset => exact absurd rfl hk
  | mark _ => simp [Kind.orders] at ho'
  | strip _ => simp [Kind.orders] at ho'
  | enrol _ _ _ => simp [Kind.orders] at ho'
  | remove _ _ _ => simp [Kind.orders] at ho'
  | minute => simp [Kind.orders] at ho'
  | placeHold _ _ _ _ _ => simp [Kind.orders] at ho'
  | dropHold _ => simp [Kind.orders] at ho'
  | list => simp [Kind.orders] at ho'

/-! ### Marks -/

/-- A change sets the mark of a slot, lists the marked slots, marks every slot, or touches no mark. -/
theorem Change.marks_cases (h : Change A k s t) :
    t.marks = s.marks
      ∨ (∃ n, t.marks = NatSet.add s.marks n ∧ (Canonical s → HoldLaw s → n < 240))
      ∨ (k = .list ∧ t = s.afterListing) ∨ (k = .reset ∧ t.marks = List.range 240) := by
  have live : ∀ {n r}, s.load n = some r → Canonical s → HoldLaw s → n < 240 := fun hl hc _ => Table.lt_of_find hc.loads hl
  cases h with
  | elsewhere h => exact .inl h.same.2.1
  | @mark _ n h =>
    obtain ⟨r, hl⟩ := Option.ne_none_iff_exists'.mp h
    exact .inr (.inl ⟨n, rfl, live hl⟩)
  | write hl hw hg => exact .inl rfl
  | move hl hk hr => exact .inr (.inl ⟨_, moveTo_marks_eq hl, live hl⟩)
  | @request _ n r hl a hs =>
    exact .inr (.inl ⟨n, moveTo_marks_eq (s := s.setLoad n { r with portStop := some a }) (by simp; rfl), live hl⟩)
  | @enqueue _ n c h =>
    obtain ⟨r, hl, hs⟩ := stateOf_eq.mp h
    exact .inr (.inl ⟨n, moveTo_marks_eq (s := { s with queue := placeEntry (s.newEntry n c) s.queue, arrivals := s.arrivals + 1 }) hl,
      live hl⟩)
  | strip hl => exact .inr (.inl ⟨_, rfl, live hl⟩)
  | @enrol _ n _ _ _ _ hn hl hd => exact .inr (.inl ⟨n, rfl, fun _ _ => hn⟩)
  | remove hl o h => exact .inr (.inl ⟨_, (removeLoad_rest hl o).2.1, live hl⟩)
  | minute => exact .inl rfl
  | placeHold hk hf hl hr h3 => exact .inr (.inl ⟨_, rfl, live hl⟩)
  | dropHold hf =>
    refine .inr (.inl ⟨_, rfl, fun hc hh => ?_⟩)
    obtain ⟨st, hst, -⟩ := hh.live _ (Table.mem_of_find hf)
    obtain ⟨r, hl, -⟩ := stateOf_eq.mp hst
    exact live hl hc hh
  | line h => exact .inl rfl
  | list => exact .inr (.inr (.inl ⟨rfl, rfl⟩))
  | reset => exact .inr (.inr (.inr ⟨rfl, rfl⟩))

/-! ### Holds -/

theorem Change.holds_cases (h : Change A k s t) :
    t.holds = s.holds
      ∨ (k = .minute ∧ t.holds = Table.mapEach (fun _ h => h.countDown) s.holds)
      ∨ (k = .placeHold ∧ ∃ j h r, j < 96 ∧ Table.find s.holds j = none ∧ s.load h.load = some r ∧ r.state ≠ .retiring
          ∧ (s.holdsOn h.load).length < 3 ∧ t.holds = Table.put s.holds j h)
      ∨ (k = .dropHold ∧ ∃ j, t.holds = Table.drop s.holds j)
      ∨ (k = .strip ∧ ∃ n, t.holds = s.holds.filter (fun e => e.2.load != n)) := by
  cases h with
  | elsewhere h => exact .inl h.same.2.2.2.2.1
  | move _ _ _ => exact .inl moveTo_holds
  | request _ _ _ => exact .inl moveTo_holds
  | enqueue _ _ => exact .inl moveTo_holds
  | strip _ => exact .inr (.inr (.inr (.inr ⟨rfl, _, rfl⟩)))
  | remove hl o _ => exact .inl (removeLoad_rest hl o).2.2.2.1
  | minute => exact .inr (.inl ⟨rfl, rfl⟩)
  | placeHold hk hf hl hr h3 => exact .inr (.inr (.inl ⟨rfl, _, _, _, hk, hf, hl, hr, h3, rfl⟩))
  | dropHold _ => exact .inr (.inr (.inr (.inl ⟨rfl, _, rfl⟩)))
  | mark _ => exact .inl rfl
  | write _ _ _ => exact .inl rfl
  | enrol _ _ _ => exact .inl rfl
  | line _ => exact .inl rfl
  | list => exact .inl rfl
  | reset => exact .inl rfl

/-! ### Numbered tables -/

theorem moveTo_slotOutcomes : (s.moveTo n new out).slotOutcomes = s.slotOutcomes := by
  obtain ⟨-, -, -, -, -, -, -, -, -, h, -⟩ := frozen_field (frozen_moveTo s n new out)
  exact h

theorem moveTo_groups_canonical (hc : Table.Canonical 16 s.groups) : Table.Canonical 16 (s.moveTo n new out).groups := by
  unfold State.moveTo
  split
  · exact hc
  · have hg : ∀ u : State, u.groups = s.groups → Table.Canonical 16 (u.groupsFollow n new).groups := fun u hu =>
      Table.canonical_mapEach (hu ▸ hc) (fun _ x => x.follow n new)
    apply hg
    split <;> split <;> split <;> split <;> simp [State.offerUrgent]

theorem Elsewhere.canonical (h : Elsewhere k s t) (hg : Table.Canonical 16 s.groups) (hp : Table.Canonical 4 s.plans) :
    Table.Canonical 16 t.groups ∧ Table.Canonical 4 t.plans := by
  cases h with
  | group _ G hm hc => exact ⟨hc hg, hp⟩
  | margin _ G hc => exact ⟨hc hg, hp⟩
  | plan _ P hc => exact ⟨hg, hc hp⟩
  | transaction b =>
    unfold State.transaction State.receiveFrame State.fetchTransaction
    split
    · exact ⟨hg, hp⟩
    · split
      · exact ⟨hg, hp⟩
      · split <;> exact ⟨hg, hp⟩
  | _ => exact ⟨hg, hp⟩

/-- Every elementary change keeps the numbered tables in their canonical form. -/
theorem Change.canonical (h : Change A k s t) (hc : Canonical s) : Canonical t := by
  have moved : ∀ {u : State} {n new out}, Canonical u → Canonical (u.moveTo n new out) := fun {u n new out} hu =>
    ⟨moveTo_canonical hu.loads, by rw [moveTo_holds]; exact hu.holds, moveTo_groups_canonical hu.groups,
      by rw [(moveTo_settled u n new out).1]; exact hu.plans, by rw [moveTo_slotOutcomes]; exact hu.slotOutcomes⟩
  have put : ∀ {n r} r', s.load n = some r → Table.Canonical 240 (Table.put s.loads n r') := fun r' hl =>
    Table.canonical_put hc.loads (Table.lt_of_find hc.loads hl) r'
  cases h with
  | elsewhere h =>
    obtain ⟨hl, -, ho, -, hh, -⟩ := h.same
    obtain ⟨hg, hp⟩ := h.canonical hc.groups hc.plans
    exact ⟨hl ▸ hc.loads, hh ▸ hc.holds, hg, hp, ho ▸ hc.slotOutcomes⟩
  | mark _ => exact ⟨hc.loads, hc.holds, hc.groups, hc.plans, hc.slotOutcomes⟩
  | write hl hw hg => exact ⟨put _ hl, hc.holds, hc.groups, hc.plans, hc.slotOutcomes⟩
  | move _ _ _ => exact moved hc
  | request hl a _ => exact moved ⟨put _ hl, hc.holds, hc.groups, hc.plans, hc.slotOutcomes⟩
  | enqueue _ _ => exact moved (u := { s with queue := _, arrivals := _ }) ⟨hc.loads, hc.holds, hc.groups, hc.plans, hc.slotOutcomes⟩
  | strip hl =>
    exact ⟨put _ hl, Table.canonical_filter hc.holds _,
      Table.canonical_mapEach hc.groups (fun _ x => { x with failed := NatSet.remove x.failed _ }), hc.plans, hc.slotOutcomes⟩
  | enrol hn hl hd =>
    exact ⟨Table.canonical_put hc.loads hn _, hc.holds, hc.groups, hc.plans, Table.canonical_drop hc.slotOutcomes _⟩
  | @remove _ n r hl o h =>
    have hl' : s.load n = some r := hl
    simp only [State.removeLoad, hl']
    exact ⟨Table.canonical_drop hc.loads _, hc.holds, hc.groups, hc.plans,
      Table.canonical_put hc.slotOutcomes (Table.lt_of_find hc.loads hl) _⟩
  | minute =>
    exact ⟨Table.canonical_mapEach hc.loads (fun _ r => r.countDown),
      Table.canonical_mapEach hc.holds (fun _ h => h.countDown), hc.groups, hc.plans, hc.slotOutcomes⟩
  | placeHold hk hf hl hr h3 =>
    exact ⟨hc.loads, Table.canonical_put hc.holds hk _, hc.groups, hc.plans, hc.slotOutcomes⟩
  | dropHold hf => exact ⟨hc.loads, Table.canonical_drop hc.holds _, hc.groups, hc.plans, hc.slotOutcomes⟩
  | line _ => exact ⟨hc.loads, hc.holds, hc.groups, hc.plans, hc.slotOutcomes⟩
  | list => exact ⟨hc.loads, hc.holds, hc.groups, hc.plans, hc.slotOutcomes⟩
  | reset =>
    exact ⟨Table.canonical_mapEach hc.loads (fun _ r => r.afterReset s), hc.holds,
      Table.canonical_mapEach hc.groups (fun _ x => x.afterReset),
      Table.canonical_mapEach hc.plans (fun _ x => x.afterReset s), hc.slotOutcomes⟩

end Sys2Proof.Machine
end

section
/-! SUPPORT. The laws of Safety.lean under an elementary change: each is kept. -/

namespace Sys2Proof.Machine

variable {A : Prop} {k : Kind} {s t u : State} {n m : Nat} {r r' : LoadRecord} {l : Fin 4} {x y : Line}

/-! ### Laws of each record -/

theorem Change.recordLaw (h : Change A k s t) (hr : RecordLaw s) : RecordLaw t := by
  rw [recordLaw_iff] at hr ⊢
  intro m r' ht
  rcases h.load_cases m with h1 | ⟨r, r1, h1, h2, hw⟩ | ⟨-, -, l, a, f, w, h1, -⟩ | ⟨-, h1, -⟩
  · exact hr m r' (h1 ▸ ht)
  · cases h2.symm.trans ht
    exact hw.tidy (hr m r h1)
  · cases h1.symm.trans ht
    exact ⟨fun h => absurd rfl h, fun h => absurd rfl h, fun h => absurd rfl h, by simp [newRecord]⟩
  · simp [h1] at ht

theorem Change.thresholdLaw (h : Change A k s t) (hr : ThresholdLaw s) : ThresholdLaw t := by
  intro m r' ht
  rcases h.load_cases m with h1 | ⟨r, r1, h1, h2, hw⟩ | ⟨-, -, l, a, f, w, h1, -⟩ | ⟨-, h1, -⟩
  · exact hr m r' (h1 ▸ ht)
  · cases h2.symm.trans ht
    exact hw.thresholds (hr m r h1)
  · cases h1.symm.trans ht
    simp [newRecord, defaultTuning]
  · simp [h1] at ht

/-- A record after a change stood at its drop before it, or has been enrolled at a drop that no record named. -/
theorem Change.drop_back (h : Change A k s t) (ht : t.load m = some r') :
    (∃ r, s.load m = some r ∧ r'.drop = r.drop)
      ∨ (k = .enrol ∧ s.load m = none ∧ ∀ j r, s.load j = some r → r.drop ≠ r'.drop) := by
  rcases h.load_cases m with h1 | ⟨r, r1, h1, h2, hw⟩ | ⟨hk, h0, l, a, f, w, h1, hd⟩ | ⟨-, h1, -⟩
  · exact .inl ⟨r', h1 ▸ ht, rfl⟩
  · cases h2.symm.trans ht
    exact .inl ⟨r, h1, hw.drop⟩
  · cases h1.symm.trans ht
    refine .inr ⟨hk, h0, fun j r hj he => hd j r hj ?_⟩
    simpa [LoadRecord.drop, newRecord] using he
  · simp [h1] at ht

theorem dropLaw_iff : DropLaw s ↔ ∀ n m rn rm, s.load n = some rn → s.load m = some rm → rn.drop = rm.drop → n = m := by
  simp only [DropLaw, LoadRecord.drop, Prod.mk.injEq, and_imp]

/-- Only one slot is enrolled by a change. -/
theorem Change.enrol_one (h : Change A .enrol s t) (hn : s.load n = none) (hm : s.load m = none) (htn : t.load n ≠ none)
    (htm : t.load m ≠ none) : n = m := by
  cases h with
  | elsewhere h => exact absurd ((h.load n).trans hn) htn
  | write _ hw _ => rcases hw.kind with h | h | h | h <;> simp at h
  | move _ hk _ => simp [Kind.moves] at hk
  | @enrol _ j a w l f hj hl hd =>
    have he : ∀ i, i ≠ j → (s.enrol j l a f w).load i = s.load i := fun i hi => by
      have := load_setLoad { s with slotOutcomes := Table.drop s.slotOutcomes j } j i (newRecord l a f w s.timeBase)
      rw [if_neg hi] at this; exact this
    have h1 : n = j := by by_contra h; exact htn ((he n h).trans hn)
    have h2 : m = j := by by_contra h; exact htm ((he m h).trans hm)
    rw [h1, h2]
  | line h => cases h

theorem Change.dropLaw (h : Change A k s t) (hd : DropLaw s) : DropLaw t := by
  rw [dropLaw_iff] at hd ⊢
  intro n m rn rm hn hm he
  rcases h.drop_back hn with ⟨r1, h1, e1⟩ | ⟨hk1, h1, e1⟩ <;> rcases h.drop_back hm with ⟨r2, h2, e2⟩ | ⟨hk2, h2, e2⟩
  · exact hd n m r1 r2 h1 h2 (e1.symm.trans (he.trans e2))
  · exact absurd (e1.symm.trans he) (e2 n r1 h1)
  · exact absurd (e2.symm.trans he.symm) (e1 m r2 h2)
  · subst hk1
    exact h.enrol_one h1 h2 (by simp [hn]) (by simp [hm])

/-! ### The dependency graph -/

theorem mem_dependencyEdges {loads : Table LoadRecord} {a b : Nat} :
    (a, b) ∈ dependencyEdges loads ↔ ∃ e ∈ loads, ∃ p, e.2.provides = some p ∧ p.group = a ∧ b ∈ e.2.drawnGroups := by
  simp only [dependencyEdges, List.mem_flatMap]
  refine exists_congr fun e => and_congr_right fun _ => ?_
  cases e.2.provides with
  | none => simp
  | some p => simp [and_comm]

theorem drawnGroups_of_links (h : r'.links = r.links) : r'.provides = r.provides ∧ r'.drawnGroups = r.drawnGroups := by
  simp only [LoadRecord.links, Prod.mk.injEq] at h
  obtain ⟨hp, ha, hb⟩ := h
  exact ⟨hp, by simp [LoadRecord.drawnGroups, ha, hb]⟩

/-- A graph with no other edges is sound where the graph is (R106). -/
theorem GraphSound.mono {e e' : List (Nat × Nat)} (h : GraphSound e) (hs : ∀ x ∈ e', x ∈ e) : GraphSound e' := by
  have hR : ∀ a b, (a, b) ∈ e' → (a, b) ∈ e := fun a b hab => hs _ hab
  exact ⟨fun g hg => h.acyclic g (Relation.TransGen.mono hR g g hg), fun c hc => h.short c (hc.imp hR)⟩

theorem Change.graphLaw (h : Change A k s t) (hc : Canonical s) (hg : GraphLaw s) : GraphLaw t := by
  have ht := h.canonical hc
  have key : (k = .link → GraphLaw t) → GraphLaw t := fun hlink => by
    by_cases hk : k = .link
    · exact hlink hk
    refine GraphSound.mono hg ?_
    rintro ⟨a, b⟩ hab
    rw [mem_dependencyEdges] at hab ⊢
    obtain ⟨⟨m, r'⟩, he, p, hp, ha, hb⟩ := hab
    have hl : t.load m = some r' := Table.find_of_mem ht.loads he
    rcases h.load_cases m with h1 | ⟨r, r1, h1, h2, hw⟩ | ⟨-, -, l, a, f, w, h1, -⟩ | ⟨-, h1, -⟩
    · exact ⟨(m, r'), Table.mem_of_find (h1.symm.trans hl), p, hp, ha, hb⟩
    · cases h2.symm.trans hl
      by_cases hs : k = .strip
      · simp [hw.stripped hs] at hp
      · obtain ⟨e1, e2⟩ := drawnGroups_of_links (hw.links hk hs)
        exact ⟨(m, r), Table.mem_of_find h1, p, e1 ▸ hp, ha, e2 ▸ hb⟩
    · cases h1.symm.trans hl
      simp [newRecord] at hp
    · simp [h1] at hl
  refine key ?_
  rintro rfl
  cases h with
  | elsewhere h => unfold GraphLaw; rw [h.same.1]; exact hg
  | write hl hw hg => exact hg rfl
  | move _ hk _ => simp [Kind.moves] at hk
  | line _ => exact hg

/-! ### Holds -/

theorem put_perm {α : Type} {t : Table α} {n : Nat} (h : Table.find t n = none) (a : α) : (Table.put t n a).Perm ((n, a) :: t) := by
  induction t with
  | nil => exact .refl _
  | cons e rest ih =>
    obtain ⟨j, b⟩ := e
    unfold Table.find at h
    split at h
    · simp at h
    · rename_i hj
      unfold Table.put
      split
      · exact .refl _
      · rw [if_neg (fun hh => hj hh.symm)]
        exact ((ih h).cons _).trans (.swap _ _ _)

/-- Only a RETIRE LOAD brings a record into RETIRING, once no port hold names it (R21). -/
theorem Change.to_retiring (h : Change A k s t) (hk : k = .retire) (hl : s.load m = some r) (ht : t.load m = some r') :
    r' = r ∨ s.holdsOn m = [] := by
  subst hk
  cases h with
  | elsewhere h => exact .inl (Option.some.inj (ht.symm.trans ((h.load m).trans hl)))
  | write _ hw _ => rcases hw.kind with h | h | h | h <;> simp at h
  | @move _ _ n _ _ _ _ hk hr =>
    by_cases hm : m = n
    · subst hm; exact .inr (hr hk)
    · exact .inl (Option.some.inj (ht.symm.trans ((moveTo_load_ne hm).trans hl)))
  | line _ => exact .inl (Option.some.inj (ht.symm.trans hl))

/-- A load that a port hold names stays live and outside RETIRING. -/
theorem Change.live_kept (h : Change A k s t) {st : LoadState} (hs : s.stateOf m = some st) (hr : st ≠ .retiring)
    (hn : s.holdsOn m ≠ [] ∨ k = .placeHold) : ∃ st, t.stateOf m = some st ∧ st ≠ .retiring := by
  obtain ⟨r, hl, rfl⟩ := stateOf_eq.mp hs
  rcases h.load_cases m with h1 | ⟨r0, r', h1, h2, hw⟩ | ⟨-, h1, -⟩ | ⟨hk, -, r0, h1, h2⟩
  · exact ⟨r.state, stateOf_eq.mpr ⟨r, h1.trans hl, rfl⟩, hr⟩
  · cases h1.symm.trans hl
    refine ⟨r'.state, stateOf_eq.mpr ⟨r', h2, rfl⟩, fun hx => ?_⟩
    rcases hw.state with e | ⟨hm, -⟩ | ⟨-, e⟩
    · exact hr (e.symm.trans hx)
    · have hk : k = .retire := by rw [hx] at hm; cases k <;> simp_all [Kind.moves]
      rcases h.to_retiring hk hl h2 with rfl | h3
      · exact hr hx
      · simp [hk, h3] at hn
    · simp [e] at hx
  · simp [hl] at h1
  · cases h1.symm.trans hl
    subst hk
    rcases h2 with h2 | h2
    · exact absurd h2 hr
    · simp [h2] at hn

theorem holdsOn_length_mapEach (f : PortHold → PortHold) (hf : ∀ h, (f h).load = h.load) (holds : Table PortHold) (n : Nat) :
    ((Table.mapEach (fun _ h => f h) holds).filter (fun e => e.2.load == n)).length
      = (holds.filter (fun e => e.2.load == n)).length := by
  unfold Table.mapEach
  rw [List.filter_map, List.length_map]
  simp [Function.comp_def, hf]

theorem Change.holdLaw (h : Change A k s t) (hh : HoldLaw s) : HoldLaw t := by
  have kept : ∀ e ∈ s.holds, ∃ st, t.stateOf e.2.load = some st ∧ st ≠ .retiring := fun e he => by
    obtain ⟨st, hs, hr⟩ := hh.live e he
    exact h.live_kept hs hr (.inl (List.ne_nil_of_mem (List.mem_filter.mpr ⟨he, by simp⟩)))
  have fewer : ∀ p : Nat × PortHold → Bool, t.holds = s.holds.filter p → HoldLaw t := fun p e => by
    refine ⟨fun x hx => kept x (List.mem_of_mem_filter (e ▸ hx)), fun n => le_trans ?_ (hh.three n)⟩
    unfold State.holdsOn
    rw [e]
    exact (List.filter_sublist.filter _).length_le
  rcases h.holds_cases with e | ⟨-, e⟩ | ⟨hk, j, x, r, -, hf, hl, hr, h3, e⟩ | ⟨-, j, e⟩ | ⟨-, n, e⟩
  · exact ⟨fun x hx => kept x (e ▸ hx), fun n => by simpa [State.holdsOn, e] using hh.three n⟩
  · refine ⟨fun x hx => ?_, fun n => ?_⟩
    · rw [e] at hx
      obtain ⟨y, hy, rfl⟩ := List.mem_map.mp hx
      exact kept y hy
    · have := holdsOn_length_mapEach PortHold.countDown (fun _ => rfl) s.holds n
      unfold State.holdsOn
      rw [e, this]
      exact hh.three n
  · refine ⟨fun y hy => ?_, fun n => ?_⟩
    · rw [e] at hy
      rcases Table.mem_put hy with rfl | hy
      · exact h.live_kept (stateOf_eq.mpr ⟨r, hl, rfl⟩) hr (.inr hk)
      · exact kept y hy
    · have := ((put_perm hf x).filter (fun e => e.2.load == n)).length_eq
      unfold State.holdsOn at h3 ⊢
      rw [e, this]
      by_cases hn : x.load = n
      · subst hn; simp; omega
      · simpa [hn, State.holdsOn] using hh.three n
  · exact fewer _ e
  · exact fewer _ e

/-! ### Lines -/

/-- `LineLaw` of one controller of line `l`. -/
structure LineFit (s : State) (l : Fin 4) (x : Line) : Prop where
  room : x.urgent.length ≤ 8
  single : x.urgent.Nodup
  urgent : ∀ a ∈ x.urgent, s.inRing l a
  lost : ∀ a ∈ x.lost, s.inRing l a
  polled : ∀ e n, x.exchange = some e → e.load = some n → ∃ r, s.load n = some r ∧ r.line = l ∧ r.address = e.address
  atMark : x.txdNow = true
  released : x.deNow = false

theorem lineLaw_iff : LineLaw s ↔ ∀ l, LineFit s l (s.lineAt l) :=
  ⟨fun h l => ⟨h.room l, h.single l, h.urgent l, h.lost l, h.polled l, h.atMark l, h.released l⟩,
    fun h => ⟨fun l => (h l).room, fun l => (h l).single, fun l => (h l).urgent, fun l => (h l).lost, fun l => (h l).polled,
      fun l => (h l).atMark, fun l => (h l).released⟩⟩

/-- A controller still fits where every live record stands at its drop. -/
theorem LineFit.of_drops (h : LineFit s l x) (hd : ∀ n r, s.load n = some r → ∃ r', t.load n = some r' ∧ r'.drop = r.drop) :
    LineFit t l x := by
  have hd' : ∀ n r, s.load n = some r → ∃ r', t.load n = some r' ∧ r'.line = r.line ∧ r'.address = r.address := fun n r hr => by
    obtain ⟨r', h1, h2⟩ := hd n r hr
    exact ⟨r', h1, congrArg Prod.fst h2, congrArg Prod.snd h2⟩
  have ring : ∀ a, s.inRing l a → t.inRing l a := by
    rintro a ⟨n, r, hr, rfl, rfl⟩
    obtain ⟨r', h1, h2, h3⟩ := hd' n r hr
    exact ⟨n, r', h1, h2, h3⟩
  refine ⟨h.room, h.single, fun a ha => ring a (h.urgent a ha), fun a ha => ring a (h.lost a ha), fun e n he hn => ?_, h.atMark,
    h.released⟩
  obtain ⟨r, hr, hl, ha⟩ := h.polled e n he hn
  obtain ⟨r', h1, h2, h3⟩ := hd' n r hr
  exact ⟨r', h1, h2.trans hl, h3.trans ha⟩

/-- R153: the address of a live record may be offered. -/
theorem LineFit.offer (h : LineFit s l x) {a : Nat} (ha : s.inRing l a) : LineFit s l (x.offer a) := by
  obtain ⟨u, hu, -, hm, hn, hr, -⟩ := x.offer_eq a
  rw [hu]
  refine ⟨hr h.room, hn h.single, fun b hb => ?_, h.lost, h.polled, h.atMark, h.released⟩
  rcases hm b hb with hb | rfl
  · exact h.urgent b hb
  · exact ha

/-- R22: with a record removed, the line that has forgotten it fits, and so does every other line. -/
theorem LineFit.forget (h : LineFit s l x) (hl : s.load n = some r) (ht : ∀ m, t.load m = if m = n then none else s.load m) :
    (r.line = l → LineFit t l (x.forget n r.address)) ∧ (r.line ≠ l → LineFit t l x) := by
  have ring : ∀ a, s.inRing l a → (r.line = l → a ≠ r.address) → t.inRing l a := by
    rintro a ⟨m, rm, hm, rfl, rfl⟩ hne
    have hmn : m ≠ n := fun hh => by
      subst hh; cases hl.symm.trans hm; exact hne rfl rfl
    exact ⟨m, rm, by simp [ht, hmn, hm], rfl, rfl⟩
  refine ⟨fun hr => ⟨?_, ?_, fun a ha => ?_, fun a ha => ?_, fun e m he hm => ?_, h.atMark, h.released⟩, fun hr =>
    ⟨h.room, h.single, fun a ha => ring a (h.urgent a ha) (fun hh => absurd hh hr),
      fun a ha => ring a (h.lost a ha) (fun hh => absurd hh hr), fun e m he hm => ?_, h.atMark, h.released⟩⟩
  · exact (List.length_filter_le _ _).trans h.room
  · exact h.single.filter _
  · have ha : a ∈ x.urgent ∧ a ≠ r.address := by simpa [Line.forget] using ha
    exact ring a (h.urgent a ha.1) (fun _ => ha.2)
  · have ha : a ∈ x.lost ∧ a ≠ r.address := by simpa [Line.forget] using ha
    exact ring a (h.lost a ha.1) (fun _ => ha.2)
  · simp only [Line.forget, Option.map_eq_some_iff] at he
    obtain ⟨e0, h0, rfl⟩ := he
    split at hm
    · simp at hm
    · rename_i hne
      rw [if_neg hne]
      obtain ⟨rm, h1, h2, h3⟩ := h.polled e0 m h0 hm
      have hmn : m ≠ n := fun hh => hne (hh ▸ hm)
      exact ⟨rm, by simp [ht, hmn, h1], h2, h3⟩
  · obtain ⟨rm, h1, h2, h3⟩ := h.polled e m he hm
    have hmn : m ≠ n := fun hh => by subst hh; cases hl.symm.trans h1; exact hr h2
    exact ⟨rm, by simp [ht, hmn, h1], h2, h3⟩

theorem LineWrite.fit (h : LineWrite A s l k y) (hA : A) (hc : Canonical s) (hx : LineFit s l (s.lineAt l)) : LineFit s l y := by
  cases h with
  | counters => exact ⟨hx.room, hx.single, hx.urgent, hx.lost, hx.polled, hx.atMark, hx.released⟩
  | ended => exact ⟨hx.room, hx.single, hx.urgent, hx.lost, fun _ _ he => (nomatch he), hx.atMark, hx.released⟩
  | lost L h =>
    exact ⟨hx.room, hx.single, hx.urgent, fun a ha => (h hA a ha).elim (hx.lost a) id, hx.polled, hx.atMark, hx.released⟩
  | settings => exact ⟨hx.room, hx.single, hx.urgent, hx.lost, hx.polled, hx.atMark, hx.released⟩
  | disabled =>
    exact ⟨Nat.zero_le _, List.nodup_nil, fun _ ha => (nomatch ha), fun _ ha => (nomatch ha), fun _ _ he => (nomatch he),
      Line.disabled_txdNow _, Line.disabled_deNow _⟩
  | taken u p c h =>
    exact ⟨h.length_le.trans hx.room, hx.single.sublist h, fun a ha => hx.urgent a (h.subset ha), hx.lost, hx.polled, hx.atMark,
      hx.released⟩
  | polling u p c n a o r h hm hl ha =>
    refine ⟨h.length_le.trans hx.room, hx.single.sublist h, fun a ha => hx.urgent a (h.subset ha), hx.lost, fun e m he hem => ?_,
      Line.polling_txdNow _ _ _ _, Line.polling_deNow _ _ _ _⟩
    cases he
    cases hem
    exact ⟨r, Table.find_of_mem hc.loads hm, hl, ha⟩

theorem Change.lineLaw (h : Change A k s t) (hA : A) (hc : Canonical s) (hs : LineLaw s) : LineLaw t := by
  rw [lineLaw_iff] at hs ⊢
  intro l
  have drops : k ≠ .remove → ∀ n r, s.load n = some r → ∃ r', t.load n = some r' ∧ r'.drop = r.drop := fun hk n r hr => by
    rcases h.load_cases n with h1 | ⟨r0, r', h1, h2, hw⟩ | ⟨-, h1, -⟩ | ⟨hk', -⟩
    · exact ⟨r, h1.trans hr, rfl⟩
    · cases hr.symm.trans h1
      exact ⟨r', h2, hw.drop⟩
    · simp [hr] at h1
    · exact absurd hk' hk
  by_cases hk : k = .remove
  · subst hk
    cases h with
    | elsewhere h => exact absurd h (by rintro ⟨⟩)
    | write _ hw _ => rcases hw.kind with h | h | h | h <;> simp at h
    | move _ hk _ => simp [Kind.moves] at hk
    | @remove _ n r hl o _ =>
      have hf := (hs l).forget hl (t := s.removeLoad n o) (removeLoad_load o)
      rw [removeLoad_lineAt hl]
      split
      · rename_i e; exact hf.1 e.symm
      · rename_i e; exact hf.2 (fun hh => e hh.symm)
    | line h => cases h
  · refine LineFit.of_drops ?_ (drops hk)
    rcases h.line_cases l with e | ⟨-, n, r, hl, hr, e⟩ | ⟨hk', -⟩ | hw | ⟨-, e⟩
    · exact e ▸ hs l
    · exact e ▸ (hs l).offer ⟨n, r, hl, hr, rfl⟩
    · exact absurd hk' hk
    · exact hw.fit hA hc (hs l)
    · rw [e]
      exact ⟨Nat.zero_le _, List.nodup_nil, fun _ ha => (nomatch ha), fun _ ha => (nomatch ha), fun _ _ he => (nomatch he),
        Line.afterReset_txdNow _, Line.afterReset_deNow _⟩

/-! ### Marks -/

theorem NatSet.add_rising {l : NatSet} (h : l.Pairwise (· < ·)) (n : Nat) : (NatSet.add l n).Pairwise (· < ·) := by
  induction l with
  | nil => simp [NatSet.add]
  | cons j rest ih =>
    rw [List.pairwise_cons] at h
    unfold NatSet.add
    split
    · rename_i hn
      refine List.pairwise_cons.mpr ⟨fun b hb => ?_, List.pairwise_cons.mpr h⟩
      rcases List.mem_cons.mp hb with rfl | hb
      · exact hn
      · exact hn.trans (h.1 b hb)
    · split
      · exact List.pairwise_cons.mpr h
      · refine List.pairwise_cons.mpr ⟨fun b hb => ?_, ih h.2⟩
        rcases (NatSet.mem_add rest n b).mp hb with rfl | hb
        · omega
        · exact h.1 b hb

theorem mem_listed (h : n ∈ s.listed) : n ∈ s.marks := by
  have h := List.mem_of_mem_take h
  rcases List.mem_append.mp h with h | h <;> exact List.mem_of_mem_filter h

theorem Change.listCursor (h : Change A k s t) : t.listCursor = s.listCursor ∨ (k = .list ∧ t = s.afterListing) ∨ t.listCursor = 239 := by
  have moved : ∀ (u : State) (n new out), (u.moveTo n new out).listCursor = u.listCursor := fun u n new out => by
    obtain ⟨-, -, -, -, -, -, -, -, -, -, h, -⟩ := frozen_field (frozen_moveTo u n new out)
    exact h
  cases h with
  | elsewhere h => exact .inl h.same.2.2.2.1
  | move _ _ _ => exact .inl (moved _ _ _ _)
  | request _ _ _ => exact .inl (moved _ _ _ _)
  | enqueue _ _ => exact .inl (moved _ _ _ _)
  | @remove _ n r hl o _ => left; have hl' : s.load n = some r := hl; simp [State.removeLoad, hl', State.setLine]
  | list => exact .inr (.inl ⟨rfl, rfl⟩)
  | reset => exact .inr (.inr rfl)
  | _ => exact .inl rfl

theorem Change.slotLaw (h : Change A k s t) (hc : Canonical s) (hh : HoldLaw s) (hs : SlotLaw s) : SlotLaw t := by
  have hcur : t.listCursor < 240 := by
    rcases h.listCursor with e | ⟨-, rfl⟩ | e
    · exact e ▸ hs.cursor
    · simp only [State.afterListing]
      cases hx : s.listed.getLast? with
      | none => exact hs.cursor
      | some a => exact hs.slots a (mem_listed (List.mem_of_getLast? hx))
    · omega
  rcases h.marks_cases with e | ⟨n, e, hn⟩ | ⟨-, rfl⟩ | ⟨-, e⟩
  · exact ⟨e ▸ hs.rising, e ▸ hs.slots, hcur⟩
  · refine ⟨e ▸ NatSet.add_rising hs.rising n, fun j hj => ?_, hcur⟩
    rw [e, NatSet.mem_add] at hj
    rcases hj with rfl | hj
    · exact hn hc hh
    · exact hs.slots j hj
  · exact ⟨hs.rising.sublist List.filter_sublist, fun j hj => hs.slots j (List.mem_of_mem_filter hj), hcur⟩
  · refine ⟨e ▸ List.pairwise_lt_range, fun j hj => ?_, hcur⟩
    rw [e] at hj; exact List.mem_range.mp hj

end Sys2Proof.Machine
end

section
/-! SUPPORT. The shared operations of the model as chains of elementary changes. -/

namespace Sys2Proof.Machine

variable {A : Prop} {K : Kind → Prop} {k : Kind} {s t u : State} {n m : Nat} {r r' : LoadRecord} {l : Fin 4}
  {new : LoadState} {out : Option (Operation × OpResult)}

/-! ### Writes of one record -/

/-- What a write of kind `note` leaves of a record as it was, whatever its state. -/
def LoadRecord.kept (r : LoadRecord) : LoadRecord :=
  { r with
    buttonTaken := 0, runSince := 0, offSince := 0, lastRun := none, retireExchanges := 0, level := 0, baseline := none
    figures := PeriodFigures.empty, missCount := 0, lastOutcome := none, buttonHold := none, isolatorHold := false }

theorem Rewritten.aside (h : r'.kept = r.kept) : Rewritten .note r r' := by
  have hi : r'.idleClock = r.idleClock := congrArg (·.idleClock) h
  have hb : r'.blockReason = r.blockReason := congrArg (·.blockReason) h
  have hp : r'.portStop = r.portStop := congrArg (·.portStop) h
  have hv : r'.verifyEnd = r.verifyEnd := congrArg (·.verifyEnd) h
  have hs : r'.state = r.state := congrArg (·.state) h
  have ht : r'.tuning = r.tuning := congrArg (·.tuning) h
  have hd : r'.kept.drop = r.kept.drop := congrArg LoadRecord.drop h
  have hf : r'.kept.tuned = r.kept.tuned := congrArg LoadRecord.tuned h
  have hl : r'.kept.links = r.kept.links := congrArg LoadRecord.links h
  have ho : r'.kept.orders = r.kept.orders := congrArg LoadRecord.orders h
  exact ⟨.inl rfl, hd, fun _ => hf, fun h' => ht ▸ h', fun _ => hl, fun _ => congrArg (·.membership) h, hs, ho,
    fun x => ⟨by rw [hi, hs]; exact x.idle, by rw [hb, hs]; exact x.reason, by rw [hp, hs]; exact x.request,
      by rw [hv, hs]; exact x.timer⟩⟩

theorem Change.note (hl : s.load n = some r) (h : r'.kept = r.kept := by rfl) : Change A .note s (s.setLoad n r') :=
  .write hl (.aside h) (nomatch ·)

/-- A port stop request withdrawn. -/
theorem Change.unrequest (hl : s.load n = some r) : Change A .note s (s.setLoad n { r with portStop := none }) :=
  .write hl ⟨.inl rfl, rfl, fun _ => rfl, id, fun _ => rfl, fun _ => rfl, rfl, rfl,
    fun h => ⟨h.idle, h.reason, fun h' => absurd rfl h', h.timer⟩⟩ (nomatch ·)

theorem Change.block (hl : s.load n = some r) (hd : r.state = .due) (b : BlockReason) :
    Change A .note s (s.setLoad n { r with blockReason := b }) :=
  .write hl ⟨.inl rfl, rfl, fun _ => rfl, id, fun _ => rfl, fun _ => rfl, rfl, rfl,
    fun h => ⟨h.idle, fun _ => hd, h.request, h.timer⟩⟩ (nomatch ·)

theorem Change.go (hl : s.load n = some r) (hk : k.moves r.state new) (hn : new ≠ .retiring) :
    Change A k s (s.moveTo n new out) := .move hl hk (fun h => absurd h hn)

/-- The kinds of a report's changes of state, by where they lead. -/
theorem Chain.report_move (hl : s.load n = some r) (hm : K .move) (hr : new = .stopped → K .rest) (h1 : new ≠ .starting)
    (h2 : new ≠ .retiring) (h3 : new ≠ .queued) : Chain A K s (s.moveTo n new out) := by
  by_cases h : new = .stopped
  · exact .one (.go (k := .rest) hl h h2) (hr h)
  · exact .one (.go (k := .move) hl ⟨h1, h2, fun h' => by simp [h, h3] at h'⟩ h2) hm

theorem Change.mark_written (s : State) (n : Nat) (r : LoadRecord) : Change A .mark (s.setLoad n r) ((s.setLoad n r).mark n) :=
  .mark (by simp)

theorem noted_chain (hl : s.load n = some r) (h1 : K .note) (h2 : K .mark) (h : r'.kept = r.kept := by rfl) :
    Chain A K s ((s.setLoad n r').mark n) := (Chain.one (.note hl h) h1).step (.mark_written s n r') h2

theorem modifyLoad_chain (f : LoadRecord → LoadRecord) (hf : ∀ r, (f r).kept = r.kept) (hK : K .note) :
    Chain A K s (s.modifyLoad n f) := by
  unfold State.modifyLoad
  split
  · exact .refl s
  · rename_i r hl; exact .one (.note hl (hf r)) hK

theorem writeOutcome_chain (o : Operation) (x : OpResult) (h1 : K .note) (h2 : K .mark) : Chain A K s (s.writeOutcome n o x) := by
  unfold State.writeOutcome
  split
  · exact .refl s
  · rename_i r hl
    exact noted_chain hl h1 h2

/-! ### Groups -/

theorem Change.forgetFailed (s : State) (n : Nat) : Change A .group s (s.forgetFailed n) :=
  .elsewhere (.group s _ (fun g => by simp [State.group, Function.comp_def])
    (fun hc => Table.canonical_mapEach hc (fun _ x => { x with failed := NatSet.remove x.failed n })))

theorem modifyGroup_chain (g : Nat) (f : Group → Group) (hf : ∀ x, (f x).margin = x.margin) (hK : K .group) :
    Chain A K s (s.modifyGroup g f) := by
  unfold State.modifyGroup
  split
  · exact .refl s
  · rename_i x hx
    refine .one (.elsewhere (.group s _ (fun j => ?_)
      (fun hc => Table.canonical_put hc (Table.lt_of_find hc hx) _))) hK
    rw [Table.find_put]
    split
    · rename_i h; subst h; simp [hx, hf]
    · rfl

/-! ### The hand-offs -/

/-- The kinds of change of which every plain hand-off is made, with the choice among the hand-offs. -/
def Kind.handed : Kind → Bool
  | .choices | .note | .mark | .evaluate | .enqueue | .grant | .reason | .group => true
  | _ => false

theorem evaluate_chain (h1 : K .note) (h2 : K .evaluate) : Chain A K s (s.evaluate n) := by
  unfold State.evaluate
  split
  · exact .refl s
  · rename_i r hl
    split
    · rename_i hd
      split
      · exact .one (.go (k := .evaluate) hl ⟨hd, rfl⟩ (by simp)) h2
      · exact .one (.block hl hd _) h1
    · exact .refl s

theorem Change.entered (c : StartClass) (h : s.startOffer n = .entered) : Change A .enqueue s (s.enqueue n c) :=
  .enqueue c (startOffer_entered h).1

theorem testGroup_chain (g : Nat) (h1 : K .enqueue) (h2 : K .group) : Chain A K s (s.testGroup g) := by
  unfold State.testGroup
  split
  · exact .refl s
  · split
    · exact .refl s
    all_goals
      split
      · split
        · exact modifyGroup_chain g _ (fun _ => rfl) h2
        · split
          · rename_i ho
            exact (Chain.one (.entered .supply ho) h1).trans (modifyGroup_chain g _ (fun _ => rfl) h2)
          all_goals exact modifyGroup_chain g _ (fun _ => rfl) h2
      · exact modifyGroup_chain g _ (fun _ => rfl) h2

theorem examineEntry_chain (e : Entry) (h1 : K .grant) (h2 : K .reason) : Chain A K s (s.examineEntry e) := by
  unfold State.examineEntry
  split
  · exact .refl s
  · rename_i r hl
    split
    · rename_i hq
      split
      · exact .one (.go (k := .grant) hl ⟨hq, rfl⟩ (by simp)) h1
      · exact .one (.elsewhere (.reason s _ _)) h2
    · exact .refl s

/-- A walk over a list is a chain where each of its steps is. -/
theorem foldl_chain {α : Type} {f : State → α → State} (hf : ∀ s x, Chain A K s (f s x)) (q : List α) (s : State) :
    Chain A K s (q.foldl f s) := by
  induction q generalizing s with
  | nil => exact .refl s
  | cons x rest ih => exact (hf s x).trans (ih _)

theorem offerWake_chain (h1 : K .enqueue) (h2 : K .note) (h3 : K .mark) : Chain A K s (s.offerWake n) := by
  unfold State.offerWake
  split
  · rename_i ho; exact .one (.entered .wake ho) h1
  · exact .refl s
  · exact writeOutcome_chain _ _ h2 h3

theorem periodEndOf_chain (h1 : K .note) (h2 : K .period) : Chain A K s (s.periodEndOf n) := by
  have moved : ∀ {r r1 new}, s.load n = some r → Change A .note s (s.setLoad n r1) → r1.state = r.state →
      Kind.moves .period r.state new → Chain A K s ((s.setLoad n r1).moveTo n new none) := fun {r r1 new} hl hc hs hm =>
    (Chain.one hc h1).step (.go (k := .period) (r := r1) (by simp) (hs ▸ hm) (by rintro rfl; simp [Kind.moves] at hm)) h2
  unfold State.periodEndOf
  split
  · exact .refl s
  · rename_i r0 hl
    dsimp only
    split
    · exact .one (.note hl) h1
    · split
      · rename_i hs
        split
        · exact moved hl (.note hl) rfl ⟨.inl hs, .inr (.inl rfl)⟩
        · exact .one (.note hl) h1
      · rename_i hs
        have hc : Change A .note s (s.setLoad n
            { r0 with figures := PeriodFigures.empty, level := r0.newLevel, idleClock := r0.idleClock + 1 }) :=
          .write hl ⟨.inl rfl, rfl, fun _ => rfl, id, fun _ => rfl, fun _ => rfl, rfl, rfl,
            fun h => ⟨fun _ => .inl hs, h.reason, h.request, h.timer⟩⟩ (nomatch ·)
        split
        · exact moved hl (.note hl) rfl ⟨.inr (.inl hs), .inl rfl⟩
        · split
          · exact moved hl hc rfl ⟨.inr (.inl hs), .inr (.inr rfl)⟩
          · exact .one hc h1
      · rename_i hs
        split
        · exact moved hl (.note hl) rfl ⟨.inr (.inr hs), .inl rfl⟩
        · exact .one (.note hl) h1
      · exact .one (.note hl) h1

/-! ### The hand-offs of a step -/

/-- The kinds of change that a hand-off makes beside those of the plain ones. -/
def Work.needs : Work → List Kind
  | .recompute => [.authority]
  | .periodEnd _ => [.period]
  | .activate _ => [.plan, .authority]
  | .evaluate _ | .testGroup _ | .examine | .offer _ => []

theorem needs_of_plain {w : Work} (h : w.plain) : w.needs = [] := by
  cases w <;> simp_all [Work.plain, Work.needs]

theorem Change.setPlan {p : Nat} {x : WakePlan} (hx : s.plan p = some x) (y : WakePlan) : Change A .plan s (s.setPlan p y) :=
  .elsewhere (.plan s _ (fun hc => Table.canonical_put hc (Table.lt_of_find hc hx) y))

theorem activate_chain (p : Nat) (h1 : K .plan) (h2 : K .authority) : Chain A K s (s.activate p).1 := by
  unfold State.activate
  split
  · exact .refl s
  · rename_i x hx
    have hfirst : Chain A K s (s.setPlan p (s.activated x)) := .one (.setPlan hx _) h1
    dsimp only [State.fallSlot]
    split
    · exact hfirst.step (.setPlan (x := s.activated x) (by simp) _) h1
    · exact (hfirst.step (.elsewhere (.authority _)) h2).step (.setPlan (x := s.activated x)
        (by show State.plan (s.setPlan p _) p = _; simp) _) h1

theorem run_chain (hK : ∀ k, k.handed = true → K k) (w : Work) (hw : ∀ k ∈ w.needs, K k) (s : State) :
    Chain A K s (w.run s).1 := by
  have offer : ∀ n s, Chain A K s (s.offerWake n) := fun n s => offerWake_chain (hK _ rfl) (hK _ rfl) (hK _ rfl)
  cases w with
  | evaluate n => exact evaluate_chain (hK _ rfl) (hK _ rfl)
  | testGroup g => exact testGroup_chain g (hK _ rfl) (hK _ rfl)
  | examine => exact foldl_chain (fun s e => examineEntry_chain e (hK _ rfl) (hK _ rfl)) s.queue s
  | recompute => exact .one (.elsewhere (.authority s)) (hw _ (by simp [Work.needs]))
  | periodEnd n => exact periodEndOf_chain (hK _ rfl) (hw _ (by simp [Work.needs]))
  | activate p => exact activate_chain p (hw _ (by simp [Work.needs])) (hw _ (by simp [Work.needs]))
  | offer members =>
    cases members with
    | nil => exact .refl s
    | cons n rest =>
      simp only [Work.run]
      split
      · exact offer n s
      · exact foldl_chain (fun s n => offer n s) (n :: rest) s

theorem run_left_needs (w : Work) (s : State) : ∀ x ∈ (w.run s).2, x.needs = [] := by
  cases w with
  | activate p =>
    simp only [Work.run, State.activate]
    split
    · simp
    · simp [State.fallSlot, Work.needs]
  | offer members =>
    cases members with
    | nil => simp [Work.run]
    | cons n rest => simp only [Work.run]; split <;> simp [Work.needs]
  | _ => simp [Work.run]

/-- The hand-offs of a step are a chain of the kinds that the plain ones and the given ones need. -/
theorem settle_chain {s0 s1 : State} {work : List Work} (hK : ∀ k, k.handed = true → K k)
    (hw : ∀ w ∈ work, ∀ k ∈ w.needs, K k) : Chain A K s1 (s0.settle s1 work) := by
  refine settle_induction (P := Chain A K s1) (Q := fun w => ∀ k ∈ w.needs, K k)
    (fun s c h => h.step (.elsewhere (.choices s c)) (hK _ rfl)) (fun w s hq h => h.trans (run_chain hK w hq s)) ?_ ?_ (.refl s1)
  · intro w s _ _ x hx
    rcases List.mem_append.mp hx with hx | hx
    · simp [run_left_needs w s x hx]
    · simp [needs_of_plain (handoffs_plain _ _ x hx)]
  · intro w hx
    rcases List.mem_append.mp hx with hx | hx
    · exact hw w hx
    · simp [needs_of_plain (handoffs_plain _ _ w hx)]

end Sys2Proof.Machine
end

section
/-! SUPPORT. Reports, losses and the rules of a line as chains of elementary changes. -/

namespace Sys2Proof.Machine

variable {A : Prop} {K : Kind → Prop} {k : Kind} {s t u : State} {n m : Nat} {r r' : LoadRecord} {l : Fin 4}
  {new : LoadState} {out : Option (Operation × OpResult)}

/-! ### Holds that appear or leave -/

theorem overtake_chain (level : Nat) (h : K .move) : Chain A K s (s.overtake n level) := by
  unfold State.overtake
  split
  · exact .refl s
  · rename_i r hl
    split
    · exact .one (.go (k := .move) hl (by simp [Kind.moves]) (by simp)) h
    · exact .refl s

theorem keepOffAppears_chain (h : ∀ r, s.load n = some r → r.state = .queued ∨ r.state = .starting → K .move) :
    Chain A K s (s.keepOffAppears n) := by
  unfold State.keepOffAppears
  split
  · exact .refl s
  · rename_i r hl
    split
    · rename_i hs; exact .one (.go (k := .move) hl (by simp [Kind.moves, hs]) (by simp)) (h r hl (.inl hs))
    · rename_i hs
      split
      all_goals exact .one (.go (k := .move) hl (by simp [Kind.moves]) (by simp)) (h r hl (.inr hs))
    · exact .refl s

theorem keepOffLeft_chain (h : K .group) : Chain A K s (s.keepOffLeft n) := by
  unfold State.keepOffLeft
  split
  · exact .refl s
  · exact .one (.forgetFailed s n) h

/-! ### Reports -/

theorem followIsolator_chain (b : Bool) (h1 : K .note) (h2 : K .mark) (h3 : K .group)
    (h : ∀ r, s.load n = some r → r.state = .queued ∨ r.state = .starting → K .move) :
    Chain A K s (s.followIsolator n b) := by
  unfold State.followIsolator
  split
  · exact .refl s
  · rename_i r hl
    split
    · exact .refl s
    · have hw : Chain A K s ((s.setLoad n { r with isolatorHold := b }).mark n) :=
        noted_chain hl h1 h2
      dsimp only
      split
      · exact hw.trans (keepOffAppears_chain (fun r' hl' hs => by
          cases (show some _ = some r' by simpa using hl')
          exact h r hl hs))
      · exact hw.trans (keepOffLeft_chain h3)

theorem localStep_chain (rep : Report) (hm : K .move) (hr : s.stateOf n ≠ some .starting → K .rest) :
    Chain A K s (s.localStep n rep) := by
  have go : ∀ st new out, s.stateOf n = some st → (new = .stopped → K .rest) → new ≠ .starting → new ≠ .retiring → new ≠ .queued →
      Chain A K s (s.moveTo n new out) := fun st new out hs hr h1 h2 h3 => by
    obtain ⟨r, hl, -⟩ := stateOf_eq.mp hs
    exact .report_move hl hm hr h1 h2 h3
  unfold State.localStep
  split
  · exact .refl s
  · rename_i hs
    have hrest : K .rest := hr (by simp [hs])
    split
    · exact .refl s
    · split <;> exact go _ _ _ hs (fun _ => hrest) (by simp) (by simp) (by simp)
  · exact .refl s
  · exact .refl s
  · rename_i hs
    split
    · exact go _ _ _ hs (by simp) (by simp) (by simp) (by simp)
    · exact .refl s

theorem placeButtonHold_chain {st : LoadState} (hs : s.stateOf n = some st) (h1 : K .note) (h2 : K .mark) :
    Chain A K s (s.placeButtonHold n) := by
  obtain ⟨r, hl, -⟩ := stateOf_eq.mp hs
  simp only [State.placeButtonHold, State.modifyLoad, hl]
  exact noted_chain hl h1 h2

theorem press_chain (b : Bool) (h1 : K .note) (h2 : K .mark) (h3 : K .evaluate) (h4 : K .move) (h5 : K .enqueue) :
    Chain A K s (s.press n b) := by
  unfold State.press
  split
  · rename_i hs; exact placeButtonHold_chain hs h1 h2
  · rename_i hs; exact placeButtonHold_chain hs h1 h2
  · rename_i hs
    split
    · exact placeButtonHold_chain hs h1 h2
    · exact (placeButtonHold_chain hs h1 h2).trans (evaluate_chain h1 h3)
  · rename_i hs
    split
    · exact placeButtonHold_chain hs h1 h2
    · exact (placeButtonHold_chain hs h1 h2).trans (overtake_chain 1 h4)
  · split
    · exact .refl s
    · unfold State.offerButton
      split
      · rename_i ho; exact .one (.entered .call ho) h5
      · exact writeOutcome_chain _ _ h1 h2
      · exact writeOutcome_chain _ _ h1 h2
  · exact .refl s

theorem buttonStep_chain (rep : Report) (b : Bool) (h1 : K .note)
    (hp : ∀ u, u.stateOf n = s.stateOf n → Chain A K u (u.press n b)) : Chain A K s (s.buttonStep n rep b) := by
  unfold State.buttonStep
  split
  · exact .refl s
  · rename_i r hl
    split
    · exact .refl s
    · exact (Chain.one (.note hl) h1).trans (hp _ (by simp [State.stateOf, hl]))

/-- A run state acts on a record outside RETIRING by one change of its state at most (R55, R59, R62, R64). -/
theorem runStep_chain (rep : Report) (c : Commanded) (hs : s.stateOf n ≠ some .retiring) (h1 : K .note) (h2 : K .move)
    (h3 : s.stateOf n ≠ some .starting → K .rest) : Chain A K s (s.runStep n rep c) := by
  unfold State.runStep
  split
  · exact .refl s
  · rename_i r hl
    have hst : s.stateOf n = some r.state := stateOf_eq.mpr ⟨r, hl, rfl⟩
    have rest : r.state ≠ .starting → K .rest := fun h => h3 (by simpa [hst] using h)
    have run : ∀ {out}, Chain A K s (s.moveTo n .run out) := .report_move hl h2 (by simp) (by simp) (by simp) (by simp)
    have stop : ∀ {out}, r.state ≠ .starting → Chain A K s (s.moveTo n .stopped out) := fun h =>
      .report_move hl h2 (fun _ => rest h) (by simp) (by simp) (by simp)
    split
    case h_1 hr | h_2 hr | h_3 hr => split <;> [exact stop (by simp [hr]); exact .refl s]
    case h_4 => split <;> [exact run; exact .refl s]
    case h_5 hr =>
      split
      · exact stop (by simp [hr])
      · split <;> [exact run; exact .refl s]
    case h_6 => split <;> [exact run; exact .refl s]
    case h_7 =>
      split
      · exact run.trans (modifyLoad_chain _ (fun _ => rfl) h1)
      · exact .refl s
    case h_8 hr => exact absurd (by rw [hst, hr]) hs
    all_goals exact .refl s

/-- R68: what a report does to a RETIRING record. -/
theorem retireStep_chain (rep : Report) (c : Commanded) (hl : s.load n = some r) (hr : r.state = .retiring) (h1 : K .note)
    (h2 : K .remove) : Chain A K s (s.retireStep n r rep c) := by
  unfold State.retireStep
  split
  · exact .one (.remove hl _ (.inl hr)) h2
  · split
    · exact .one (.remove hl _ (.inl hr)) h2
    · exact .one (.note hl) h1

/-- The kinds of a report's changes to a record outside RETIRING. -/
def Kind.reported : Kind → Bool
  | .note | .mark | .group | .move | .rest | .evaluate | .enqueue => true
  | _ => false

/-- The kinds of a report's changes to a RETIRING record. -/
def Kind.released : Kind → Bool
  | .note | .mark | .group | .remove => true
  | _ => false

theorem stateOf_modifyLoad (f : LoadRecord → LoadRecord) (hf : ∀ r, (f r).state = r.state) (m : Nat) :
    (s.modifyLoad n f).stateOf m = s.stateOf m := by
  unfold State.stateOf
  rw [modifyLoad_load]
  split
  · rename_i h; subst h; cases s.load m <;> simp [hf]
  · rfl

/-- A record in RETIRING stands in it through the first steps of its report. -/
theorem followIsolator_retiring (b : Bool) (hs : s.stateOf n = some .retiring) : (s.followIsolator n b).stateOf n = some .retiring := by
  obtain ⟨r, hl, hr⟩ := stateOf_eq.mp hs
  unfold State.followIsolator
  simp only [hl]
  split
  · exact hs
  · split
    · simp [State.keepOffAppears, State.stateOf, hr]
    · unfold State.keepOffLeft
      split <;> simp [State.stateOf, hr]

theorem laterReport_retiring (rep : Report) (c : Commanded) (hs : s.stateOf n = some .retiring)
    (hK : ∀ k, k.released = true → K k) : Chain A K s (s.laterReport n .retiring rep c) := by
  have h1 : (s.modifyLoad n (fun r => { r with lastRun := some rep.run })).stateOf n = some .retiring := by
    refine (stateOf_modifyLoad _ (fun _ => ?_) n).trans hs
    rfl
  have hc1 : Chain A K s (s.modifyLoad n (fun r => { r with lastRun := some rep.run })) :=
    modifyLoad_chain _ (fun _ => rfl) (hK _ rfl)
  unfold State.laterReport
  generalize s.modifyLoad n (fun r => { r with lastRun := some rep.run }) = s1 at h1 hc1 ⊢
  have h2 := followIsolator_retiring rep.isolatorOpen h1
  have hc2 : Chain A K s (s1.followIsolator n rep.isolatorOpen) :=
    hc1.trans (followIsolator_chain _ (hK _ rfl) (hK _ rfl) (hK _ rfl) (fun r hl hs => by
      obtain ⟨r', hl', hr'⟩ := stateOf_eq.mp h1
      cases hl.symm.trans hl'
      simp [hr'] at hs))
  dsimp only
  generalize s1.followIsolator n rep.isolatorOpen = s2 at h2 hc2 ⊢
  have h3 : s2.localStep n rep = s2 := by simp [State.localStep, h2]
  have hb : ∀ b, (s2.buttonStep n rep b).stateOf n = some .retiring ∧ Chain A K s2 (s2.buttonStep n rep b) := fun b => by
    obtain ⟨r, hl, hr⟩ := stateOf_eq.mp h2
    have hp : ∀ u : State, u.stateOf n = some .retiring → u.press n b = u := fun u hu => by simp [State.press, hu]
    unfold State.buttonStep
    simp only [hl]
    split
    · exact ⟨h2, .refl s2⟩
    · rw [hp _ (by simp [State.stateOf, hr])]
      exact ⟨by simp [State.stateOf, hr], .one (.note hl) (hK _ rfl)⟩
  simp only [h2, if_true, h3]
  obtain ⟨h4, hc4⟩ := hb (some LoadState.retiring != some .retiring)
  rw [if_pos h4]
  refine (hc2.trans hc4).trans ?_
  obtain ⟨r, hl, hr⟩ := stateOf_eq.mp h4
  unfold State.runStep
  simp only [hl, hr]
  exact retireStep_chain rep c hl hr (hK _ rfl) (hK _ rfl)

theorem laterReport_chain (old : LoadState) (rep : Report) (c : Commanded) (ho : old ≠ .retiring)
    (hK : ∀ k, k.reported = true → (k = .rest → old ≠ .starting) → K k) : Chain A K s (s.laterReport n old rep c) := by
  have keep : ∀ k : Kind, k.reported = true → k ≠ .rest → K k := fun k h hn => hK k h (fun e => absurd e hn)
  have rest : ∀ {u : State}, u.stateOf n = some old → u.stateOf n ≠ some .starting → K .rest := fun hu h =>
    hK _ rfl (fun _ e => h (by rw [hu, e]))
  unfold State.laterReport
  have h1 : Chain A K s (s.modifyLoad n (fun r => { r with lastRun := some rep.run })) := modifyLoad_chain _ (fun _ => rfl) (keep _ rfl (by simp))
  have h2 : ∀ u : State, Chain A K u (u.followIsolator n rep.isolatorOpen) := fun u =>
    followIsolator_chain _ (keep _ rfl (by simp)) (keep _ rfl (by simp)) (keep _ rfl (by simp)) (fun _ _ _ => keep _ rfl (by simp))
  have h3 : ∀ u : State, Chain A K u (if u.stateOf n = some old then u.localStep n rep else u) := fun u => by
    split
    · rename_i hu; exact localStep_chain rep (keep _ rfl (by simp)) (rest hu)
    · exact .refl u
  have h4 : ∀ (u : State) b, Chain A K u (u.buttonStep n rep b) := fun u b =>
    buttonStep_chain rep b (keep _ rfl (by simp)) (fun _ _ => press_chain b (keep _ rfl (by simp)) (keep _ rfl (by simp)) (keep _ rfl (by simp)) (keep _ rfl (by simp)) (keep _ rfl (by simp)))
  have h5 : ∀ u : State, Chain A K u (if u.stateOf n = some old then u.runStep n rep c else u) := fun u => by
    split
    · rename_i hu
      exact runStep_chain rep c (by rw [hu]; simpa using ho) (keep _ rfl (by simp)) (keep _ rfl (by simp)) (rest hu)
    · exact .refl u
  exact (((h1.trans (h2 _)).trans (h3 _)).trans (h4 _ _)).trans (h5 _)

theorem firstReport_chain (rep : Report) (hK : ∀ k, k.reported = true → K k) : Chain A K s (s.firstReport n rep) := by
  unfold State.firstReport
  have h1 : Chain A K s (s.modifyLoad n (fun r => { r with buttonTaken := rep.button, lastRun := some rep.run })) :=
    modifyLoad_chain _ (fun _ => rfl) (hK _ rfl)
  have h2 : ∀ u : State, Chain A K u (u.followIsolator n rep.isolatorOpen) := fun u =>
    followIsolator_chain _ (hK _ rfl) (hK _ rfl) (hK _ rfl) (fun _ _ _ => hK _ rfl)
  have h3 : ∀ u : State, Chain A K u (u.moveTo n (firstState rep) none) := fun u => by
    have hf : firstState rep = .inLocal ∨ firstState rep = .stopped ∨ firstState rep = .run := by
      unfold firstState; split
      · exact .inl rfl
      · split
        · exact .inr (.inl rfl)
        · exact .inr (.inr rfl)
    cases hl : u.load n with
    | none => rw [moveTo_vacant hl]; exact .refl u
    | some r => rcases hf with e | e | e <;> rw [e] <;> exact .report_move hl (hK _ rfl) (fun _ => hK _ rfl) (by simp) (by simp) (by simp)
  exact (h1.trans (h2 _)).trans (h3 _)

theorem ranByReport_chain (old : LoadState) (h : K .group) : Chain A K s (s.ranByReport n old) := by
  unfold State.ranByReport
  split
  · exact .one (.forgetFailed s n) h
  · exact .refl s

/-- A report, by the state of its record (R49); none of a STARTING record brings it to rest. -/
theorem report_chain (rep : Report) (c : Commanded) :
    (s.stateOf n ≠ some .retiring → (∀ k, k.reported = true → (k = .rest → s.stateOf n ≠ some .starting) → K k) →
        Chain A K s (s.report n rep c))
      ∧ (s.stateOf n = some .retiring → (∀ k, k.released = true → K k) → Chain A K s (s.report n rep c)) := by
  unfold State.report
  cases hl : s.load n with
  | none => exact ⟨fun _ _ => .refl s, fun _ _ => .refl s⟩
  | some r =>
    have hs : s.stateOf n = some r.state := stateOf_eq.mpr ⟨r, hl, rfl⟩
    rw [hs]
    refine ⟨fun hr hK => ?_, fun hr hK => ?_⟩
    · have hg : Chain A K s (s.setLoad n (r.gathered rep.strokes rep.current)) := .one (.note hl) (hK _ rfl (by simp))
      refine Chain.trans ?_ (ranByReport_chain _ (hK _ rfl (by simp)))
      split
      · rename_i hu
        exact hg.trans (firstReport_chain rep (fun k hk => hK k hk (fun _ => by simp [hu])))
      · exact hg.trans (laterReport_chain _ rep c (by simpa using hr) (fun k hk h => hK k hk (fun e => by simpa using h e)))
    · have hn : r.state = .retiring := by simpa using hr
      have hg : Chain A K s (s.setLoad n (r.gathered rep.strokes rep.current)) := .one (.note hl) (hK _ rfl)
      refine Chain.trans ?_ (ranByReport_chain _ (hK _ rfl))
      simp only [hn, reduceCtorEq, if_false]
      exact hg.trans (laterReport_retiring rep c (by simp [State.stateOf, LoadRecord.gathered, hn]) hK)

/-! ### Loss and disabling -/

/-- The kinds of change of a loss or a disabling. -/
def Kind.ofLoss : Kind → Bool
  | .note | .lose | .remove | .lost => true
  | _ => false

theorem loseLoad_chain (hK : ∀ k, k.ofLoss = true → K k) : Chain A K s (s.loseLoad n) := by
  unfold State.loseLoad
  split
  · exact .refl s
  · rename_i r hl
    split
    all_goals try exact .one (.go (k := .lose) hl (by simp [Kind.moves]) (by simp)) (hK _ rfl)
    · exact .one (.note hl) (hK _ rfl)
    · exact .one (.note hl) (hK _ rfl)
    · rename_i hr; exact .one (.remove hl _ (.inl hr)) (hK _ rfl)

theorem abandonLoad_chain (hK : ∀ k, k.ofLoss = true → K k) : Chain A K s (s.abandonLoad n) := by
  unfold State.abandonLoad
  split
  · exact .refl s
  · rename_i r hl
    have h1 : Chain A K s (s.setLoad n { r with missCount := 0 }) := .one (.note hl) (hK _ rfl)
    have h2 : (s.setLoad n { r with missCount := 0 }).load n = some { r with missCount := 0 } := by simp
    dsimp only
    split
    · exact h1
    · rename_i hr; exact h1.step (.remove h2 _ (.inl hr)) (hK _ rfl)
    all_goals exact h1.step (.go (k := .lose) h2 (by simp [Kind.moves]) (by simp)) (hK _ rfl)

theorem declareLost_chain (hl : s.load n = some r) (hr : A → r.line = l) (hK : ∀ k, k.ofLoss = true → K k) :
    Chain A K s (s.declareLost l n r.address) := by
  unfold State.declareLost
  refine (Chain.one (.line (.lost _ fun hA a ha => ?_)) (hK _ rfl)).trans (loseLoad_chain hK)
  rcases (NatSet.mem_add _ _ _).mp ha with rfl | ha
  · exact .inr ⟨n, r, hl, hr hA, rfl⟩
  · exact .inl ha

/-- A failed exchange of a drop (R151); its record stands on the line, by `A`. -/
theorem failDrop_chain (hr : A → ∀ r, s.load n = some r → r.line = l) (hK : ∀ k, k.ofLoss = true → K k) :
    Chain A K s (s.failDrop l n) := by
  unfold State.failDrop
  split
  · exact .refl s
  · rename_i r hl
    dsimp only
    generalize (if r.missCount = (s.lineAt l).lossCount then r.missCount else r.missCount + 1) = x
    have h1 : Chain A K s (s.setLoad n { r with missCount := x }) := .one (.note hl) (hK _ rfl)
    have h2 : (s.setLoad n { r with missCount := x }).load n = some { r with missCount := x } := by simp
    split
    · split
      · rename_i hs; exact h1.step (.remove h2 _ (.inl hs)) (hK _ rfl)
      · exact h1
    · split
      · exact h1.trans (declareLost_chain (r := { r with missCount := x }) h2 (fun hA => hr hA r hl) hK)
      · exact h1

theorem applyLossCount_chain (loss : Nat) (hr : A → ∀ r, s.load n = some r → r.line = l) (hK : ∀ k, k.ofLoss = true → K k) :
    Chain A K s (State.applyLossCount l loss s n) := by
  unfold State.applyLossCount
  split
  · exact .refl s
  · rename_i r hl
    have h1 : Chain A K s (s.setLoad n { r with missCount := loss }) := .one (.note hl) (hK _ rfl)
    split
    · exact h1
    · split
      · exact h1.trans (declareLost_chain (r := { r with missCount := loss }) (by simp) (fun hA => hr hA r hl) hK)
      · exact .refl s

/-! ### The end of an exchange -/

/-- R149 to R151: the end of an exchange is a chain of `K` where its record is not RETIRING, and of `K'` where it is RETIRING; either
will do for a failure. None of it brings a STARTING record to rest. By `A` the record polled stands on the line. -/
theorem endExchange_chain {K' : Kind → Prop} (chars : List RxChar)
    (hA : A → ∀ e n r, (s.lineAt l).exchange = some e → e.load = some n → s.load n = some r → r.line = l)
    (hK : ∀ k, k = .ended l ∨ k = .lost ∨ k.reported = true →
      (k = .rest → ∀ e n, (s.lineAt l).exchange = some e → e.load = some n → s.stateOf n ≠ some .starting) → K k)
    (hK' : ∀ k, k = .ended l ∨ k.ofLoss = true ∨ k.released = true → K' k) :
    Chain A K s (s.endExchange l chars) ∨ Chain A K' s (s.endExchange l chars) := by
  unfold State.endExchange
  split
  · exact .inl (.refl s)
  rename_i e he
  have ended : ∀ a b c d o, Change A (.ended l) s (s.setLine l
      { s.lineAt l with exchange := none, silent := a, framing := b, check := c, stray := d, overflow := o }) :=
    fun a b c d o => .line (.ended a b c d o)
  dsimp only
  split
  · exact .inl (.one (ended _ _ _ _ _) (hK _ (.inl rfl) (by simp)))
  rename_i n hn
  have fail : ∀ a b c d o, Chain A K' s ((s.setLine l
      { s.lineAt l with exchange := none, silent := a, framing := b, check := c, stray := d, overflow := o }).failDrop l n) :=
    fun a b c d o => (Chain.one (ended a b c d o) (hK' _ (.inl rfl))).trans
      (failDrop_chain (fun h r hl => hA h e n r he hn hl) (fun k hk => hK' k (.inr (.inl hk))))
  split
  · rename_i rep _
    have h0 := ended (s.lineAt l).silent (s.lineAt l).framing (s.lineAt l).check (s.lineAt l).stray (s.lineAt l).overflow
    unfold State.validDrop
    dsimp only
    have e1 : (s.setLine l { s.lineAt l with exchange := none }).stateOf n = s.stateOf n := rfl
    generalize s.setLine l { s.lineAt l with exchange := none } = s1 at h0 e1 ⊢
    have hm : ∀ {K}, K .note → Chain A K s1 (s1.modifyLoad n (fun r => { r with missCount := 0 })) :=
      fun h => modifyLoad_chain _ (fun _ => rfl) h
    have e2 : (s1.modifyLoad n (fun r => { r with missCount := 0 })).stateOf n = s.stateOf n :=
      (stateOf_modifyLoad _ (by simp) n).trans e1
    generalize s1.modifyLoad n (fun r => { r with missCount := 0 }) = s2 at hm e2 ⊢
    have hl : Change A .lost s2 (s2.setLine l { s2.lineAt l with lost := NatSet.remove (s2.lineAt l).lost e.address }) :=
      .line (.lost _ (fun _ a ha => .inl ((NatSet.mem_remove _ _ _).mp ha).1))
    have e3 : (s2.setLine l { s2.lineAt l with lost := NatSet.remove (s2.lineAt l).lost e.address }).stateOf n = s.stateOf n := e2
    generalize s2.setLine l { s2.lineAt l with lost := NatSet.remove (s2.lineAt l).lost e.address } = s3 at hl e3 ⊢
    obtain ⟨hr1, -⟩ := report_chain (A := A) (s := s3) (n := n) rep e.order.commanded (K := K)
    obtain ⟨-, hr2⟩ := report_chain (A := A) (s := s3) (n := n) rep e.order.commanded (K := K')
    by_cases hret : s3.stateOf n = some .retiring
    · right
      exact ((((Chain.one h0 (hK' _ (.inl rfl))).trans (hm (hK' _ (.inr (.inl rfl))))).step hl (hK' _ (.inr (.inl rfl)))).trans
        (hr2 hret (fun k hk => hK' k (.inr (.inr hk)))))
    · left
      have rest : ∀ k : Kind, (k = .rest → s3.stateOf n ≠ some .starting) → k = .rest →
          ∀ e n, (s.lineAt l).exchange = some e → e.load = some n → s.stateOf n ≠ some .starting := fun k h hk e' n' he' hn' => by
        cases he.symm.trans he'
        cases hn.symm.trans hn'
        exact e3 ▸ h hk
      exact ((((Chain.one h0 (hK _ (.inl rfl) (by simp))).trans (hm (hK _ (.inr (.inr rfl)) (by simp)))).step hl
        (hK _ (.inr (.inl rfl)) (by simp))).trans (hr1 hret (fun k hk h => hK k (.inr (.inr hk)) (rest k h))))
  all_goals exact .inr (fail _ _ _ _ _)

/-! ### Line settings -/

theorem startExchange_chain (h : K (.poll l)) : Chain A K s (s.startExchange l) := by
  unfold State.startExchange
  split
  swap
  · exact .refl s
  have next : ∀ a x, s.nextDrop l = some (a, x) → ∃ u p c, u.Sublist (s.lineAt l).urgent
      ∧ x = { s.lineAt l with urgent := u, pass := p, cursor := c } := fun a x hx => by
    unfold State.nextDrop at hx
    dsimp only at hx
    split at hx
    · rename_i b rest hu
      cases hx
      exact ⟨rest, _, _, hu ▸ List.sublist_cons_self _ rest, rfl⟩
    · split at hx
      · cases hx
        exact ⟨(s.lineAt l).urgent, _, _, List.Sublist.refl _, rfl⟩
      · simp at hx
  split
  · exact .refl s
  rename_i a x hx
  obtain ⟨u, p, c, hu, rfl⟩ := next a x hx
  split
  · exact .one (.line (.taken u p c hu)) h
  · rename_i n r hf
    have hm : (n, r) ∈ s.loads := List.mem_of_find?_eq_some hf
    have hp : r.line = l ∧ r.address = a := by
      have hp := List.find?_some hf
      simpa using hp
    exact .one (.line (.polling u p c n a (s.orderOf n r) r hu hm hp.1 hp.2)) h

/-- A record of a chain that enrols none stood at its drop before the chain. -/
theorem Chain.drop_back (h : Chain A K s t) (hK : ¬ K .enrol) {r' : LoadRecord} (ht : t.load m = some r') :
    ∃ r, s.load m = some r ∧ r'.drop = r.drop := by
  refine h.keeps (P := fun u => ∀ r', u.load m = some r' → ∃ r, s.load m = some r ∧ r'.drop = r.drop) ?_ (fun r' h => ⟨r', h, rfl⟩) r' ht
  intro k a b hk hc ih r' hb
  rcases hc.drop_back hb with ⟨r1, h1, e1⟩ | ⟨rfl, -⟩
  · obtain ⟨r, h2, e2⟩ := ih r1 h1
    exact ⟨r, h2, e1.trans e2⟩
  · exact absurd hk hK

/-- R146: the drops of a line under a loss count that has changed. -/
theorem lossCounts_chain (loss : Nat) (hA : A → ∀ n ∈ s.loadsOnLine l, ∀ r, s.load n = some r → r.line = l)
    (hK : ∀ k, k.ofLoss = true → K k) : Chain A K s ((s.loadsOnLine l).foldl (State.applyLossCount l loss) s) := by
  generalize s.loadsOnLine l = q at hA
  have key : ∀ u, Chain A (fun k => k.ofLoss = true) s u →
      Chain A (fun k => k.ofLoss = true) s (q.foldl (State.applyLossCount l loss) u) := by
    induction q with
    | nil => exact fun u h => h
    | cons n rest ih =>
      refine fun u h => ih (fun a m hm => hA a m (List.mem_cons_of_mem _ hm)) _ (h.trans (applyLossCount_chain loss ?_ (fun _ h => h)))
      intro a r hr
      obtain ⟨r0, h0, e⟩ := h.drop_back (by simp [Kind.ofLoss]) hr
      exact (congrArg Prod.fst e).trans (hA a n List.mem_cons_self r0 h0)
  exact (key s (.refl s)).mono hK

theorem writeLine_chain (e : Bool) (d w c : Nat) (hA : A → Table.Canonical 240 s.loads) (h : K .settings)
    (hK : ∀ k, k.ofLoss = true → K k) : Chain A K s (s.writeLine l e d w c) := by
  unfold State.writeLine
  dsimp only
  have line : A → ∀ n ∈ s.loadsOnLine l, ∀ r, s.load n = some r → r.line = l := fun a n hn r hr => by
    obtain ⟨e, he, rfl⟩ := List.mem_map.mp hn
    obtain ⟨h1, h2⟩ := List.mem_filter.mp he
    cases (Table.find_of_mem (hA a) h1).symm.trans hr
    simpa using h2
  split
  · have first : ∀ x, LineWrite A s l .settings x → Chain A K s
        (((s.setLine l x).loadsOnLine l).foldl (State.applyLossCount l c) (s.setLine l x)) := fun x hx =>
      (Chain.one (.line hx) h).trans (lossCounts_chain c line hK)
    split
    · exact first _ (.settings _ d w c _ _)
    · exact first _ (.settings true d w c 1 0)
  · split
    · unfold State.disableLine
      exact (Chain.one (.line (.disabled d w c)) h).trans (foldl_chain (fun _ _ => abandonLoad_chain hK) _ _)
    · exact .one (.line (.settings _ d w c _ _)) h

end Sys2Proof.Machine
end

section
/-! SUPPORT. Every command and every event but a hardware reset as two chains of elementary changes: the row's own change, and what
it hands on. -/

namespace Sys2Proof

open Sys2Proof.Machine

/-! ### The kinds of each row -/

/-- The kinds of a row's own change. -/
def Instr.owns (i : Instr) (k : Kind) : Prop :=
  match i with
  | .commandFrame _ | .fetch _ => k = .transaction
  | .readAttention => k = .attention
  | .setAttentionMask => k = .mask
  | .resetControl => k = .reset
  | .setPlant => k = .plant
  | .enrolLoad => k = .enrol
  | .tuneLoad => k = .tune
  | .linkLoad => k = .link ∨ k = .group
  | .planLoad => k = .member
  | .readLoad => k = .choices
  | .retireLoad => k = .strip ∨ k = .retire ∨ k = .remove
  | .listChanged => k = .list
  | .startLoad => k = .enqueue
  | .stopLoad => k = .request ∨ k = .note
  | .cancelStop => k = .note ∨ k = .move
  | .clearFault | .cancelStart | .stopVerifyTimerExpiry _ | .startVerifyTimerExpiry _ => k = .move
  | .placeHold => k = .placeHold ∨ k = .move
  | .releaseHold | .portHoldExpiry _ => k = .dropHold ∨ k = .group
  | .releaseButtonHold | .buttonHoldExpiry _ => k = .note ∨ k = .mark
  | .defineGroup | .removeGroup => k = .margin
  | .setDayMap => k = .dayMap
  | .overrideToday => k = .dayTypes
  | .setWindow => k = .windows
  | .setWakePlan | .wakeSlot _ | .guardEnd _ => k = .plan
  | .setLine => k = .settings ∨ k.ofLoss = true
  | .readLine => k = .counters
  | .timeBaseSecond => k = .timeBase ∨ k = .choices ∨ k = .clock
  | .activityPeriodEnd => k = .periodEnd
  | .holdMinute => k = .minute
  | .settleEnd _ => k = .feeder
  | .exchangeStart l => k = .poll l
  | .replyWindowExpiry l | .replyEnd l _ => k = .ended l ∨ k.reported = true ∨ k.released = true ∨ k.ofLoss = true
  | .unknownCommand | .hardwareReset | .identify | .findLoad | .readQueue | .readHolds | .readGroup | .setClock | .readClock
  | .readAuthority | .readWakePlan | .plantClockMinute | .midnight | .minimumRunReached _ | .restEnd _ => False

/-- The kinds of change of a row's hand-offs beside those of the plain ones. -/
def Instr.calls (i : Instr) (k : Kind) : Prop :=
  match i with
  | .plantClockMinute | .midnight | .setClock => k = .clock ∨ k = .dayTypes ∨ k = .plan ∨ k = .authority
  | .setDayMap | .overrideToday | .setWindow | .setWakePlan | .guardEnd _ => k = .authority
  | .activityPeriodEnd => k = .period
  | _ => False

/-- The kinds of change of all that a row hands on, with its answer. -/
def Instr.hands (i : Instr) (k : Kind) : Prop :=
  k.handed = true ∨ i.calls k ∨ (k = .answer ∧ isEvent i = false ∧ isTransaction i = false)

end Sys2Proof

namespace Sys2Proof.Machine

variable {A : Prop} {own hand : Kind → Prop} {k : Kind} {s t u : State} {n m : Nat} {r r' : LoadRecord} {l : Fin 4}

/-! ### Own changes -/

/-- A row's own change is a chain that takes no address off an urgent list, or one that changes no orders. -/
def Began (A : Prop) (own : Kind → Prop) (s t : State) : Prop :=
  Chain A (fun k => own k ∧ k.shrinks = false) s t ∨ Chain A (fun k => own k ∧ k.orders = false) s t

/-- A step: a row's own change, and a chain of what it hands on. -/
def Phased (A : Prop) (own hand : Kind → Prop) (s t : State) : Prop := ∃ u, Began A own s u ∧ Chain A hand u t

theorem Began.refl (s : State) : Began A own s s := .inl (.refl s)

theorem Began.grows (h : Chain A own s t) (hk : ∀ k, own k → k.shrinks = false) : Began A own s t :=
  .inl (h.mono (fun k h => ⟨h, hk k h⟩))

theorem Began.keepsOrders (h : Chain A own s t) (hk : ∀ k, own k → k.orders = false) : Began A own s t :=
  .inr (h.mono (fun k h => ⟨h, hk k h⟩))

theorem Began.one (h : Change A k s t) (hk : own k) (hc : k.shrinks = false ∨ k.orders = false) : Began A own s t := by
  rcases hc with hc | hc
  · exact .inl (.one h ⟨hk, hc⟩)
  · exact .inr (.one h ⟨hk, hc⟩)

theorem Began.phased (h : Began A own s t) : Phased A own hand s t := ⟨t, h, .refl t⟩

/-- What a command's body makes: its own change, and the hand-offs it calls for by name. -/
structure Reply.Fits (A : Prop) (own hand : Kind → Prop) (s : State) (r : Reply) : Prop where
  began : Began A own s r.state
  needs : ∀ w ∈ r.work, ∀ k ∈ w.needs, hand k

theorem fits_refuse (c : Completion) : (refuse s c).Fits A own hand s := ⟨.refl s, fun _ h => (nomatch h)⟩

theorem fits_answer (h : Began A own s t) (d : List Byte) : (answerWith t d).Fits A own hand s := ⟨h, fun _ h => (nomatch h)⟩

theorem fits_taken {work : List Work} (h : Began A own s t) (hw : ∀ w ∈ work, ∀ k ∈ w.needs, hand k) :
    (taken t work).Fits A own hand s := ⟨h, hw⟩

theorem fits_plain {work : List Work} (h : Began A own s t) (hw : ∀ w ∈ work, w.plain) : (taken t work).Fits A own hand s :=
  ⟨h, fun w hx => by simp [needs_of_plain (hw w hx)]⟩

theorem fits_effect {e : Effect} (h : Began A own s e.state) (hw : ∀ w ∈ e.work, w.plain) (d : List Byte) :
    (e.reply d).Fits A own hand s := ⟨h, fun w hx => by simp [needs_of_plain (hw w hx)]⟩

theorem runCommand_phased {code : Byte} {body : List Byte → State → Reply} (hh : ∀ k, k.handed = true → hand k)
    (ha : hand .answer) (hb : ∀ params, (body params s).Fits A own hand s) : Phased A own hand s (s.runCommand code body) := by
  unfold State.runCommand
  split
  · exact ⟨s, .refl s, .refl s⟩
  · rename_i params _
    obtain ⟨h1, h2⟩ := hb params
    exact ⟨_, h1, (settle_chain hh h2).step (.elsewhere (.answer _ _ _)) ha⟩

theorem runEvent_phased {e : Effect} (hh : ∀ k, k.handed = true → hand k) (h : Began A own s e.state)
    (hw : ∀ w ∈ e.work, ∀ k ∈ w.needs, hand k) : Phased A own hand s (s.runEvent e) := ⟨_, h, settle_chain hh hw⟩

theorem onLoad_fits {body : Nat → LoadRecord → State → Reply}
    (hb : ∀ n r, s.load n = some r → (body n r s).Fits A own hand s) (params : List Byte) :
    (onLoad body params s).Fits A own hand s := by
  unfold onLoad
  split
  · split
    · exact fits_refuse _
    · split
      · exact fits_refuse _
      · rename_i r hl; exact hb _ r hl
  · exact fits_refuse _

/-! ### The load table's commands -/

theorem enrolLoad_fits (params : List Byte) : (enrolLoad params s).Fits A (· = .enrol) hand s := by
  unfold enrolLoad
  split
  swap
  · exact fits_refuse _
  split
  · exact fits_refuse _
  rename_i n line address feeder weight hbad
  split
  · exact fits_refuse _
  · exact fits_refuse _
  rename_i hn
  split
  · exact fits_refuse _
  rename_i hfree
  refine fits_plain (.one (.enrol ?_ ?_ ?_) rfl (.inl rfl)) (fun _ h => (nomatch h))
  · simp only [badLoad, Bool.or_eq_true, not_or, decide_eq_true_eq] at hbad
    omega
  · simpa [State.stateOf] using hn
  · intro m r hm hd
    have hnone : s.findDrop (lineOf line) address.toNat = none := by simpa using hfree
    have := List.find?_eq_none.mp hnone (m, r) (Table.mem_of_find hm)
    simp [hd] at this

theorem tuneLoad_fits (params : List Byte) : (tuneLoad params s).Fits A (· = .tune) hand s := by
  unfold tuneLoad
  split
  swap
  · exact fits_refuse _
  split
  · exact fits_refuse _
  rename_i hbad
  split
  · exact fits_refuse _
  rename_i r hl
  split
  · exact fits_refuse _
  refine fits_plain (.one (.write hl ⟨.inr (.inl rfl), rfl, fun h => absurd rfl h, fun _ => ?_, fun _ => rfl, fun _ => rfl, rfl, rfl,
    fun h => ⟨h.idle, h.reason, h.request, h.timer⟩⟩ (nomatch ·)) rfl (.inl rfl)) ?_
  · simp only [Bool.or_eq_true, not_or, decide_eq_true_eq] at hbad
    simp only [clampedTuning]; omega
  · intro w hw
    unfold tuneWork at hw
    rcases List.mem_append.mp hw with hw | hw <;> split at hw <;> simp at hw <;> subst hw <;> trivial

/-- R13 step 9: links that are not refused leave the dependency graph sound. -/
theorem sound_of_linkRefusal (h : s.linkRefusal n r r' = none) : GraphSound (dependencyEdges (s.setLoad n r').loads) := by
  unfold State.linkRefusal at h
  repeat (split at h <;> [simp at h; skip])
  rename_i hg
  exact graphRefused_eq_false_iff.mp (by simpa using hg)

theorem writeLinks_chain (hl : s.load n = some r) (hr : Rewritten .link r r') (h : s.linkRefusal n r r' = none) :
    Chain A (fun k => k = .link ∨ k = .group) s (s.writeLinks n r r') := by
  have hw : Chain A (fun k => k = .link ∨ k = .group) s (s.setLoad n r') :=
    .one (.write hl hr (fun _ => sound_of_linkRefusal h)) (.inl rfl)
  unfold State.writeLinks
  dsimp only
  split
  · exact hw
  · exact hw.step (.forgetFailed _ n) (.inr rfl)

theorem linkLoad_fits (params : List Byte) : (linkLoad params s).Fits A (fun k => k = .link ∨ k = .group) hand s := by
  unfold linkLoad
  split
  swap
  · exact fits_refuse _
  split
  · exact fits_refuse _
  split
  · exact fits_refuse _
  rename_i r hl
  dsimp only
  split
  · exact fits_refuse _
  split
  · exact fits_refuse _
  rename_i href
  refine fits_plain (.grows (writeLinks_chain hl ?_ href) (by rintro k (rfl | rfl) <;> rfl)) (fun w hw => ?_)
  · exact ⟨.inr (.inr (.inl rfl)), rfl, fun _ => rfl, id, fun h => absurd rfl h, fun _ => rfl, rfl, rfl,
      fun h => ⟨h.idle, h.reason, h.request, h.timer⟩⟩
  · unfold linkWork at hw
    split at hw
    · simp at hw
    · cases List.mem_singleton.mp hw; trivial

theorem planLoad_fits (params : List Byte) : (planLoad params s).Fits A (· = .member) hand s := by
  unfold planLoad
  split
  swap
  · exact fits_refuse _
  split
  · exact fits_refuse _
  split
  · exact fits_refuse _
  rename_i r hl
  split
  · exact fits_refuse _
  exact fits_plain (.one (.write hl ⟨.inr (.inr (.inr rfl)), rfl, fun _ => rfl, id, fun _ => rfl, fun h => absurd rfl h, rfl, rfl,
    fun h => ⟨h.idle, h.reason, h.request, h.timer⟩⟩ (nomatch ·)) rfl (.inl rfl)) (fun _ h => (nomatch h))

theorem readLoad_fits (params : List Byte) : (readLoad params s).Fits A (· = .choices) hand s := by
  unfold readLoad
  split
  · split
    · exact fits_refuse _
    · split
      · exact fits_answer (.refl s) _
      · refine fits_answer ?_ _
        exact .one (.elsewhere (.choices s _)) rfl (.inl rfl)
  · exact fits_refuse _

theorem retireLoad_fits (params : List Byte) :
    (retireLoad params s).Fits A (fun k => k = .strip ∨ k = .retire ∨ k = .remove) hand s := by
  unfold retireLoad
  split
  swap
  · exact fits_refuse _
  rename_i n
  split
  · exact fits_refuse _
  split
  · exact fits_refuse _
  rename_i r hl
  split
  · exact fits_refuse _
  refine fits_plain ?_ (fun _ h => (nomatch h))
  have hs : Change A .strip s (s.stripLoad n.toNat r) := .strip hl
  have hl' : (s.stripLoad n.toNat r).load n.toNat = some r.stripped := by simp [State.stripLoad]
  have hh : (s.stripLoad n.toNat r).holdsOn n.toNat = [] := by
    simp [State.stripLoad, State.holdsOn, State.forgetFailed, List.filter_filter]
  unfold State.retire
  split
  · exact .inl ((Chain.one hs ⟨.inl rfl, rfl⟩).step (.move (k := .retire) hl' rfl (fun _ => hh)) ⟨.inr (.inl rfl), rfl⟩)
  · exact .inr ((Chain.one hs ⟨.inl rfl, rfl⟩).step (.remove hl' _ (.inr hh)) ⟨.inr (.inr rfl), rfl⟩)

theorem listChanged_fits (params : List Byte) : (listChanged params s).Fits A (· = .list) hand s := by
  unfold listChanged
  split
  · refine fits_answer ?_ _
    exact .one (.list s) rfl (.inl rfl)
  · exact fits_refuse _

/-! ### The operation and hold commands -/

theorem startLoad_fits (n : Nat) (r : LoadRecord) : (startLoadBody n r s).Fits A (· = .enqueue) hand s := by
  unfold startLoadBody
  split
  · split
    · rename_i ho
      exact fits_plain (.one (.entered .call ho) rfl (.inl rfl)) (fun _ h => (nomatch h))
    · exact fits_refuse _
    · exact fits_refuse _
  case h_2 | h_3 | h_4 | h_5 | h_6 => exact fits_plain (.refl s) (fun _ h => (nomatch h))
  all_goals exact fits_refuse _

theorem stopLoad_fits (params : List Byte) : (stopLoad params s).Fits A (fun k => k = .request ∨ k = .note) hand s := by
  unfold stopLoad
  split
  swap
  · exact fits_refuse _
  split
  · exact fits_refuse _
  split
  · exact fits_refuse _
  rename_i r hl
  have plain : ∀ n, ∀ w ∈ [Work.evaluate n], w.plain := fun n w hw => by cases List.mem_singleton.mp hw; trivial
  unfold stopLoadBody
  split
  · rename_i hs; exact fits_plain (.one (.request hl _ (.inl hs)) (.inl rfl) (.inl rfl)) (plain _)
  · rename_i hs; exact fits_plain (.one (.request hl _ (.inr hs)) (.inl rfl) (.inl rfl)) (plain _)
  · rename_i hs
    exact fits_plain (.one (.write hl ⟨.inl rfl, rfl, fun _ => rfl, id, fun _ => rfl, fun _ => rfl, rfl, rfl,
      fun h => ⟨h.idle, h.reason, fun _ => .inl hs, h.timer⟩⟩ (nomatch ·)) (.inr rfl) (.inl rfl)) (plain _)
  case h_4 | h_5 => exact fits_plain (.refl s) (fun _ h => (nomatch h))
  all_goals exact fits_refuse _

theorem cancelStop_fits (hl : s.load n = some r) : (cancelStopBody n r s).Fits A (fun k => k = .note ∨ k = .move) hand s := by
  have h1 : Chain A (fun k => k = .note ∨ k = .move) s (s.setLoad n { r with portStop := none }) := .one (.unrequest hl) (.inl rfl)
  have h2 : (s.setLoad n { r with portStop := none }).load n = some { r with portStop := none } := by simp
  have grows : ∀ {t}, Chain A (fun k => k = .note ∨ k = .move) s t → Began A (fun k => k = .note ∨ k = .move) s t :=
    fun h => .grows h (by rintro k (rfl | rfl) <;> rfl)
  have moved : ∀ new, new = .run ∨ new = .idle → Began A (fun k => k = .note ∨ k = .move) s
      ((s.setLoad n { r with portStop := none }).moveTo n new none) := fun new hn =>
    grows (h1.step (.go (k := .move) h2 (by rcases hn with rfl | rfl <;> simp [Kind.moves]) (by rcases hn with rfl | rfl <;> simp)) (.inr rfl))
  unfold cancelStopBody
  split
  · exact fits_plain (.refl s) (fun _ h => (nomatch h))
  dsimp only
  split
  · split
    · exact fits_plain (grows h1) (fun w hw => by cases List.mem_singleton.mp hw; trivial)
    · split
      · exact fits_plain (moved _ (.inl rfl)) (fun _ h => (nomatch h))
      · exact fits_plain (moved _ (.inr rfl)) (fun _ h => (nomatch h))
  · exact fits_plain (grows h1) (fun _ h => (nomatch h))

theorem clearFault_fits (hl : s.load n = some r) : (clearFaultBody n r s).Fits A (· = .move) hand s := by
  unfold clearFaultBody
  split
  · exact fits_plain (.one (.go (k := .move) hl (by simp [Kind.moves]) (by simp)) rfl (.inl rfl)) (fun _ h => (nomatch h))
  · exact fits_refuse _

theorem cancelStart_fits (hl : s.load n = some r) : (cancelStartBody n r s).Fits A (· = .move) hand s := by
  unfold cancelStartBody
  split
  · rename_i hs
    exact fits_plain (.one (.go (k := .move) hl (by simp [Kind.moves, hs]) (by simp)) rfl (.inl rfl)) (fun _ h => (nomatch h))
  · exact fits_refuse _

theorem placeHold_fits (params : List Byte) : (placeHold params s).Fits A (fun k => k = .placeHold ∨ k = .move) hand s := by
  unfold placeHold
  split
  swap
  · exact fits_refuse _
  split
  · exact fits_refuse _
  split
  · exact fits_refuse _
  rename_i r hl
  split
  · exact fits_refuse _
  rename_i hr
  split
  · exact fits_refuse _
  rename_i h3
  split
  · exact fits_refuse _
  rename_i number hf
  have hlt : number < 96 := List.mem_range.mp (List.mem_of_find?_eq_some hf)
  have hfree : Table.find s.holds number = none := by simpa using List.find?_some hf
  have hplace : ∀ h : PortHold, s.load h.load = some r → (s.holdsOn h.load).length < 3 →
      Change A .placeHold s (({ s with holds := Table.put s.holds number h } : State).mark h.load) :=
    fun h h1 h2 => .placeHold hlt hfree h1 hr h2
  have h3' : (s.holdsOn _).length < 3 := Nat.lt_of_not_le h3
  unfold State.placePortHold State.holdActs
  split
  · refine fits_effect (.grows ?_ (by rintro k (rfl | rfl) <;> rfl)) (fun w hw => ?_) _
    · exact (Chain.one (hplace _ hl h3') (.inl rfl)).trans (keepOffAppears_chain (fun _ _ _ => .inr rfl))
    · cases List.mem_singleton.mp hw; trivial
  · refine fits_effect (.grows ?_ (by rintro k (rfl | rfl) <;> rfl)) (fun w hw => ?_) _
    · exact (Chain.one (hplace _ hl h3') (.inl rfl)).trans (overtake_chain _ (.inr rfl))
    · cases List.mem_singleton.mp hw; trivial

theorem removePortHold_chain {number : Nat} {h : PortHold} (hf : Table.find s.holds number = some h) :
    Chain A (fun k => k = .dropHold ∨ k = .group) s (s.removePortHold number h).state
      ∧ ∀ w ∈ (s.removePortHold number h).work, w.plain := by
  have hd : Chain A (fun k => k = .dropHold ∨ k = .group) s (({ s with holds := Table.drop s.holds number } : State).mark h.load) :=
    .one (.dropHold hf) (.inl rfl)
  unfold State.removePortHold State.holdLeft
  split
  · exact ⟨hd.trans (keepOffLeft_chain (.inr rfl)), fun w hw => by cases List.mem_singleton.mp hw; trivial⟩
  · exact ⟨hd, fun w hw => by cases List.mem_singleton.mp hw; trivial⟩

theorem removePortHold_began {number : Nat} {h : PortHold} (hf : Table.find s.holds number = some h) :
    Began A (fun k => k = .dropHold ∨ k = .group) s (s.removePortHold number h).state :=
  .grows (removePortHold_chain hf).1 (by rintro k (rfl | rfl) <;> rfl)

theorem releaseHold_fits (params : List Byte) : (releaseHold params s).Fits A (fun k => k = .dropHold ∨ k = .group) hand s := by
  unfold releaseHold
  split
  · split
    · exact fits_refuse _
    · split
      · exact fits_refuse _
      · rename_i h hf; exact fits_effect (removePortHold_began hf) (removePortHold_chain (A := A) hf).2 _
  · exact fits_refuse _

theorem removeButtonHold_began (hl : s.load n = some r) :
    Began A (fun k => k = .note ∨ k = .mark) s (s.removeButtonHold n r).state :=
  .grows (noted_chain hl (.inl rfl) (.inr rfl)) (by rintro k (rfl | rfl) <;> rfl)

theorem removeButtonHold_plain : ∀ w ∈ (s.removeButtonHold n r).work, w.plain := fun w hw => by
  cases List.mem_singleton.mp hw; trivial

theorem releaseButtonHold_fits (hl : s.load n = some r) :
    (releaseButtonHoldBody n r s).Fits A (fun k => k = .note ∨ k = .mark) hand s := by
  unfold releaseButtonHoldBody
  split
  · exact fits_refuse _
  · exact fits_effect (removeButtonHold_began hl) removeButtonHold_plain _

/-! ### The other commands -/

theorem defineGroup_fits (params : List Byte) : (defineGroup params s).Fits A (· = .margin) hand s := by
  have put : ∀ (g : Byte) x, ¬ 15 < g.toNat → Began A (· = .margin) s { s with groups := Table.put s.groups g.toNat x } :=
    fun g x hg => .one (.elsewhere (.margin s _ (fun hc => Table.canonical_put hc (by omega) x))) rfl (.inl rfl)
  unfold defineGroup
  split
  · split
    · exact fits_refuse _
    · rename_i hg
      split
      · exact fits_plain (put _ _ hg) (fun _ h => (nomatch h))
      · exact fits_plain (put _ _ hg) (fun _ h => (nomatch h))
  · exact fits_refuse _

theorem removeGroup_fits (params : List Byte) : (removeGroup params s).Fits A (· = .margin) hand s := by
  unfold removeGroup
  split
  · split
    · exact fits_refuse _
    · split
      · exact fits_refuse _
      · split
        · exact fits_refuse _
        · exact fits_plain (.one (.elsewhere (.margin s _ (fun hc => Table.canonical_drop hc _))) rfl (.inl rfl))
            (fun _ h => (nomatch h))
  · exact fits_refuse _

theorem needs_recompute (h : hand .authority) : ∀ w ∈ [Work.recompute], ∀ k ∈ w.needs, hand k := fun w hw k hk => by
  cases List.mem_singleton.mp hw
  cases List.mem_singleton.mp hk
  exact h

theorem setDayMap_fits (h : hand .authority) (params : List Byte) : (setDayMap params s).Fits A (· = .dayMap) hand s := by
  unfold setDayMap
  split
  · split
    · exact fits_taken (.one (.elsewhere (.dayMap s _)) rfl (.inl rfl)) (needs_recompute h)
    · exact fits_refuse _
  · exact fits_refuse _

theorem overrideToday_fits (h : hand .authority) (params : List Byte) : (overrideToday params s).Fits A (· = .dayTypes) hand s := by
  unfold overrideToday
  split
  · split
    · exact fits_refuse _
    · split
      · exact fits_refuse _
      · exact fits_taken (.one (.elsewhere (.dayTypes s _ s.yesterday)) rfl (.inl rfl)) (needs_recompute h)
  · exact fits_refuse _

theorem setWindow_fits (h : hand .authority) (params : List Byte) : (setWindow params s).Fits A (· = .windows) hand s := by
  unfold setWindow
  split
  · split
    · exact fits_refuse _
    · split
      · exact fits_refuse _
      · exact fits_taken (.one (.elsewhere (.windows s _)) rfl (.inl rfl)) (needs_recompute h)
  · exact fits_refuse _

theorem setWakePlan_fits (h : hand .authority) (params : List Byte) : (setWakePlan params s).Fits A (· = .plan) hand s := by
  unfold setWakePlan
  split
  swap
  · exact fits_refuse _
  split
  · exact fits_refuse _
  rename_i p _ _ _ _ _ _ _ hp
  have put : ∀ y, Began A (· = .plan) s (s.setPlan p.toNat y) := fun y =>
    .one (.elsewhere (.plan s _ (fun hc => Table.canonical_put hc (by omega) y))) rfl (.inl rfl)
  unfold State.setWakePlan
  split
  · exact fits_plain (put _) (fun _ h => (nomatch h))
  · split
    · exact fits_plain (put _) (fun _ h => (nomatch h))
    · exact fits_taken (put _) (needs_recompute h)

theorem setLine_fits (hA : A → Table.Canonical 240 s.loads) (params : List Byte) :
    (setLine params s).Fits A (fun k => k = .settings ∨ k.ofLoss = true) hand s := by
  unfold setLine
  split
  · split
    · exact fits_refuse _
    · refine fits_plain (.keepsOrders (writeLine_chain _ _ _ _ hA (.inl rfl) (fun _ h => .inr h)) ?_) (fun _ h => (nomatch h))
      rintro k (rfl | h)
      · rfl
      · cases k <;> simp [Kind.ofLoss] at h <;> rfl
  · exact fits_refuse _

theorem readLine_fits (params : List Byte) : (readLine params s).Fits A (· = .counters) hand s := by
  unfold readLine
  split
  · split
    · exact fits_refuse _
    · refine fits_answer ?_ _
      exact .one (.line .counters) rfl (.inl rfl)
  · exact fits_refuse _

theorem readAttention_fits (params : List Byte) : (readAttention params s).Fits A (· = .attention) hand s := by
  unfold readAttention
  split
  · refine fits_answer ?_ _
    exact .one (.elsewhere (.attention s)) rfl (.inl rfl)
  · exact fits_refuse _

theorem setAttentionMask_fits (params : List Byte) : (setAttentionMask params s).Fits A (· = .mask) hand s := by
  unfold setAttentionMask
  split
  · split
    · exact fits_refuse _
    · exact fits_plain (.one (.elsewhere (.mask s _)) rfl (.inl rfl)) (fun _ h => (nomatch h))
  · exact fits_refuse _

theorem setPlant_fits (params : List Byte) : (setPlant params s).Fits A (· = .plant) hand s := by
  unfold setPlant
  split
  · split
    · exact fits_refuse _
    · exact fits_plain (.one (.elsewhere (.plant s _ _ _)) rfl (.inl rfl)) (fun w hw => by
        cases List.mem_singleton.mp hw; trivial)
  · exact fits_refuse _

/-! ### The clock -/

/-- The kinds of a new minute or of a setting of the clock. -/
structure Carries (K : Kind → Prop) : Prop where
  handed : ∀ k, k.handed = true → K k
  clock : K .clock
  dayTypes : K .dayTypes
  plan : K .plan
  authority : K .authority

variable {K : Kind → Prop}

theorem Carries.needs (h : Carries K) (plans : List Nat) : ∀ w ∈ Work.recompute :: plans.map Work.activate, ∀ k ∈ w.needs, K k := by
  intro w hw k hk
  rcases List.mem_cons.mp hw with rfl | hw
  · cases List.mem_singleton.mp hk; exact h.authority
  · obtain ⟨p, -, rfl⟩ := List.mem_map.mp hw
    rcases List.mem_cons.mp hk with rfl | hk
    · exact h.plan
    · cases List.mem_singleton.mp hk; exact h.authority

theorem newMinute_chain (h : Carries K) (c : PlantClock) : Chain A K s (s.newMinute c) := by
  unfold State.newMinute State.runEvent
  refine Chain.trans ?_ (settle_chain h.handed (h.needs _))
  dsimp only [State.carry]
  split
  · exact .one (.elsewhere (.clock s _)) h.clock
  · exact ((Chain.one (.elsewhere (.clock s _)) h.clock).step (.elsewhere (.dayTypes _ none _)) h.dayTypes).step
      (.elsewhere (.plan _ _ (fun hc => Table.canonical_mapEach hc (fun _ x => x.newDay)))) h.plan

theorem minutesTaken_chain (h : Carries K) (j : Nat) (s : State) : Chain A K s (State.minutesTaken j s) := by
  induction j generalizing s with
  | zero => exact .refl s
  | succ j ih =>
    unfold State.minutesTaken
    split
    · exact .refl s
    · exact (newMinute_chain h _).trans (ih _)

theorem clockSet_chain (h : Carries K) (c : PlantClock) : Chain A K s (s.clockSet c) := by
  unfold State.clockSet
  have h1 : Chain A K s { s with clock := some c } := .one (.elsewhere (.clock s _)) h.clock
  split
  · exact h1.step (.elsewhere (.dayTypes _ none _)) h.dayTypes
  · split
    · exact h1
    · exact (h1.step (.elsewhere (.dayTypes _ none _)) h.dayTypes).step
        (.elsewhere (.plan _ _ (fun hc => Table.canonical_mapEach hc (fun _ x => x.daySet c.day)))) h.plan

theorem setClock_chain (h : Carries K) (ha : K .answer) : Chain A K s (s.runCommand 0x30 setClock) := by
  unfold State.runCommand
  split
  · exact .refl s
  rename_i params _
  have body : Chain A K s (setClock params s).state ∧ ∀ w ∈ (setClock params s).work, ∀ k ∈ w.needs, K k := by
    unfold setClock
    split
    · split
      · exact ⟨.refl s, fun _ h => (nomatch h)⟩
      · exact ⟨clockSet_chain h _, h.needs _⟩
    · exact ⟨.refl s, fun _ h => (nomatch h)⟩
  exact (body.1.trans (settle_chain h.handed body.2)).step (.elsewhere (.answer _ _ _)) ha

end Sys2Proof.Machine
end

section
/-! SUPPORT. `exec_phased`: every row but a hardware reset is its own change and what it hands on; and the laws that each step keeps. -/

namespace Sys2Proof.Machine

variable {A : Prop} {k : Kind} {s t u : State} {n m : Nat} {r r' : LoadRecord} {l : Fin 4} {i : Instr}

/-- What a step may take for granted of the state it begins in, where its rules need it: the records of the polled drops stand on their
line. -/
def Polled (s : State) : Prop := Canonical s ∧ LineLaw s

theorem hands_handed (i : Instr) : ∀ k, k.handed = true → i.hands k := fun _ h => .inl h

theorem command_phased (he : isEvent i = false) (ht : isTransaction i = false) {code : Byte} {body : List Byte → State → Reply}
    (hb : ∀ params, (body params s).Fits A i.owns i.hands s) : Phased A i.owns i.hands s (s.runCommand code body) :=
  runCommand_phased (hands_handed i) (.inr (.inr ⟨rfl, he, ht⟩)) hb

theorem event_phased {e : Effect} (h : Began A i.owns s e.state) (hw : ∀ w ∈ e.work, ∀ k ∈ w.needs, i.hands k) :
    Phased A i.owns i.hands s (s.runEvent e) := runEvent_phased (hands_handed i) h hw

theorem stays_phased (s : State) : Phased A i.owns i.hands s s := (Began.refl s).phased

/-- A command that only reads refuses or answers, and changes nothing. -/
def Reads (body : List Byte → State → Reply) : Prop :=
  ∀ params s, (∃ c, body params s = refuse s c) ∨ ∃ d, body params s = answerWith s d

theorem identify_reads : Reads identify := fun params s => by
  unfold identify; split
  · exact .inr ⟨_, rfl⟩
  · exact .inl ⟨_, rfl⟩

theorem findLoad_reads : Reads findLoad := fun params s => by
  unfold findLoad; split
  · split
    · exact .inl ⟨_, rfl⟩
    · split
      · exact .inl ⟨_, rfl⟩
      · exact .inr ⟨_, rfl⟩
  · exact .inl ⟨_, rfl⟩

theorem readQueue_reads : Reads readQueue := fun params s => by
  unfold readQueue; split
  · exact .inr ⟨_, rfl⟩
  · exact .inl ⟨_, rfl⟩

theorem readHolds_reads : Reads (onLoad readHoldsBody) := fun params s => by
  unfold onLoad readHoldsBody; split
  · split
    · exact .inl ⟨_, rfl⟩
    · split
      · exact .inl ⟨_, rfl⟩
      · exact .inr ⟨_, rfl⟩
  · exact .inl ⟨_, rfl⟩

theorem readGroup_reads : Reads readGroup := fun params s => by
  unfold readGroup; split
  · split
    · exact .inl ⟨_, rfl⟩
    · split
      · exact .inl ⟨_, rfl⟩
      · exact .inr ⟨_, rfl⟩
  · exact .inl ⟨_, rfl⟩

theorem readClock_reads : Reads readClock := fun params s => by
  unfold readClock; split
  · exact .inr ⟨_, rfl⟩
  · exact .inl ⟨_, rfl⟩

theorem readAuthority_reads : Reads readAuthority := fun params s => by
  unfold readAuthority; split
  · exact .inr ⟨_, rfl⟩
  · exact .inl ⟨_, rfl⟩

theorem readWakePlan_reads : Reads readWakePlan := fun params s => by
  unfold readWakePlan; split
  · split
    · exact .inl ⟨_, rfl⟩
    · exact .inr ⟨_, rfl⟩
  · exact .inl ⟨_, rfl⟩

theorem reads_phased (he : isEvent i = false) (ht : isTransaction i = false) {code : Byte} {body : List Byte → State → Reply}
    (hb : Reads body) : Phased A i.owns i.hands s (s.runCommand code body) :=
  command_phased he ht (fun params => by
    rcases hb params s with ⟨c, e⟩ | ⟨d, e⟩
    · rw [e]; exact fits_refuse c
    · rw [e]; exact fits_answer (.refl s) d)

/-- The end of an exchange is a reply row's own change. -/
theorem endExchange_began (chars : List RxChar) (hi : i = .replyWindowExpiry l ∨ ∃ samples, i = .replyEnd l samples) :
    Began (Polled s) i.owns s (s.endExchange l chars) := by
  have ho : ∀ k, (k = .ended l ∨ k.reported = true ∨ k.released = true ∨ k.ofLoss = true) → i.owns k := by
    rcases hi with rfl | ⟨samples, rfl⟩ <;> exact fun _ h => h
  refine endExchange_chain chars ?_ ?_ ?_
  · rintro ⟨-, hline⟩ e n r he hn hl
    obtain ⟨r', hl', hr', -⟩ := hline.polled l e n he hn
    cases hl.symm.trans hl'
    exact hr'
  · rintro k (rfl | rfl | h) -
    · exact ⟨ho _ (.inl rfl), rfl⟩
    · exact ⟨ho _ (.inr (.inr (.inr rfl))), rfl⟩
    · exact ⟨ho _ (.inr (.inl h)), by cases k <;> simp [Kind.reported] at h <;> rfl⟩
  · rintro k (rfl | h | h)
    · exact ⟨ho _ (.inl rfl), rfl⟩
    · exact ⟨ho _ (.inr (.inr (.inr h))), by cases k <;> simp [Kind.ofLoss] at h <;> rfl⟩
    · exact ⟨ho _ (.inr (.inr (.inl h))), by cases k <;> simp [Kind.released] at h <;> rfl⟩

theorem endExchange_phased (chars : List RxChar) (hi : i = .replyWindowExpiry l ∨ ∃ samples, i = .replyEnd l samples) :
    Phased (Polled s) i.owns i.hands s (s.runEvent { state := s.endExchange l chars, work := [] }) :=
  event_phased (endExchange_began chars hi) (fun _ h => (nomatch h))

theorem newMinute_phased (hi : i = .plantClockMinute ∨ i = .midnight) (c : PlantClock) :
    Phased A i.owns i.hands s (s.newMinute c) := by
  refine ⟨s, .refl s, newMinute_chain ⟨hands_handed i, ?_, ?_, ?_, ?_⟩ c⟩ <;>
    rcases hi with rfl | rfl <;> simp [Instr.hands, Instr.calls]

theorem timer_phased (hl : s.load n = some r) (o : Operation × OpResult)
    (hi : i.owns .move) : Phased A i.owns i.hands s (s.runEvent { state := s.moveTo n .fault (some o), work := [] }) :=
  event_phased (.one (.go (k := .move) hl (by simp [Kind.moves]) (by simp)) hi (.inl rfl)) (fun _ h => (nomatch h))

/-- Every row but a hardware reset, under the assumption that the records of polled drops stand on their line. -/
theorem exec_phased (h : exec i s = .next t) (hi : i ≠ .hardwareReset) : Phased (Polled s) i.owns i.hands s t := by
  cases i with
  | commandFrame mosi => cases h; refine Began.phased ?_; exact .one (.elsewhere (.transaction s _)) rfl (.inl rfl)
  | fetch clocks =>
    simp only [exec, execFetch] at h
    split at h <;> cases h
    · exact stays_phased s
    · refine Began.phased ?_; exact .one (.elsewhere (.fetch s _)) rfl (.inl rfl)
  | unknownCommand =>
    simp only [exec, execUnknownCommand] at h
    split at h
    · cases h; exact stays_phased s
    · split at h <;> cases h
      · exact stays_phased s
      · exact ⟨s, .refl s, .one (.elsewhere (.answer s _ _)) (.inr (.inr ⟨rfl, rfl, rfl⟩))⟩
  | hardwareReset => exact absurd rfl hi
  | identify => cases h; exact reads_phased rfl rfl identify_reads
  | readAttention => cases h; exact command_phased rfl rfl readAttention_fits
  | setAttentionMask => cases h; exact command_phased rfl rfl setAttentionMask_fits
  | resetControl =>
    have ha : Instr.hands .resetControl .answer := .inr (.inr ⟨rfl, rfl, rfl⟩)
    simp only [exec, execResetControl] at h
    split at h <;> cases h
    · exact stays_phased s
    · unfold resetControl
      split
      · refine ⟨s.controlReset, ?_, .one (.elsewhere (.answer _ _ _)) ha⟩
        exact .one (.reset s) rfl (.inr rfl)
      · exact ⟨s, .refl s, .one (.elsewhere (.answer _ _ _)) ha⟩
  | setPlant => cases h; exact command_phased rfl rfl setPlant_fits
  | enrolLoad => cases h; exact command_phased rfl rfl enrolLoad_fits
  | tuneLoad => cases h; exact command_phased rfl rfl tuneLoad_fits
  | linkLoad => cases h; exact command_phased rfl rfl linkLoad_fits
  | planLoad => cases h; exact command_phased rfl rfl planLoad_fits
  | readLoad => cases h; exact command_phased rfl rfl readLoad_fits
  | findLoad => cases h; exact reads_phased rfl rfl findLoad_reads
  | retireLoad => cases h; exact command_phased rfl rfl retireLoad_fits
  | listChanged => cases h; exact command_phased rfl rfl listChanged_fits
  | startLoad => cases h; exact command_phased rfl rfl (onLoad_fits (fun n r _ => startLoad_fits n r))
  | stopLoad => cases h; exact command_phased rfl rfl stopLoad_fits
  | cancelStop => cases h; exact command_phased rfl rfl (onLoad_fits (fun _ _ hl => cancelStop_fits hl))
  | clearFault => cases h; exact command_phased rfl rfl (onLoad_fits (fun _ _ hl => clearFault_fits hl))
  | cancelStart => cases h; exact command_phased rfl rfl (onLoad_fits (fun _ _ hl => cancelStart_fits hl))
  | readQueue => cases h; exact reads_phased rfl rfl readQueue_reads
  | placeHold => cases h; exact command_phased rfl rfl placeHold_fits
  | releaseHold => cases h; exact command_phased rfl rfl releaseHold_fits
  | releaseButtonHold => cases h; exact command_phased rfl rfl (onLoad_fits (fun _ _ hl => releaseButtonHold_fits hl))
  | readHolds => cases h; exact reads_phased rfl rfl readHolds_reads
  | defineGroup => cases h; exact command_phased rfl rfl defineGroup_fits
  | removeGroup => cases h; exact command_phased rfl rfl removeGroup_fits
  | readGroup => cases h; exact reads_phased rfl rfl readGroup_reads
  | setClock =>
    have hc : Carries (Instr.hands .setClock) := by
      refine ⟨hands_handed _, ?_, ?_, ?_, ?_⟩ <;> simp [Instr.hands, Instr.calls]
    have ha : Instr.hands .setClock .answer := .inr (.inr ⟨rfl, rfl, rfl⟩)
    simp only [exec, execSetClock] at h
    split at h <;> cases h
    · exact stays_phased s
    · split
      · exact ⟨s, .refl s, (minutesTaken_chain hc _ s).trans (setClock_chain hc ha)⟩
      · exact ⟨s, .refl s, setClock_chain hc ha⟩
  | readClock => cases h; exact reads_phased rfl rfl readClock_reads
  | setDayMap => cases h; exact command_phased rfl rfl (setDayMap_fits (.inr (.inl rfl)))
  | overrideToday => cases h; exact command_phased rfl rfl (overrideToday_fits (.inr (.inl rfl)))
  | setWindow => cases h; exact command_phased rfl rfl (setWindow_fits (.inr (.inl rfl)))
  | readAuthority => cases h; exact reads_phased rfl rfl readAuthority_reads
  | setWakePlan => cases h; exact command_phased rfl rfl (setWakePlan_fits (.inr (.inl rfl)))
  | readWakePlan => cases h; exact reads_phased rfl rfl readWakePlan_reads
  | setLine => cases h; exact command_phased rfl rfl (setLine_fits (fun hp => hp.1.loads))
  | readLine => cases h; exact command_phased rfl rfl readLine_fits
  | timeBaseSecond =>
    cases h
    refine (Began.grows ?_ (by rintro k (rfl | rfl | rfl) <;> rfl)).phased
    exact ((Chain.one (.elsewhere (.timeBase s s.nextTimeBase)) (.inl rfl)).step (.elsewhere (.choices _ _)) (.inr (.inl rfl))).step
      (.elsewhere (.clock _ (s.clock.map PlantClock.tick))) (.inr (.inr rfl))
  | plantClockMinute =>
    simp only [exec, execPlantClockMinute] at h
    split at h
    · cases h; exact stays_phased s
    · split at h <;> cases h
      · exact newMinute_phased (.inl rfl) _
      · exact stays_phased s
  | midnight =>
    simp only [exec, execMidnight] at h
    split at h
    · cases h; exact stays_phased s
    · split at h <;> cases h
      · exact newMinute_phased (.inr rfl) _
      · exact stays_phased s
  | activityPeriodEnd =>
    simp only [exec, execActivityPeriodEnd] at h
    split at h <;> cases h
    · refine event_phased (.one (.elsewhere (.periodEnd s _)) rfl (.inl rfl)) (fun w hw k hk => ?_)
      obtain ⟨e, -, rfl⟩ := List.mem_map.mp hw
      cases List.mem_singleton.mp hk
      exact .inr (.inl rfl)
    · exact stays_phased s
  | minimumRunReached n =>
    simp only [exec, execMinimumRunReached] at h
    split at h
    · cases h; exact stays_phased s
    · split at h <;> cases h
      · exact event_phased (.refl s) (by simp [Work.needs])
      · exact stays_phased s
  | portHoldExpiry n =>
    simp only [exec, execPortHoldExpiry] at h
    split at h
    · cases h; exact stays_phased s
    · rename_i x hf
      split at h <;> cases h
      · exact event_phased (removePortHold_began hf)
          (fun w hw => by simp [needs_of_plain ((removePortHold_chain (A := True) hf).2 w hw)])
      · exact stays_phased s
  | buttonHoldExpiry n =>
    simp only [exec, execButtonHoldExpiry] at h
    split at h
    · cases h; exact stays_phased s
    · rename_i r hl
      split at h <;> cases h
      · exact event_phased (removeButtonHold_began hl) (fun w hw => by simp [needs_of_plain (removeButtonHold_plain w hw)])
      · exact stays_phased s
  | holdMinute =>
    simp only [exec, execHoldMinute] at h
    split at h <;> cases h
    · refine Began.phased ?_; exact .one (.minute s) rfl (.inl rfl)
    · exact stays_phased s
  | stopVerifyTimerExpiry n =>
    simp only [exec, execStopVerifyTimerExpiry] at h
    split at h
    · cases h; exact stays_phased s
    · rename_i r hl
      split at h
      · cases h; exact timer_phased hl _ rfl
      · cases h; exact stays_phased s
  | startVerifyTimerExpiry n =>
    simp only [exec, execStartVerifyTimerExpiry] at h
    split at h
    · cases h; exact stays_phased s
    · rename_i r hl
      split at h
      · cases h; exact timer_phased hl _ rfl
      · cases h; exact stays_phased s
  | restEnd n =>
    simp only [exec, execRestEnd] at h
    split at h
    · cases h; exact stays_phased s
    · split at h <;> cases h
      · exact event_phased (.refl s) (by simp [Work.needs])
      · exact stays_phased s
  | settleEnd f =>
    simp only [exec, execSettleEnd] at h
    split at h
    · split at h <;> cases h
      · exact event_phased (.one (.elsewhere (.feeder s f)) rfl (.inl rfl)) (fun _ h => (nomatch h))
      · exact stays_phased s
    · cases h; exact stays_phased s
    · cases h; exact stays_phased s
  | wakeSlot p =>
    simp only [exec, execWakeSlot] at h
    split at h
    · cases h; exact stays_phased s
    · rename_i x hx
      split at h <;> cases h
      · exact event_phased (.one (.setPlan hx _) rfl (.inl rfl)) (by simp [State.fallSlot, Work.needs])
      · exact stays_phased s
  | guardEnd p =>
    simp only [exec, execGuardEnd] at h
    split at h
    · cases h; exact stays_phased s
    · rename_i x hx
      split at h
      · cases h; exact stays_phased s
      · split at h <;> cases h
        · exact event_phased (.one (.setPlan hx _) rfl (.inl rfl)) (needs_recompute (.inr (.inl rfl)))
        · exact stays_phased s
  | exchangeStart l =>
    cases h
    exact (Began.keepsOrders (startExchange_chain (K := Instr.owns (.exchangeStart l)) rfl) (by rintro k rfl; rfl)).phased
  | replyWindowExpiry l => cases h; exact endExchange_phased _ (.inl rfl)
  | replyEnd l samples => cases h; exact endExchange_phased _ (.inr ⟨samples, rfl⟩)

/-! ### The laws at reset -/

/-- The state that a hardware reset leaves, whatever waits behind it. -/
def State.atReset (p : List Instr) (c : Nat) : State := { State.reset with pending := p, choices := c }

theorem load_atReset (p : List Instr) (c n : Nat) : (State.atReset p c).load n = none := rfl

theorem lineAt_atReset (p : List Instr) (c : Nat) (l : Fin 4) : (State.atReset p c).lineAt l = Line.reset := by
  fin_cases l <;> rfl

theorem canonical_atReset (p : List Instr) (c : Nat) : Canonical (State.atReset p c) :=
  ⟨Table.canonical_nil _, Table.canonical_nil _, Table.canonical_nil _, Table.canonical_nil _, Table.canonical_nil _⟩

theorem holdLaw_atReset (p : List Instr) (c : Nat) : HoldLaw (State.atReset p c) :=
  ⟨fun _ h => (nomatch h), fun _ => Nat.zero_le _⟩

theorem slotLaw_atReset (p : List Instr) (c : Nat) : SlotLaw (State.atReset p c) :=
  ⟨List.Pairwise.nil, fun _ h => (nomatch h), Nat.lt_succ_self 239⟩

theorem thresholdLaw_atReset (p : List Instr) (c : Nat) : ThresholdLaw (State.atReset p c) := fun n r h => by
  simp [load_atReset] at h

theorem dropLaw_atReset (p : List Instr) (c : Nat) : DropLaw (State.atReset p c) := fun n m r r' h => by
  simp [load_atReset] at h

theorem recordLaw_atReset (p : List Instr) (c : Nat) : RecordLaw (State.atReset p c) :=
  recordLaw_iff.mpr (fun n r h => by simp [load_atReset] at h)

theorem graphLaw_atReset (p : List Instr) (c : Nat) : GraphLaw (State.atReset p c) := graphRefused_eq_false_iff.mp rfl

theorem lineLaw_atReset (p : List Instr) (c : Nat) : LineLaw (State.atReset p c) := by
  rw [lineLaw_iff]
  intro l
  rw [lineAt_atReset]
  exact ⟨by decide, List.nodup_nil, fun _ h => (nomatch h), fun _ h => (nomatch h), fun _ _ h => (nomatch h), rfl, rfl⟩

/-! ### What every step keeps -/

theorem Phased.chain {own hand : Kind → Prop} (h : Phased A own hand s t) : Chain A (fun _ => True) s t := by
  obtain ⟨u, hu | hu, ht⟩ := h <;>
    exact (hu.mono (fun _ _ => trivial)).trans (ht.mono (fun _ _ => trivial))

/-- A property that every elementary change keeps, that holds at reset and does not read the waiting commands is kept by every
step; the changes may take for granted of the records of polled drops what the step's first state does. -/
theorem step_keeps {P : State → Prop} (hp : ∀ s p, P s → P { s with pending := p }) (hr : ∀ p c, P (State.atReset p c))
    (h : step s = .next t) (hs : P s)
    (hc : ∀ k a b p, Change (Polled { s with pending := p }) k a b → P a → P b) : P t := by
  unfold step at h
  split at h
  · cases h; exact hs
  · rename_i i rest _
    by_cases hi : i = .hardwareReset
    · subst hi; cases h; exact hr _ _
    · exact (exec_phased h hi).chain.keeps (fun k a b _ hab ha => hc k a b rest hab ha) (hp s rest hs)

theorem canonical_pending (p : List Instr) (h : Canonical s) : Canonical { s with pending := p } :=
  ⟨h.loads, h.holds, h.groups, h.plans, h.slotOutcomes⟩

theorem holdLaw_pending (p : List Instr) (h : HoldLaw s) : HoldLaw { s with pending := p } := ⟨h.live, h.three⟩

theorem slotLaw_pending (p : List Instr) (h : SlotLaw s) : SlotLaw { s with pending := p } := ⟨h.rising, h.slots, h.cursor⟩

theorem lineLaw_pending (p : List Instr) (h : LineLaw s) : LineLaw { s with pending := p } :=
  ⟨h.room, h.single, h.urgent, h.lost, h.polled, h.atMark, h.released⟩

theorem recordLaw_pending (p : List Instr) (h : RecordLaw s) : RecordLaw { s with pending := p } :=
  ⟨h.idle, h.reason, h.request, h.timer⟩

/-- Every step keeps the tables canonical. -/
theorem step_canonical (h : step s = .next t) (hs : Canonical s) : Canonical t :=
  step_keeps (fun _ p h => canonical_pending p h) canonical_atReset h hs (fun _ _ _ _ hc => hc.canonical)

/-- Settles O48: each law is kept by every elementary change. -/
theorem tableLawsKept : Obligations.TableLawsKept := by
  unfold Obligations.TableLawsKept
  intro s t hc h
  refine ⟨step_canonical h hc, fun hs => ?_, fun hs => ?_, fun hs => ?_, fun hh hs => ?_⟩
  · exact step_keeps (P := ThresholdLaw) (fun _ _ h => h) thresholdLaw_atReset h hs (fun _ _ _ _ hc => hc.thresholdLaw)
  · exact step_keeps (P := DropLaw) (fun _ _ h => h) dropLaw_atReset h hs (fun _ _ _ _ hc => hc.dropLaw)
  · exact (step_keeps (P := fun s => Canonical s ∧ GraphLaw s) (fun _ p h => ⟨canonical_pending p h.1, h.2⟩)
      (fun p c => ⟨canonical_atReset p c, graphLaw_atReset p c⟩) h ⟨hc, hs⟩
      (fun _ _ _ _ hc ha => ⟨hc.canonical ha.1, hc.graphLaw ha.1 ha.2⟩)).2
  · exact (step_keeps (P := fun s => Canonical s ∧ HoldLaw s ∧ SlotLaw s)
      (fun _ p h => ⟨canonical_pending p h.1, holdLaw_pending p h.2.1, slotLaw_pending p h.2.2⟩)
      (fun p c => ⟨canonical_atReset p c, holdLaw_atReset p c, slotLaw_atReset p c⟩) h ⟨hc, hh, hs⟩
      (fun _ _ _ _ hc ha => ⟨hc.canonical ha.1, hc.holdLaw ha.2.1, hc.slotLaw ha.1 ha.2.1 ha.2.2⟩)).2.2

/-- Settles O54: each elementary change keeps the law; a record enters RETIRING or goes once no port hold names it. -/
theorem holdLawKept : Obligations.HoldLawKept := by
  unfold Obligations.HoldLawKept
  intro s t _ hs h
  exact step_keeps (fun _ p h => holdLaw_pending p h) holdLaw_atReset h hs (fun _ _ _ _ hc => hc.holdLaw)

/-- Settles O55: each elementary change keeps the law, the records of polled drops standing on their line where the step begins. -/
theorem lineLawKept : Obligations.LineLawKept := by
  unfold Obligations.LineLawKept
  intro s t hc hs h
  exact (step_keeps (P := fun s => Canonical s ∧ LineLaw s) (fun _ p h => ⟨canonical_pending p h.1, lineLaw_pending p h.2⟩)
    (fun p c => ⟨canonical_atReset p c, lineLaw_atReset p c⟩) h ⟨hc, hs⟩
    (fun _ _ _ p hab ha =>
      ⟨hab.canonical ha.1, hab.lineLaw ⟨canonical_pending p hc, lineLaw_pending p hs⟩ ha.1 ha.2⟩)).2

/-- Settles O57: a change of a record's state leaves it tidy, and every other write of a record keeps it so. -/
theorem recordLawKept : Obligations.RecordLawKept := by
  unfold Obligations.RecordLawKept
  intro s t _ hs h
  exact step_keeps (fun _ p h => recordLaw_pending p h) recordLaw_atReset h hs (fun _ _ _ _ hc => hc.recordLaw)

end Sys2Proof.Machine
end

section
/-! SUPPORT. The state that a hardware reset leaves: its values, and the laws of Safety.lean. -/

namespace Sys2Proof.Machine

theorem execHardwareReset_eq (s : State) : exec .hardwareReset s = .next (State.atReset s.pending s.choices) := rfl

theorem group_atReset (p : List Instr) (c g : Nat) : (State.atReset p c).group g = none := rfl

theorem stateOf_atReset (p : List Instr) (c n : Nat) : (State.atReset p c).stateOf n = none := rfl

theorem feeder_atReset (p : List Instr) (c : Nat) (f : Fin 8) : (State.atReset p c).feeders[f] = .free := by
  simp [State.atReset, State.reset]

/-- No line has a LOST drop or an overflow, no record is in FAULT and no group SHORT: only the CLOCK flag stands (R168, R171). -/
theorem attentionFlags_atReset (p : List Instr) (c : Nat) : (State.atReset p c).attentionFlags = 32 := by
  have hlost : (State.atReset p c).lostCount = 0 := by
    simp [State.lostCount, State.atReset, State.reset, Line.reset]
  have hover : (State.atReset p c).overflowCount = 0 := by
    simp [State.overflowCount, State.atReset, State.reset, Line.reset]
  have hline : (State.atReset p c).lineFlag = false := by simp [State.lineFlag, hlost, hover]
  unfold State.attentionFlags
  rw [hline, show (State.atReset p c).clockFlag = true from rfl, show (State.atReset p c).overrun = false from rfl,
    show (State.atReset p c).shortFlag = false from rfl, show (State.atReset p c).faultFlag = false from rfl,
    show (State.atReset p c).changedFlag = false from rfl]
  decide

/-- Settles O3: a hardware reset leaves the state of `State.atReset`, whose values are those of `State.reset`. -/
theorem hardwareResetValues : Obligations.HardwareResetValues := by
  unfold Obligations.HardwareResetValues
  intro s
  refine ⟨_, execHardwareReset_eq s, rfl, rfl, fun d => ?_, rfl, rfl, fun w => ?_, rfl, rfl, rfl, load_atReset _ _, rfl, fun _ => rfl,
    rfl, rfl, group_atReset _ _, rfl, rfl, feeder_atReset _ _, rfl, rfl, fun _ => rfl, fun l => ?_, rfl, rfl, rfl, rfl, rfl, rfl,
    attentionFlags_atReset _ _, ?_⟩
  · simp [State.atReset, State.reset]
  · simp [State.atReset, State.reset, Window.empty]
  · rw [lineAt_atReset]
    exact ⟨rfl, rfl, rfl, rfl, rfl, rfl, rfl, rfl, rfl, rfl, rfl, rfl, rfl, rfl, rfl, rfl, rfl⟩
  · unfold State.attnLow
    rw [attentionFlags_atReset, show (State.atReset s.pending s.choices).mask = 63 from rfl]
    decide

/-! ### The laws of the empty part -/

theorem queueLaw_atReset (p : List Instr) (c : Nat) : QueueLaw (State.atReset p c) :=
  ⟨Nat.zero_le _, List.Pairwise.nil, List.nodup_nil, fun n => by
    rw [stateOf_atReset, show (State.atReset p c).hasEntry n = false from rfl]
    simp⟩

theorem feederLaw_atReset (p : List Instr) (c : Nat) : FeederLaw (State.atReset p c) := fun f n => by
  rw [feeder_atReset]
  simp [load_atReset]

theorem keepOffLaw_atReset (p : List Instr) (c : Nat) : KeepOffLaw (State.atReset p c) := fun n _ => by simp [stateOf_atReset]

theorem raiseLaw_atReset (p : List Instr) (c : Nat) : RaiseLaw (State.atReset p c) := fun g _ x h => by simp [group_atReset] at h

theorem pacingLaw_atReset (p : List Instr) (c : Nat) : PacingLaw (State.atReset p c) := fun n m _ _ _ _ h => by
  simp [load_atReset] at h

/-- Settles O4: the part right after reset has no record, no hold, no group and no entry, and its lines are quiet. -/
theorem lawsHoldAtReset : Obligations.LawsHoldAtReset := by
  unfold Obligations.LawsHoldAtReset
  exact ⟨canonical_atReset [] 0, slotLaw_atReset [] 0, queueLaw_atReset [] 0, feederLaw_atReset [] 0, .inl (Nat.zero_le 1),
    pacingLaw_atReset [] 0, keepOffLaw_atReset [] 0, raiseLaw_atReset [] 0, holdLaw_atReset [] 0, thresholdLaw_atReset [] 0,
    dropLaw_atReset [] 0, graphLaw_atReset [] 0, recordLaw_atReset [] 0, rfl, lineLaw_atReset [] 0⟩

end Sys2Proof.Machine
end

section
/-! SUPPORT. How a command that has been sent is taken: refused, answered, or taken with what it hands on; and what its bytes name. -/

namespace Sys2Proof.Machine

variable {s t : State} {code : Byte} {params : List Byte} {body : List Byte → State → Reply} {n m : Nat} {r : LoadRecord}

/-! ### Bytes -/

theorem byte_toNat_of_lt (h : n < 256) : (byte n).toNat = n := by simp [byte, Nat.mod_eq_of_lt h]

@[simp] theorem byte_of_toNat (b : Byte) : byte b.toNat = b := by simp [byte]

theorem badLoad_eq_false (b : Byte) : badLoad b = false ↔ b.toNat ≤ 239 := by simp [badLoad]

theorem badLoad_eq_true (b : Byte) : badLoad b = true ↔ 239 < b.toNat := by simp [badLoad]

theorem badAddress_eq_true (b : Byte) : badAddress b = true ↔ b = 0 ∨ 60 < b.toNat := by simp [badAddress]

theorem badWeight_eq_true (b : Byte) : badWeight b = true ↔ b = 0 ∨ 15 < b.toNat := by simp [badWeight]

theorem lineOf_val {b : Byte} (h : b.toNat ≤ 3) : (lineOf b).val = b.toNat := by
  simp only [lineOf, Fin.val_ofNat]; omega

theorem feederOf_val {b : Byte} (h : b.toNat ≤ 7) : (feederOf b).val = b.toNat := by
  simp only [feederOf, Fin.val_ofNat]; omega

/-! ### The command in execution -/

/-- A command that has been sent is well formed where its code is one of the part's and its parameters are at most 38 (R159). -/
theorem State.Sent.commandParams (h : s.Sent code params) (hcode : commandCodes.contains code = true) (hlen : params.length ≤ 38) :
    s.commandParams code = some params := by
  have hb : (byte params.length).toNat = params.length := byte_toNat_of_lt (by omega)
  exact commandParams_of h hcode hb.symm (by omega)

theorem runCommand_refused {c : Completion} (hp : s.commandParams code = some params) (hc : Canonical s)
    (hb : body params s = refuse s c) : s.runCommand code body = s.respond c [] := by
  have hw : (body params s).work = [] := by rw [hb]; rfl
  have hh : handoffs s (body params s).state = [] := by rw [hb]; exact handoffs_self hc.loads
  rw [runCommand_plain hp hw hh, hb]; rfl

theorem runCommand_answered {d : List Byte} (hp : s.commandParams code = some params) (hh : handoffs s t = [])
    (hb : body params s = answerWith t d) : s.runCommand code body = t.respond .done d := by
  have hw : (body params s).work = [] := by rw [hb]; rfl
  have hh : handoffs s (body params s).state = [] := by rw [hb]; exact hh
  rw [runCommand_plain hp hw hh, hb]; rfl

theorem runCommand_taken {work : List Work} (hp : s.commandParams code = some params) (hb : body params s = taken t work) :
    s.runCommand code body = (s.settle t work).respond .done [] := by
  rw [runCommand_of hp, hb]; rfl

/-! ### The drops -/

theorem findDrop_eq_none_iff (hc : Canonical s) (l : Fin 4) (a : Nat) :
    s.findDrop l a = none ↔ ∀ m r, s.load m = some r → ¬ (r.line = l ∧ r.address = a) := by
  unfold State.findDrop
  rw [List.find?_eq_none]
  constructor
  · intro h m r hm
    simpa using h (m, r) (Table.mem_of_find hm)
  · intro h e he
    simpa using h e.1 e.2 (Table.find_of_mem hc.loads he)

theorem findDrop_mem {l : Fin 4} {a : Nat} {e : Nat × LoadRecord} (hc : Canonical s) (h : s.findDrop l a = some e) :
    s.load e.1 = some e.2 ∧ e.2.line = l ∧ e.2.address = a := by
  refine ⟨Table.find_of_mem hc.loads (List.mem_of_find?_eq_some h), ?_⟩
  simpa using List.find?_some h

/-- R17: under the law of the drops the record found is the one that stands at the drop. -/
theorem findDrop_of_load (hc : Canonical s) (hd : DropLaw s) (hl : s.load n = some r) :
    s.findDrop r.line r.address = some (n, r) := by
  cases hf : s.findDrop r.line r.address with
  | none => exact absurd ⟨rfl, rfl⟩ ((findDrop_eq_none_iff hc _ _).mp hf n r hl)
  | some e =>
    obtain ⟨h1, h2, h3⟩ := findDrop_mem hc hf
    obtain rfl := hd n e.1 r e.2 hl h1 h2.symm h3.symm
    rw [Option.some.inj (hl.symm.trans h1)]

theorem mem_ring {l : Fin 4} {a : Nat} : a ∈ s.ring l ↔ ∃ e ∈ s.loads, e.2.line = l ∧ e.2.address = a := by
  have key : ∀ (q : Table LoadRecord) (acc : NatSet),
      a ∈ q.foldl (fun l e => NatSet.add l e.2.address) acc ↔ a ∈ acc ∨ ∃ e ∈ q, e.2.address = a := by
    intro q
    induction q with
    | nil => simp
    | cons e rest ih => intro acc; simp [ih, or_assoc, or_left_comm, eq_comm]
  unfold State.ring
  rw [key]
  simp [and_assoc]

end Sys2Proof.Machine
end

section
/-! SUPPORT. ENROL LOAD, FIND LOAD, READ LOAD and RETIRE LOAD (chapter 1). -/

namespace Sys2Proof.Machine

variable {s t : State} {n m : Nat} {r : LoadRecord}

/-! ### ENROL LOAD -/

/-- A record that is created stands in no group and in no queue: it calls for no hand-off. -/
theorem handoffs_enrol (hc : Canonical s) (hn : n < 240) (hl : s.load n = none) (l : Fin 4) (a : Nat) (f : Fin 8) (w : Nat) :
    handoffs s (s.enrol n l a f w) = [] := by
  have hload : ∀ m, (s.enrol n l a f w).load m = if m = n then some (newRecord l a f w s.timeBase) else s.load m :=
    fun m => load_setLoad { s with slotOutcomes := Table.drop s.slotOutcomes n } n m _
  have hfind : Table.find s.loads n = none := hl
  refine handoffs_nil hc.loads (Table.canonical_put hc.loads hn _) rfl (fun g => ?_) (fun _ => rfl) rfl (fun m hm => ?_) (fun m hm => ?_)
    (fun m hk _ => ?_)
  · have hp : ∀ p, (newRecord l a f w s.timeBase).providesTo p = none := fun p => rfl
    have hd : ∀ p, (newRecord l a f w s.timeBase).demandOn p = none := fun p => rfl
    simp only [State.groupView, State.margin, State.group, State.providersByLoad, State.consumers, GroupView.mk.injEq]
    exact ⟨rfl, filterMap_put hc.loads _ _ _ (by simp [hp, hfind]), filterMap_put hc.loads _ _ _ (by simp [hd, hfind])⟩
  · by_cases h : m = n
    · subst h; simp [State.stateOf, hload, newRecord] at hm
    · simpa [State.stateOf, hload, h] using hm
  · by_cases h : m = n
    · subst h; simp [State.stateOf, hl] at hm
    · simpa [State.stateOf, hload, h] using hm
  · have hh : (s.enrol n l a f w).holdsOn m = s.holdsOn m := rfl
    by_cases h : m = n
    · subst h; simpa [State.keepOff, hh, hl, hload, newRecord] using hk
    · simpa [State.keepOff, hh, hload, h] using hk

theorem enrolLoad_bad_iff (n line address feeder weight : Byte) :
    (badLoad n || decide (3 < line.toNat) || badAddress address || decide (7 < feeder.toNat) || badWeight weight) = true
      ↔ 239 < n.toNat ∨ 3 < line.toNat ∨ address = 0 ∨ 60 < address.toNat ∨ 7 < feeder.toNat ∨ weight = 0 ∨ 15 < weight.toNat := by
  simp only [Bool.or_eq_true, badLoad_eq_true, badAddress_eq_true, badWeight_eq_true, decide_eq_true_eq, or_assoc]

/-- Settles O12: the checks in their order, and the record of R10, with which nothing is handed on. -/
theorem enrolLoadCreatesRecord : Obligations.EnrolLoadCreatesRecord := by
  unfold Obligations.EnrolLoadCreatesRecord
  intro s n line address feeder weight hc hs
  have hp := hs.commandParams (by decide) (by simp)
  have hexec : exec .enrolLoad s = .next (s.runCommand 0x10 enrolLoad) := rfl
  rw [hexec]
  refine ⟨fun hbad => ?_, fun h1 h2 h3 h4 h5 h6 h7 => ?_⟩
  · have hb := (enrolLoad_bad_iff n line address feeder weight).mpr hbad
    rw [runCommand_refused hp hc (c := .badValue) (by simp [enrolLoad, hb])]
  have hb := Bool.eq_false_iff.mpr (mt (enrolLoad_bad_iff n line address feeder weight).mp (by push Not; exact ⟨h1, h2, h3, h4, h5, h6, h7⟩))
  have hline : ∀ l : Fin 4, l = lineOf line ↔ l.val = line.toNat := fun l => by rw [Fin.ext_iff, lineOf_val h2]
  refine ⟨fun hst => ?_, fun st hst hr => ?_, fun hl hdrop => ?_, fun hl hdrop => ?_⟩
  · rw [runCommand_refused hp hc (c := .wrongState) (by simp [enrolLoad, hb, hst])]
  · rw [runCommand_refused hp hc (c := .conflict) (by simp [enrolLoad, hb, hst])]
  · obtain ⟨m, r, hm, hml, hma⟩ := hdrop
    have hst : s.stateOf n.toNat = none := by simp [State.stateOf, hl]
    have hf : (s.findDrop (lineOf line) address.toNat).isSome = true := by
      rw [Option.isSome_iff_ne_none, Ne, findDrop_eq_none_iff hc]
      exact fun h => h m r hm ⟨(hline _).mpr hml, hma⟩
    rw [runCommand_refused hp hc (c := .conflict) (by simp [enrolLoad, hb, hst, hf])]
  · have hst : s.stateOf n.toNat = none := by simp [State.stateOf, hl]
    have hf : s.findDrop (lineOf line) address.toNat = none := by
      rw [findDrop_eq_none_iff hc]
      exact fun m r hm h => hdrop m r hm ⟨(hline _).mp h.1, h.2⟩
    have ht := runCommand_taken (body := enrolLoad) hp
      (t := s.enrol n.toNat (lineOf line) address.toNat (feederOf feeder) weight.toNat) (work := []) (by simp [enrolLoad, hb, hst, hf])
    rw [settle_nil (handoffs_enrol hc (by omega) hl _ _ _ _)] at ht
    have hload : ∀ m, (s.enrol n.toNat (lineOf line) address.toNat (feederOf feeder) weight.toNat).load m
        = if m = n.toNat then some (newRecord (lineOf line) address.toNat (feederOf feeder) weight.toNat s.timeBase) else s.load m :=
      fun m => load_setLoad { s with slotOutcomes := Table.drop s.slotOutcomes n.toNat } n.toNat m _
    rw [ht]
    refine ⟨_, newRecord (lineOf line) address.toNat (feederOf feeder) weight.toNat s.timeBase, rfl, ?_, lineOf_val h2, rfl,
      feederOf_val h5, rfl, rfl, rfl, rfl, rfl, rfl, rfl, rfl, rfl, rfl, rfl, rfl, rfl, rfl, rfl, rfl, rfl, rfl, rfl, rfl, rfl, rfl,
      rfl, rfl, rfl, fun m hm => ?_, Table.find_drop_self _ _, (NatSet.mem_add _ _ _).mpr (.inl rfl), ?_, rfl, rfl, rfl, rfl, rfl, rfl, rfl⟩
    · rw [load_respond, hload, if_pos rfl]
    · rw [load_respond, hload, if_neg hm]
    · rw [mem_ring]
      exact ⟨_, Table.mem_of_find (Table.find_put_self _ _ _), rfl, rfl⟩

/-! ### FIND LOAD -/

theorem findLoad_badLength {params : List Byte} (h : params.length ≠ 2) : findLoad params s = refuse s .badLength := by
  unfold findLoad
  split
  · simp at h
  · rfl

/-- Settles O16: the drop's holder is the one record that stands there. -/
theorem findLoadAnswersHolder : Obligations.FindLoadAnswersHolder := by
  unfold Obligations.FindLoadAnswersHolder
  intro s hc hd
  have hexec : exec .findLoad s = .next (s.runCommand 0x15 findLoad) := rfl
  rw [hexec]
  refine ⟨fun params hle hne hs => ?_, fun line address hs => ?_⟩
  · rw [runCommand_refused (hs.commandParams (by decide) hle) hc (findLoad_badLength hne)]
  have hp := hs.commandParams (by decide) (by simp)
  refine ⟨fun hbad => ?_, fun h1 h2 h3 => ?_⟩
  · have hb : 3 < line.toNat ∨ badAddress address = true := by rwa [badAddress_eq_true]
    rw [runCommand_refused hp hc (c := .badValue) (by simp [findLoad, hb])]
  have hb : ¬ (3 < line.toNat ∨ badAddress address = true) := by
    rw [badAddress_eq_true]; push Not; exact ⟨h1, h2, h3⟩
  refine ⟨fun n r hl hline haddress => ?_, fun hnone => ?_⟩
  · have hf : s.findDrop (lineOf line) address.toNat = some (n, r) := by
      rw [← haddress, show lineOf line = r.line from Fin.ext ((lineOf_val h1).trans hline.symm)]
      exact findDrop_of_load hc hd hl
    rw [runCommand_answered hp (handoffs_self hc.loads) (d := [byte n]) (by simp [findLoad, hb, hf])]
  · have hf : s.findDrop (lineOf line) address.toNat = none := by
      rw [findDrop_eq_none_iff hc]
      exact fun m r hm h => hnone m r hm ⟨by rw [h.1, lineOf_val h1], h.2⟩
    rw [runCommand_refused hp hc (c := .noSuch) (by simp [findLoad, hb, hf])]

end Sys2Proof.Machine
end

section
/-! SUPPORT. READ LOAD and RETIRE LOAD (R16, R173; R20 to R22). -/

namespace Sys2Proof.Machine

variable {s t : State} {n m : Nat} {r : LoadRecord}

/-! ### READ LOAD -/

theorem readLoad_vacant {b : Byte} (hb : b.toNat ≤ 239) (hl : s.load b.toNat = none) :
    readLoad [b] s = answerWith s (vacantBytes b.toNat (Table.find s.slotOutcomes b.toNat)) := by
  simp [readLoad, (badLoad_eq_false b).mpr hb, hl]

theorem readLoad_live {b : Byte} (hb : b.toNat ≤ 239) (hl : s.load b.toNat = some r) :
    readLoad [b] s = answerWith { s with choices := s.choices + 1 } (r.bytes b.toNat s.choices) := by
  simp [readLoad, (badLoad_eq_false b).mpr hb, hl]

@[simp] theorem linkBytes_length (r : LoadRecord) (c : Nat) : (r.linkBytes c).length = 7 := by
  unfold LoadRecord.linkBytes
  cases r.provides <;> cases r.drawsA <;> cases r.drawsB <;> rfl

@[simp] theorem membershipBytes_length (x : Option Membership) (c : Nat) : (membershipBytes x c).length = 2 := by
  cases x <;> rfl

@[simp] theorem figureBytes_length (r : LoadRecord) : r.figureBytes.length = 6 := by
  unfold LoadRecord.figureBytes
  cases r.baseline <;> rfl

@[simp] theorem stampBytes_length (x : Option Stamp) : (stampBytes x).length = 3 := by cases x <;> rfl

@[simp] theorem outcomeBytes_length (x : Option Outcome) : (outcomeBytes x).length = 5 := by
  cases x <;> simp [outcomeBytes]

/-- R173: bytes 0 to 21 of READ LOAD. -/
def LoadRecord.headBytes (n : Nat) (r : LoadRecord) : List Byte :=
  [byte n, r.state.code, byte r.line.val, byte r.address, byte r.feeder.val, byte r.weight] ++ r.tuning.bytes

/-- R173: bytes 31 to 49 of READ LOAD. -/
def LoadRecord.statusBytes (r : LoadRecord) : List Byte :=
  [r.commanded.code.setWidth 8, r.startCount.setWidth 8, r.buttonTaken.setWidth 8] ++ be32 r.runSince ++ be32 r.offSince
    ++ [r.blockReason.code, byte (r.portStop.getD 0), lastRunByte r.lastRun, byte r.retireExchanges]
    ++ be16 r.level ++ be16 r.idleClock

/-- R173: bytes 56 to 58 of READ LOAD. -/
def LoadRecord.holdBytes (r : LoadRecord) : List Byte :=
  [byte r.missCount, byte (r.buttonHold.getD 0), flagByte r.isolatorHold]

/-- READ LOAD's answer in its parts, each of a fixed length (R173). -/
theorem bytes_eq (n : Nat) (r : LoadRecord) (c : Nat) :
    r.bytes n c = r.headBytes n ++ (r.linkBytes c ++ (membershipBytes r.membership c ++ (r.statusBytes
      ++ (r.figureBytes ++ (r.holdBytes ++ outcomeBytes r.lastOutcome))))) := by
  simp [LoadRecord.bytes, LoadRecord.headBytes, LoadRecord.statusBytes, LoadRecord.holdBytes]

theorem drop_part {d a b : List Byte} {i k : Nat} (h : d.drop i = a ++ b) (ha : a.length = k) : d.drop (i + k) = b := by
  rw [← List.drop_drop, h]; exact List.drop_left' ha

theorem take_part {d a b : List Byte} {k : Nat} (h : d = a ++ b) (ha : a.length = k) : d.take k = a := by
  rw [h]; exact List.take_left' ha

/-- Dropping the parts of `bytes_eq` one after another. -/
theorem drop_bytes (n : Nat) (r : LoadRecord) (c : Nat) :
    (r.bytes n c).drop 22 = r.linkBytes c ++ (r.bytes n c).drop 29
      ∧ (r.bytes n c).drop 29 = membershipBytes r.membership c ++ (r.bytes n c).drop 31
      ∧ (r.bytes n c).drop 31 = r.statusBytes ++ (r.bytes n c).drop 50
      ∧ (r.bytes n c).drop 50 = r.figureBytes ++ (r.bytes n c).drop 56
      ∧ (r.bytes n c).drop 56 = r.holdBytes ++ (r.bytes n c).drop 59
      ∧ (r.bytes n c).drop 59 = outcomeBytes r.lastOutcome := by
  have d1 := drop_part (d := r.bytes n c) (i := 0) (bytes_eq n r c) (k := 22) rfl
  have d2 := drop_part d1 (linkBytes_length r c)
  have d3 := drop_part d2 (membershipBytes_length _ c)
  have d4 := drop_part d3 (k := 19) rfl
  have d5 := drop_part d4 (figureBytes_length r)
  have d6 := drop_part d5 (k := 3) rfl
  exact ⟨by rw [d1, d2], by rw [d2, d3], by rw [d3, d4], by rw [d4, d5], by rw [d5, d6], d6⟩

theorem bytes_length (n : Nat) (r : LoadRecord) (c : Nat) : (r.bytes n c).length = 64 := by
  rw [bytes_eq]
  simp only [List.length_append, linkBytes_length, membershipBytes_length, figureBytes_length, outcomeBytes_length]
  rfl

/-- R173: bytes 22 to 28 of READ LOAD, the links; what follows an absent link's group byte is free. -/
theorem linkBytes_at (r : LoadRecord) (c : Nat) (rest : List Byte) :
    (r.provides = none → (r.linkBytes c ++ rest)[0]? = some 255)
      ∧ (∀ p, r.provides = some p → (r.linkBytes c ++ rest).take 3 = [byte p.group, byte p.rank, byte p.capacity])
      ∧ (r.drawsA = none → (r.linkBytes c ++ rest)[3]? = some 255)
      ∧ (∀ x, r.drawsA = some x → ((r.linkBytes c ++ rest).drop 3).take 2 = [byte x.group, byte x.demand])
      ∧ (r.drawsB = none → (r.linkBytes c ++ rest)[5]? = some 255)
      ∧ (∀ x, r.drawsB = some x → ((r.linkBytes c ++ rest).drop 5).take 2 = [byte x.group, byte x.demand]) := by
  unfold LoadRecord.linkBytes
  refine ⟨fun h => ?_, fun p h => ?_, fun h => ?_, fun x h => ?_, fun h => ?_, fun x h => ?_⟩ <;> rw [h]
  · rfl
  · rfl
  · cases r.provides <;> rfl
  · cases r.provides <;> rfl
  · cases r.provides <;> cases r.drawsA <;> rfl
  · cases r.provides <;> cases r.drawsA <;> rfl

theorem lastRunByte_eq (x : Option RunState) : lastRunByte x = (match x with
    | none => 255
    | some y => y.code) := by cases x <;> rfl

/-- Settles O15: each field of a record is read back from the part of the answer that holds it. -/
theorem readLoadAnswersRecord : Obligations.ReadLoadAnswersRecord := by
  unfold Obligations.ReadLoadAnswersRecord
  refine ⟨by decide, fun s n hc hs => ?_⟩
  have hp := hs.commandParams (by decide) (by simp)
  have hexec : exec .readLoad s = .next (s.runCommand 0x14 readLoad) := rfl
  rw [hexec]
  refine ⟨fun hn => ?_, fun hn hl => ?_, fun r hn hl => ?_⟩
  · rw [runCommand_refused hp hc (c := .badValue) (by simp [readLoad, (badLoad_eq_true n).mpr hn])]
  · rw [runCommand_answered hp (handoffs_self hc.loads) (readLoad_vacant hn hl)]
    refine ⟨fun ho => ?_, fun o ho => ⟨fun x hx => ?_, fun hx => ?_⟩⟩
    · simp [ho, vacantBytes, outcomeBytes]
    · simp [ho, vacantBytes, outcomeBytes, hx, stampBytes, be16]
    · simp [ho, vacantBytes, outcomeBytes, hx, stampBytes]
  · rw [runCommand_answered (t := { s with choices := s.choices + 1 }) hp (handoffs_elsewhere hc.loads rfl rfl rfl rfl rfl rfl) (readLoad_live hn hl)]
    obtain ⟨d1, d2, d3, d4, d5, d6⟩ := drop_bytes n.toNat r s.choices
    have hlen := bytes_length n.toNat r s.choices
    have heq := bytes_eq n.toNat r s.choices
    generalize r.bytes n.toNat s.choices = d at d1 d2 d3 d4 d5 d6 hlen heq ⊢
    have byteAt : ∀ i j, d[i + j]? = (d.drop i)[j]? := fun i j => List.getElem?_drop.symm
    have dropAt : ∀ i j, d.drop (i + j) = (d.drop i).drop j := fun i j => List.drop_drop.symm
    obtain ⟨l1, l2, l3, l4, l5, l6⟩ := linkBytes_at r s.choices (d.drop 29)
    rw [← d1] at l1 l2 l3 l4 l5 l6
    refine ⟨d, rfl, hlen, ?_, fun h => (byteAt 22 0).trans (l1 h), l2, fun h => (byteAt 22 3).trans (l3 h), fun x h => ?_,
      fun h => (byteAt 22 5).trans (l5 h), fun x h => ?_, fun h => ?_, fun x h => ?_, ?_, fun h => ?_, fun b h => ?_, ?_, fun h => ?_,
      fun o ho => ⟨?_, fun h => ?_, fun x h => ?_⟩⟩
    · rw [take_part (k := 22) heq rfl]
      simp [LoadRecord.headBytes, Tuning.bytes, be16]
    · rw [dropAt 22 3]; exact l4 x h
    · rw [dropAt 22 5]; exact l6 x h
    · rw [show d[29]? = _ from byteAt 29 0, d2, h]; rfl
    · rw [d2, h]; rfl
    · rw [take_part (k := 19) d3 rfl, LoadRecord.statusBytes, lastRunByte_eq]; rfl
    · rw [d4, LoadRecord.figureBytes, h]; rfl
    · rw [d4, LoadRecord.figureBytes, h]
      have hb : byte (b.toNat / 256) = 0 := by
        rw [Nat.div_eq_of_lt b.isLt]; rfl
      simp [be16, hb]
    · rw [dropAt 50 2, d4, d5, LoadRecord.figureBytes]
      cases r.baseline <;> rfl
    · rw [d6, h]; rfl
    · rw [d6, ho]; rfl
    · rw [dropAt 59 2, d6, ho, outcomeBytes, h]; rfl
    · rw [dropAt 59 2, d6, ho, outcomeBytes, h]; rfl

end Sys2Proof.Machine
end

section
/-! SUPPORT. RETIRE LOAD and LIST CHANGED (R18 to R22). -/

namespace Sys2Proof.Machine

variable {s t u : State} {n m : Nat} {r : LoadRecord}

/-! ### RETIRE LOAD -/

theorem stripLoad_load (s : State) (n : Nat) (r : LoadRecord) : (s.stripLoad n r).load n = some r.stripped := by simp [State.stripLoad]

/-- R21, R22: on an enabled line the record enters RETIRING. -/
theorem retire_enabled (he : (s.lineAt r.line).enabled = true) :
    (s.retire n r).slotOutcomes = s.slotOutcomes
      ∧ (s.retire n r).load n = some (r.stripped.entering .retiring s.timeBase) := by
  have hr : s.retire n r = (s.stripLoad n r).moveTo n .retiring none := if_pos he
  refine ⟨?_, ?_⟩
  · rw [hr, moveTo_slotOutcomes]; rfl
  · rw [hr, moveTo_load_self (stripLoad_load s n r)]; rfl

/-- R22: on a disabled line the record goes, and its drop is on no list of the line any more. -/
theorem retire_disabled (he : (s.lineAt r.line).enabled = false) :
    (s.retire n r).load n = none ∧ (s.retire n r).slotOutcomes = Table.put s.slotOutcomes n (s.outcomeOf (.retire, .aborted))
      ∧ r.address ∉ ((s.retire n r).lineAt r.line).lost := by
  have hr : s.retire n r = (s.stripLoad n r).removeLoad n (.retire, .aborted) := if_neg (by simp [he])
  have hl' := stripLoad_load s n r
  refine ⟨?_, ?_, ?_⟩
  · rw [hr, removeLoad_load, if_pos rfl]
  · rw [hr, State.removeLoad, hl']; rfl
  · rw [hr, removeLoad_lineAt hl', if_pos (show r.line = r.stripped.line from rfl)]
    simp [Line.forget, LoadRecord.stripped]

theorem retire_holds (s : State) (n : Nat) (r : LoadRecord) : (s.retire n r).holds = s.holds.filter (fun e => e.2.load != n) := by
  unfold State.retire
  split
  · rw [moveTo_holds]; rfl
  · rw [(removeLoad_rest (stripLoad_load s n r) _).2.2.2.1]; rfl

theorem retire_marks (s : State) (n : Nat) (r : LoadRecord) : n ∈ (s.retire n r).marks := by
  unfold State.retire
  split
  · exact moveTo_marks_self (stripLoad_load s n r)
  · rw [(removeLoad_rest (stripLoad_load s n r) _).2.1]; exact (NatSet.mem_add _ _ _).mpr (.inl rfl)

theorem retire_canonical (hc : Canonical s) (hl : s.load n = some r) : Table.Canonical 240 (s.retire n r).loads := by
  have hs : Canonical (s.stripLoad n r) := (Change.strip (A := True) hl).canonical hc
  unfold State.retire
  split
  · exact moveTo_canonical hs.loads
  · simp only [State.removeLoad, stripLoad_load]
    exact Table.canonical_drop hs.loads n

theorem retireLoad_bad {b : Byte} (hb : 239 < b.toNat) : retireLoad [b] s = refuse s .badValue := by
  simp [retireLoad, (badLoad_eq_true b).mpr hb]

theorem retireLoad_live {b : Byte} (hb : b.toNat ≤ 239) (hl : s.load b.toNat = some r) :
    retireLoad [b] s = if r.state = .stopping ∨ r.state = .queued ∨ r.state = .starting ∨ r.state = .retiring then refuse s .wrongState
      else taken (s.retire b.toNat r) [] := by
  simp [retireLoad, (badLoad_eq_false b).mpr hb, hl]

/-- Settles O18: no hand-off acts on a RETIRING record or brings a slot back, and none touches a hold, a LOST set or a slot outcome. -/
theorem retireLoadBegins : Obligations.RetireLoadBegins := by
  unfold Obligations.RetireLoadBegins
  intro s n hc hs
  have hp := hs.commandParams (by decide) (by simp)
  have hexec : exec .retireLoad s = .next (s.runCommand 0x16 retireLoad) := rfl
  rw [hexec]
  refine ⟨fun hn => ?_, fun hn hl => ?_, fun r hn hl => ⟨fun hst => ?_, fun h1 h2 h3 h4 => ?_⟩⟩
  · rw [runCommand_refused hp hc (retireLoad_bad hn)]
  · rw [runCommand_refused hp hc (c := .noSuch) (by simp [retireLoad, (badLoad_eq_false n).mpr hn, hl])]
  · rw [runCommand_refused hp hc ((retireLoad_live hn hl).trans (if_pos hst))]
  have ht := runCommand_taken hp ((retireLoad_live hn hl).trans (if_neg (by simp [h1, h2, h3, h4])))
  have hq : Quiet (s.retire n.toNat r) (s.settle (s.retire n.toNat r) []) := settle_quiet (fun _ h => (nomatch h))
  rw [ht]
  generalize s.settle (s.retire n.toNat r) [] = t at hq ⊢
  obtain ⟨-, -, -, -, -, -, -, -, -, hout, -, hholds, -⟩ := frozen_field hq.frozen
  refine ⟨_, rfl, hholds.trans (retire_holds s _ r), hq.marks _ (retire_marks s _ r), rfl, rfl, fun he => ?_, fun he => ?_⟩
  · obtain ⟨e1, e2⟩ := retire_enabled (n := n.toNat) he
    obtain ⟨r', h5, h6⟩ := hq.record (retire_canonical hc hl) _ _ e2
    have hst : (r.stripped.entering .retiring s.timeBase).state = .retiring := rfl
    refine ⟨hout.trans e1, h5.trans ?_⟩
    rw [h6.still (by simp [hst]) (by simp [hst]) (.inl (by simp [hst]))]
    rfl
  · obtain ⟨e1, e2, e3⟩ := retire_disabled (n := n.toNat) he
    obtain ⟨u, hu⟩ := frozen_lines hq.frozen r.line
    refine ⟨hq.vacant _ e1, ?_, ?_⟩
    · rw [State.respond_slotOutcomes, hout, e2, Table.find_put_self]; rfl
    · rw [show (t.respond .done []).lineAt r.line = t.lineAt r.line from rfl, hu]
      exact e3

/-! ### LIST CHANGED -/

/-- R19: the marked slots in the order LIST CHANGED meets them, from just after the cursor. -/
def State.onWay (s : State) : List Nat :=
  s.marks.filter (fun n => decide (s.listCursor < n)) ++ s.marks.filter (fun n => decide (n ≤ s.listCursor))

theorem listed_eq (s : State) : s.listed = s.onWay.take 12 := rfl

theorem mem_onWay : n ∈ s.onWay ↔ n ∈ s.marks := by
  simp only [State.onWay, List.mem_append, List.mem_filter, decide_eq_true_eq]
  have := Nat.lt_or_ge s.listCursor n
  tauto

theorem onWay_length (s : State) : s.onWay.length = s.marks.length := by
  have h := (List.filter_append_perm (fun n => decide (s.listCursor < n)) s.marks).length_eq
  have hle : (fun n => !decide (s.listCursor < n)) = fun n => decide (n ≤ s.listCursor) := by
    funext n
    rw [← decide_not, decide_eq_decide, Nat.not_lt]
  rwa [hle] at h

/-- The slots above the cursor come first, each `n - cursor - 1` places on, and the others after them. -/
theorem onWay_pairwise (h : SlotLaw s) :
    s.onWay.Pairwise (fun a b => (a + 239 - s.listCursor) % 240 < (b + 239 - s.listCursor) % 240) := by
  have hcur := h.cursor
  have above : ∀ n, s.listCursor < n → n < 240 → (n + 239 - s.listCursor) % 240 = n - s.listCursor - 1 := fun n h1 h2 => by omega
  have below : ∀ n, n ≤ s.listCursor → (n + 239 - s.listCursor) % 240 = n + 239 - s.listCursor := fun n h1 => by omega
  refine List.pairwise_append.mpr ⟨?_, ?_, ?_⟩
  · refine (h.rising.filter _).imp_of_mem (fun {a b} ha hb hab => ?_)
    simp only [List.mem_filter, decide_eq_true_eq] at ha hb
    rw [above a ha.2 (h.slots a ha.1), above b hb.2 (h.slots b hb.1)]
    omega
  · refine (h.rising.filter _).imp_of_mem (fun {a b} ha hb hab => ?_)
    simp only [List.mem_filter, decide_eq_true_eq] at ha hb
    rw [below a ha.2, below b hb.2]
    omega
  · intro a ha b hb
    simp only [List.mem_filter, decide_eq_true_eq] at ha hb
    have := h.slots a ha.1
    rw [above a ha.2 this, below b hb.2]
    omega

/-- Settles O17: the list taken is the front of the marked slots in their order on the way round. -/
theorem listChangedReportsMarks : Obligations.ListChangedReportsMarks := by
  unfold Obligations.ListChangedReportsMarks
  intro s hc hs hsent
  have hp := hsent.commandParams (by decide) (by simp)
  have hexec : exec .listChanged s = .next (s.runCommand 0x17 listChanged) := rfl
  have hway := onWay_pairwise hs
  refine ⟨s.listed, s.afterListing, ?_, rfl, ?_, fun n hn => mem_listed hn, ?_, fun m hm hm' n hn => ?_⟩
  · rw [hexec, runCommand_answered hp (handoffs_elsewhere hc.loads rfl rfl rfl rfl rfl rfl) (t := s.afterListing) rfl]
  · rw [listed_eq, List.length_take, onWay_length]
  · exact hway.sublist (List.take_sublist 12 _)
  · rw [← List.take_append_drop 12 s.onWay, List.pairwise_append] at hway
    have hdrop : m ∈ s.onWay.drop 12 := by
      have := mem_onWay.mpr hm
      rw [← List.take_append_drop 12 s.onWay, List.mem_append] at this
      exact this.resolve_left hm'
    exact hway.2.2 n hn m hdrop

end Sys2Proof.Machine
end

section
/-! SUPPORT. TUNE LOAD (R3, R11, R12). -/

namespace Sys2Proof.Machine

variable {s t u : State} {n m : Nat} {r r' : LoadRecord}

/-- The values of TUNE LOAD in their ranges; one byte is within its own range of 0 to 255. -/
theorem clampedTuning_eq (tl th delay sv tv : Nat) (k sw cf mr mo bt : Byte) :
    clampedTuning tl th k sw cf delay mr mo sv tv bt =
      { idleEnter := tl, idleLeave := th, smoothing := min 7 k.toNat, strokeWeight := min 15 sw.toNat
        currentFloor := min 250 cf.toNat, idleDelay := min 720 (max 1 delay), minimumRun := mr.toNat, minimumOff := mo.toNat
        stopVerify := min 1800 (max 10 sv), startVerify := min 300 (max 2 tv), buttonTime := min 240 (max 1 bt.toNat) } := by
  have hmr := mr.isLt
  have hmo := mo.isLt
  simp only [clampedTuning, clamp, Nat.zero_max, Tuning.mk.injEq, true_and, and_true]
  omega

/-- Stop permission reads of a record written in the same slot its button hold alone (R56, R81). -/
theorem judged_setLoad {authority : Nat} (hl : s.load n = some r) (hb : r'.buttonHold = r.buttonHold) {x : LoadRecord}
    (h : (s.setLoad n r').Judged authority n r' x) : s.Judged authority n r' x := by
  have hk : (s.setLoad n r').keepRunLevels n = s.keepRunLevels n := by
    simp [State.keepRunLevels, State.holdsOn, hl, hb]
  unfold State.Judged at h ⊢
  rwa [hk] at h

/-- The record that TUNE LOAD writes. -/
def LoadRecord.tuneTo (r : LoadRecord) (f : Fin 8) (w : Nat) (x : Tuning) : LoadRecord := { r with feeder := f, weight := w, tuning := x }

theorem tuneWork_due (h : r.state = .due) (hm : r'.tuning.minimumRun ≠ r.tuning.minimumRun) : tuneWork n r r' = [.evaluate n] := by
  simp [tuneWork, h, hm.symm]

theorem tuneWork_queued (h : r.state = .queued)
    (hm : r'.tuning.minimumOff ≠ r.tuning.minimumOff ∨ r'.feeder ≠ r.feeder ∨ r'.weight ≠ r.weight) :
    tuneWork n r r' = [.examine] := by
  have hm : r.tuning.minimumOff ≠ r'.tuning.minimumOff ∨ r.feeder ≠ r'.feeder ∨ r.weight ≠ r'.weight := by
    simpa only [ne_comm] using hm
  simp [tuneWork, h, hm]

theorem tuneWork_nil (h1 : r.state ≠ .due ∨ r'.tuning.minimumRun = r.tuning.minimumRun)
    (h2 : r.state ≠ .queued ∨ (r'.tuning.minimumOff = r.tuning.minimumOff ∧ r'.feeder = r.feeder ∧ r'.weight = r.weight)) :
    tuneWork n r r' = [] := by
  unfold tuneWork
  rw [if_neg, if_neg, List.nil_append]
  · rintro ⟨hq, hm⟩
    obtain ⟨e1, e2, e3⟩ := h2.resolve_left (fun h => h hq)
    simp [e1, e2, e3] at hm
  · rintro ⟨hd, hm⟩
    exact hm (h1.resolve_left (fun h => h hd)).symm

theorem tuneWork_plain : ∀ w ∈ tuneWork n r r', w.plain := by
  intro w hw
  unfold tuneWork at hw
  rcases List.mem_append.mp hw with hw | hw <;> split at hw <;>
    simp only [List.mem_singleton, List.not_mem_nil] at hw <;> subst hw <;> trivial

/-- What a TUNE LOAD that is taken leaves: the write calls for nothing but the evaluation or the examination that R12 names. -/
theorem settle_tune (hc : Canonical s) (hl : s.load n = some r) (f : Fin 8) (w : Nat) (x : Tuning) {r1 : LoadRecord}
    (h1 : r1 = r.tuneTo f w x) :
    ∃ r', (s.settle (s.setLoad n r1) (tuneWork n r r1)).load n = some r' ∧ HandedOn s.timeBase r1 r'
      ∧ (r.state = .due → r1.tuning.minimumRun ≠ r.tuning.minimumRun →
        s.Judged s.authority n r1 r' ∧ (s.setLoad n r1).Evaluated n r1 r')
      ∧ (r.state = .queued → (r1.tuning.minimumOff ≠ r.tuning.minimumOff ∨ r1.feeder ≠ r.feeder ∨ r1.weight ≠ r.weight) →
        s.groups = [] ∨ (s.setLoad n r1).examine.queue.length = s.queue.length →
          s.settle (s.setLoad n r1) (tuneWork n r r1) = (s.setLoad n r1).examine)
      ∧ ((r.state ≠ .due ∨ r1.tuning.minimumRun = r.tuning.minimumRun) →
        (r.state ≠ .queued ∨ (r1.tuning.minimumOff = r.tuning.minimumOff ∧ r1.feeder = r.feeder ∧ r1.weight = r.weight)) →
          s.settle (s.setLoad n r1) (tuneWork n r r1) = s.setLoad n r1) := by
  have hh : handoffs s (s.setLoad n r1) = [] := by subst h1; exact handoffs_setLoad hc.loads hl rfl rfl rfl rfl rfl rfl
  have hb : r1.buttonHold = r.buttonHold := by subst h1; rfl
  have hst : r1.state = r.state := by subst h1; rfl
  have hcu : Table.Canonical 240 (s.setLoad n r1).loads := Table.canonical_put hc.loads (Table.lt_of_find hc.loads hl) r1
  have hlu : (s.setLoad n r1).load n = some r1 := by simp
  obtain ⟨r', hr', hho⟩ :=
    (settle_quiet (s0 := s) (s1 := s.setLoad n r1) (work := tuneWork n r r1) tuneWork_plain).record hcu n r1 hlu
  refine ⟨r', hr', hho, fun hd hm => ?_, fun hq hm hg => ?_, fun hd hq => ?_⟩
  · rw [tuneWork_due hd hm] at hr'
    obtain ⟨r'', h6, he, hj⟩ := settle_evaluate hcu hh hlu (hst.trans hd)
    obtain rfl := Option.some.inj (hr'.symm.trans h6)
    exact ⟨judged_setLoad hl hb hj, he⟩
  · rw [tuneWork_queued hq hm, settle_examine hcu hh hg]
  · rw [tuneWork_nil hd hq, settle_nil hh]

theorem tuneLoad_bad_iff (n feeder weight : Byte) (tl th : Nat) :
    (badLoad n || decide (7 < feeder.toNat) || badWeight weight || decide (th ≤ tl)) = true
      ↔ 239 < n.toNat ∨ 7 < feeder.toNat ∨ weight = 0 ∨ 15 < weight.toNat ∨ th ≤ tl := by
  simp only [Bool.or_eq_true, badLoad_eq_true, badWeight_eq_true, decide_eq_true_eq, or_assoc]

/-- Settles O13: the write calls for nothing but the evaluation or the examination that R12 names. -/
theorem tuneLoadClampsAndWrites : Obligations.TuneLoadClampsAndWrites := by
  unfold Obligations.TuneLoadClampsAndWrites
  intro s n feeder weight tlh tll thh thl k sw cf idh idl mr mo svh svl tvh tvl bt hc hs
  have hp := hs.commandParams (by decide) (by simp)
  have hexec : exec .tuneLoad s = .next (s.runCommand 0x11 tuneLoad) := rfl
  rw [hexec]
  have hbad := tuneLoad_bad_iff n feeder weight (word16 tlh tll) (word16 thh thl)
  refine ⟨fun h => ?_, fun h1 h2 h3 h4 h5 => ?_⟩
  · have hb := hbad.mpr h
    rw [runCommand_refused hp hc (c := .badValue) (by simp [tuneLoad, hb])]
  have hb := Bool.eq_false_iff.mpr (mt hbad.mp (by push Not; exact ⟨h1, h2, h3, h4, h5⟩))
  have hval := feederOf_val h2
  have hfeeder : ∀ f : Fin 8, f = feederOf feeder ↔ f.val = feeder.toNat := fun f => by rw [Fin.ext_iff, hval]
  refine ⟨fun hl => ?_, fun r hl => ⟨fun hst hne => ?_, fun hok => ?_⟩⟩
  · rw [runCommand_refused hp hc (c := .noSuch) (by simp [tuneLoad, hb, hl])]
  · have hne' : r.feeder ≠ feederOf feeder ∨ r.weight ≠ weight.toNat := hne.imp_left (mt (hfeeder _).mp)
    rw [runCommand_refused hp hc (c := .wrongState) (by simp [tuneLoad, hb, hl, hst, hne'])]
  have hok' : ¬ (r.state = .starting ∧ (r.feeder ≠ feederOf feeder ∨ r.weight ≠ weight.toNat)) := by
    rintro ⟨a, b⟩
    obtain ⟨c, d⟩ := hok.resolve_left (fun h => h a)
    exact b.elim (fun h => h ((hfeeder _).mpr c)) (fun h => h d)
  obtain ⟨r1, h1'⟩ : ∃ r1, r1 = r.tuneTo (feederOf feeder) weight.toNat
      (clampedTuning (word16 tlh tll) (word16 thh thl) k sw cf (word16 idh idl) mr mo (word16 svh svl) (word16 tvh tvl) bt) := ⟨_, rfl⟩
  have ht := runCommand_taken (body := tuneLoad) hp (t := s.setLoad n.toNat r1) (work := tuneWork n.toNat r r1)
    (by simp [tuneLoad, hb, hl, hok', h1', LoadRecord.tuneTo])
  obtain ⟨r', hr', hho, hdue, hqueued, helse⟩ := settle_tune hc hl _ _ _ h1'
  rw [ht]
  have hf1 : r1.feeder.val = feeder.toNat := by rw [h1']; exact hval
  refine ⟨_, r1, r', rfl, hr', hho, hf1, ?_, rfl, rfl, hdue, fun hq hm x hx hg => ?_, fun hd hq => ?_⟩
  · rw [clampedTuning_eq] at h1'
    rw [h1']; rfl
  · subst hx
    rw [hqueued hq hm hg]
  · rw [helse hd hq]

end Sys2Proof.Machine
end

section
/-! SUPPORT. LINK LOAD and PLAN LOAD: the checks of R13 and R15. -/

namespace Sys2Proof.Machine

variable {s t u : State} {n m : Nat} {r r' : LoadRecord}

/-! ### What the bytes of LINK LOAD name -/

/-- The group that a group byte names, if it names one (section 1.5). -/
def groupNamed (b : Byte) : Option Nat := if b = 255 then none else some b.toNat

theorem mem_groupNamed {b : Byte} {g : Nat} : g ∈ (groupNamed b).toList ↔ b ≠ 255 ∧ b.toNat = g := by
  unfold groupNamed; split <;> simp_all [eq_comm]

theorem providesOf_eq (g k c : Byte) :
    providesOf g k c = if g = 255 then none else some { group := g.toNat, rank := k.toNat, capacity := c.toNat } := by
  simp [providesOf, absent]

theorem drawsOf_eq (g d : Byte) : drawsOf g d = if g = 255 then none else some { group := g.toNat, demand := d.toNat } := by
  simp [drawsOf, absent]

@[simp] theorem providesOf_group (g k c : Byte) : (providesOf g k c).map (·.group) = groupNamed g := by
  rw [providesOf_eq]; unfold groupNamed; split <;> rfl

@[simp] theorem drawsOf_group (g d : Byte) : (drawsOf g d).map (·.group) = groupNamed g := by
  rw [drawsOf_eq]; unfold groupNamed; split <;> rfl

/-- R13 step 4: a present link names a group that is not defined. -/
theorem undefined_iff (s : State) (pg pr pc ag ad bg bd : Byte) :
    (namedGroups (providesOf pg pr pc) (drawsOf ag ad) (drawsOf bg bd)).any (fun g => (s.group g).isNone) = true
      ↔ ∃ g : Byte, (g = pg ∨ g = ag ∨ g = bg) ∧ g ≠ 255 ∧ s.group g.toNat = none := by
  simp only [namedGroups, providesOf_group, drawsOf_group, List.any_append, Bool.or_eq_true, List.any_eq_true, mem_groupNamed,
    Option.isNone_iff_eq_none]
  constructor
  · rintro ((⟨g, ⟨h1, rfl⟩, h2⟩ | ⟨g, ⟨h1, rfl⟩, h2⟩) | ⟨g, ⟨h1, rfl⟩, h2⟩)
    · exact ⟨pg, .inl rfl, h1, h2⟩
    · exact ⟨ag, .inr (.inl rfl), h1, h2⟩
    · exact ⟨bg, .inr (.inr rfl), h1, h2⟩
  · rintro ⟨g, rfl | rfl | rfl, h1, h2⟩
    · exact .inl (.inl ⟨_, ⟨h1, rfl⟩, h2⟩)
    · exact .inl (.inr ⟨_, ⟨h1, rfl⟩, h2⟩)
    · exact .inr ⟨_, ⟨h1, rfl⟩, h2⟩

theorem groupNamed_eq_iff (a b : Byte) : groupNamed a = groupNamed b ↔ a = b := by
  unfold groupNamed
  by_cases ha : a = 255 <;> by_cases hb : b = 255
  · rw [if_pos ha, if_pos hb, ha, hb]; simp
  · rw [if_pos ha, if_neg hb, ha]; simpa [eq_comm] using hb
  · rw [if_neg ha, if_pos hb, hb]; simpa using ha
  · rw [if_neg ha, if_neg hb, Option.some.injEq, BitVec.toNat_inj]

/-- R13 step 6. -/
theorem linksClash_iff (pg pr pc ag ad bg bd : Byte) :
    linksClash (providesOf pg pr pc) (drawsOf ag ad) (drawsOf bg bd) = true
      ↔ (ag ≠ 255 ∧ ag = bg) ∨ (pg ≠ 255 ∧ (pg = ag ∨ pg = bg)) := by
  have ha : (drawsOf ag ad).isSome = true ↔ ag ≠ 255 := by rw [drawsOf_eq]; split <;> simp_all
  have hp : (providesOf pg pr pc).isSome = true ↔ pg ≠ 255 := by rw [providesOf_eq]; split <;> simp_all
  simp only [linksClash, Bool.or_eq_true, Bool.and_eq_true, providesOf_group, drawsOf_group, beq_iff_eq, groupNamed_eq_iff, ha, hp]

theorem linkLoad_bad_iff (n pg pr pc ag ad bg bd : Byte) :
    (badLoad n || badGroupByte pg || badGroupByte ag || badGroupByte bg
        || (!absent pg && (decide (5 < pr.toNat) || pc == 0)) || (!absent ag && ad == 0) || (!absent bg && bd == 0)) = true
      ↔ 239 < n.toNat ∨ (15 < pg.toNat ∧ pg ≠ 255) ∨ (15 < ag.toNat ∧ ag ≠ 255) ∨ (15 < bg.toNat ∧ bg ≠ 255)
        ∨ (pg ≠ 255 ∧ (5 < pr.toNat ∨ pc = 0)) ∨ (ag ≠ 255 ∧ ad = 0) ∨ (bg ≠ 255 ∧ bd = 0) := by
  have hg : ∀ b : Byte, badGroupByte b = true ↔ 15 < b.toNat ∧ b ≠ 255 := fun b => by simp [badGroupByte, absent]
  have hx : ∀ b : Byte, (!absent b) = true ↔ b ≠ 255 := fun b => by simp [absent]
  simp only [Bool.or_eq_true, Bool.and_eq_true, badLoad_eq_true, hg, hx, decide_eq_true_eq, beq_iff_eq, or_assoc]

/-- A provider of group `g` other than load `n` of this rank (R13 step 8). -/
theorem otherProviders_rank (hc : Canonical s) (g n k : Nat) :
    (s.otherProviders g n).any (fun q => q.rank == k) = true
      ↔ ∃ m rm pm, m ≠ n ∧ s.load m = some rm ∧ rm.provides = some pm ∧ pm.group = g ∧ pm.rank = k := by
  simp only [State.otherProviders, List.any_filter, List.any_eq_true, Bool.and_eq_true, bne_iff_ne, beq_iff_eq]
  constructor
  · rintro ⟨q, hq, h1, h2⟩
    obtain ⟨rm, pm, h3, h4, h5, h6, -⟩ := provider_record hc.loads hq
    exact ⟨q.load, rm, pm, h1, h3, h4, h5, h6 ▸ h2⟩
  · rintro ⟨m, rm, pm, h1, h2, h3, h4, h5⟩
    refine ⟨{ load := m, rank := pm.rank, capacity := pm.capacity, state := rm.state, supplying := rm.supplies },
      List.mem_filterMap.mpr ⟨(m, rm), Table.mem_of_find h2, ?_⟩, h1, h5⟩
    simp [LoadRecord.providesTo, h3, h4]

/-! ### PLAN LOAD -/

theorem planLoad_bad_iff (n plan ordinal : Byte) :
    (badLoad n || (!absent plan && (decide (3 < plan.toNat) || decide (63 < ordinal.toNat)))) = true
      ↔ 239 < n.toNat ∨ (plan ≠ 255 ∧ (3 < plan.toNat ∨ 63 < ordinal.toNat)) := by
  simp [badLoad, absent]

/-- PLAN LOAD writes the membership, which calls for nothing (R15). -/
theorem planLoad_answers (hc : Canonical s) (n plan ordinal : Byte) (hs : s.Sent 0x13 [n, plan, ordinal]) :
    (239 < n.toNat ∨ (plan ≠ 255 ∧ (3 < plan.toNat ∨ 63 < ordinal.toNat)) →
      exec .planLoad s = .next (s.respond .badValue []))
    ∧ (n.toNat ≤ 239 → (plan = 255 ∨ (plan.toNat ≤ 3 ∧ ordinal.toNat ≤ 63)) →
      (s.load n.toNat = none → exec .planLoad s = .next (s.respond .noSuch []))
      ∧ ∀ r, s.load n.toNat = some r →
        (r.state = .retiring → exec .planLoad s = .next (s.respond .wrongState []))
        ∧ (r.state ≠ .retiring →
          exec .planLoad s = .next ((s.setLoad n.toNat { r with
            membership :=
              if plan = 255 then none else some { plan := plan.toNat, ordinal := ordinal.toNat } }).respond .done []))) := by
  have hp := hs.commandParams (by decide) (by simp)
  have hexec : exec .planLoad s = .next (s.runCommand 0x13 planLoad) := rfl
  rw [hexec]
  refine ⟨fun h => ?_, fun h1 h2 => ?_⟩
  · have hb := (planLoad_bad_iff n plan ordinal).mpr h
    rw [runCommand_refused hp hc (c := .badValue) (by simp [planLoad, hb])]
  have hb := Bool.eq_false_iff.mpr (mt (planLoad_bad_iff n plan ordinal).mp (by
    rintro (h | ⟨h, h'⟩)
    · omega
    · obtain ⟨h3, h4⟩ := h2.resolve_left h
      omega))
  refine ⟨fun hl => ?_, fun r hl => ⟨fun hst => ?_, fun hst => ?_⟩⟩
  · rw [runCommand_refused hp hc (c := .noSuch) (by simp [planLoad, hb, hl])]
  · rw [runCommand_refused hp hc (c := .wrongState) (by simp [planLoad, hb, hl, hst])]
  · obtain ⟨r1, h1⟩ : ∃ r1 : LoadRecord, r1 = { r with
      membership := if plan = 255 then none else some { plan := plan.toNat, ordinal := ordinal.toNat } } := ⟨_, rfl⟩
    have hh : handoffs s (s.setLoad n.toNat r1) = [] := by
      subst h1; exact handoffs_setLoad hc.loads hl rfl rfl rfl rfl rfl rfl
    have ht := runCommand_taken (body := planLoad) hp (work := []) (t := s.setLoad n.toNat r1) (by
      simp only [planLoad, hb, hl, if_neg hst, Bool.false_eq_true, if_false, h1]
      simp only [absent, beq_iff_eq])
    rw [ht, settle_nil hh, h1]

end Sys2Proof.Machine
end

section
/-! SUPPORT. What plain hand-offs do to stop permission: no group's headroom grows and no stop ends, so a condition of R56 that fails is
still found failing (R110). -/

namespace Sys2Proof.Machine

variable {s t u v : State} {n m : Nat} {r r' : LoadRecord}

/-! ### Two tables with the same numbers -/

theorem mem_keys_iff {α : Type} {t : Table α} {n : Nat} : n ∈ t.map Prod.fst ↔ Table.find t n ≠ none := by
  induction t with
  | nil => simp
  | cons e rest ih =>
    obtain ⟨k, a⟩ := e
    by_cases h : k = n
    · simp [Table.find, h]
    · have h' : ¬ n = k := fun x => h x.symm
      simpa [Table.find, h, h'] using ih

/-- Tables in canonical form with the same numbers stand entry by entry against each other. -/
theorem forall₂_of_find {α : Type} {b : Nat} {R : α → α → Prop} {t t' : Table α} (ht : Table.Canonical b t) (ht' : Table.Canonical b t')
    (h : ∀ n a, Table.find t n = some a → ∃ a', Table.find t' n = some a' ∧ R a a')
    (h0 : ∀ n, Table.find t n = none → Table.find t' n = none) : List.Forall₂ (fun e e' => R e.2 e'.2) t t' := by
  have hkeys : t.map Prod.fst = t'.map Prod.fst := by
    refine List.Perm.eq_of_pairwise' ht.1 ht'.1 ((List.perm_ext_iff_of_nodup ht.1.nodup ht'.1.nodup).mpr (fun n => ?_))
    rw [mem_keys_iff, mem_keys_iff]
    refine ⟨fun hn => ?_, mt (h0 n)⟩
    obtain ⟨a, ha⟩ := Option.ne_none_iff_exists'.mp hn
    obtain ⟨a', ha', -⟩ := h n a ha
    simp [ha']
  have hfst : List.Forall₂ (fun (e e' : Nat × α) => e.1 = e'.1) t t' := by
    rw [← List.forall₂_eq_eq_eq, List.forall₂_map_left_iff, List.forall₂_map_right_iff] at hkeys
    exact hkeys
  rw [List.forall₂_iff_zip] at hfst ⊢
  refine ⟨hfst.1, fun {e e'} he => ?_⟩
  obtain ⟨hm, hm'⟩ := List.of_mem_zip he
  obtain ⟨a', ha', hr⟩ := h e.1 e.2 (Table.find_of_mem ht hm)
  have hx := Table.find_of_mem ht' hm'
  rw [← hfst.2 he, ha', Option.some.injEq] at hx
  exact hx ▸ hr

/-! ### Demand and capacity -/

/-- What a record adds to the demand of group `g` (R107). -/
def LoadRecord.demandOf (r : LoadRecord) (g : Nat) : Nat := if r.draws = true then (r.demandOn g).getD 0 else 0

/-- What a record adds to the capacity of group `g` (R108). -/
def LoadRecord.capacityOf (r : LoadRecord) (g : Nat) : Nat :=
  if r.supplies = true then ((r.providesTo g).map (·.capacity)).getD 0 else 0

theorem demand_eq_sum (s : State) (g : Nat) : s.demand g = (s.loads.map (fun e => e.2.demandOf g)).sum := by
  unfold State.demand State.consumers
  induction s.loads with
  | nil => rfl
  | cons e rest ih =>
    cases hd : e.2.demandOn g with
    | none => simpa [hd, LoadRecord.demandOf] using ih
    | some d => cases hdr : e.2.draws <;> simpa [hd, hdr, LoadRecord.demandOf] using ih

theorem capacity_eq_sum (s : State) (g : Nat) : s.capacity g = (s.loads.map (fun e => e.2.capacityOf g)).sum := by
  unfold State.capacity State.providersByLoad
  induction s.loads with
  | nil => rfl
  | cons e rest ih =>
    cases hp : e.2.providesTo g with
    | none => simpa [hp, LoadRecord.capacityOf] using ih
    | some p => cases hs : e.2.supplies <;> simpa [hp, hs, LoadRecord.capacityOf] using ih

/-- What a hand-off leaves of a record: its links, its hold, its times and its request while DUE. -/
theorem HandedOn.same {now : Nat} (h : HandedOn now r r') :
    r'.links = r.links ∧ r'.lastRun = r.lastRun ∧ r'.buttonHold = r.buttonHold ∧ r'.isolatorHold = r.isolatorHold := by
  rcases h with rfl | ⟨-, ⟨b, rfl⟩ | rfl⟩ | ⟨-, -, rfl | rfl⟩ | ⟨-, rfl⟩ <;> exact ⟨rfl, rfl, rfl, rfl⟩

theorem HandedOn.state {now : Nat} (h : HandedOn now r r') :
    r'.state = r.state ∨ (r.state = .due ∧ r'.state = .stopping)
      ∨ ((r.state = .stopped ∨ r.state = .queued) ∧ (r'.state = .queued ∨ r'.state = .starting)) := by
  rcases h with rfl | ⟨h, ⟨b, rfl⟩ | rfl⟩ | ⟨h, -, rfl | rfl⟩ | ⟨h, rfl⟩
  · exact .inl rfl
  · exact .inl rfl
  · exact .inr (.inl ⟨h, rfl⟩)
  · exact .inr (.inr ⟨.inl h, .inl rfl⟩)
  · exact .inr (.inr ⟨.inl h, .inr rfl⟩)
  · exact .inr (.inr ⟨.inr h, .inr rfl⟩)

/-- No hand-off lowers what a record draws or raises what it supplies (R107, R108). -/
theorem HandedOn.supply {now : Nat} (h : HandedOn now r r') (g : Nat) :
    r.demandOf g ≤ r'.demandOf g ∧ r'.capacityOf g ≤ r.capacityOf g := by
  obtain ⟨hlinks, hlast, -⟩ := h.same
  simp only [LoadRecord.links, Prod.mk.injEq] at hlinks
  obtain ⟨hp, ha, hb⟩ := hlinks
  have hd : r'.demandOn g = r.demandOn g := by unfold LoadRecord.demandOn; rw [ha, hb]
  have hs : r'.providesTo g = r.providesTo g := by unfold LoadRecord.providesTo; rw [hp]
  unfold LoadRecord.demandOf LoadRecord.capacityOf LoadRecord.draws LoadRecord.supplies
  rw [hd, hs, hlast]
  rcases h.state with e | ⟨e, e'⟩ | ⟨e | e, e' | e'⟩
  · rw [e]; exact ⟨le_rfl, le_rfl⟩
  all_goals rw [e, e']; simp

/-! ### Permission after hand-offs -/

theorem Quiet.forall₂ (h : Quiet u v) (hc : Table.Canonical 240 u.loads) :
    List.Forall₂ (fun e e' => HandedOn u.timeBase e.2 e'.2) u.loads v.loads :=
  forall₂_of_find hc (h.canonical hc) (h.record hc) h.vacant

/-- No hand-off raises a group's headroom (R109, R110). -/
theorem Quiet.supply (h : Quiet u v) (hc : Table.Canonical 240 u.loads) (g : Nat) :
    u.required g ≤ v.required g ∧ v.capacity g ≤ u.capacity g := by
  have hf := h.forall₂ hc
  have hd : u.demand g ≤ v.demand g := by
    rw [demand_eq_sum, demand_eq_sum]
    refine List.Forall₂.sum_le_sum ?_
    rw [List.forall₂_map_left_iff, List.forall₂_map_right_iff]
    exact hf.imp (fun _ _ hr => (HandedOn.supply hr g).1)
  have hcap : v.capacity g ≤ u.capacity g := by
    rw [capacity_eq_sum, capacity_eq_sum]
    refine List.Forall₂.sum_le_sum ?_
    rw [List.forall₂_map_left_iff, List.forall₂_map_right_iff]
    exact hf.flip.imp (fun _ _ hr => (HandedOn.supply hr g).2)
  have hm : v.margin g = u.margin g := by
    have := h.margin g
    unfold State.margin
    cases hu : u.group g <;> cases hv : v.group g <;> simp_all
  refine ⟨?_, hcap⟩
  unfold State.required raisedDemand
  rw [hm]
  exact Nat.div_le_div_right (Nat.add_le_add_right (Nat.mul_le_mul_right _ hd) _)

theorem Quiet.spared (h : Quiet u v) (hc : Table.Canonical 240 u.loads) (hs : v.spared r = true) : u.spared r = true := by
  unfold State.spared at hs ⊢
  split
  · rfl
  · rename_i p hp
    simp only [hp, decide_eq_true_eq] at hs ⊢
    have := h.supply hc p.group
    omega

/-- A stop that another provider has begun is not ended by a hand-off (R57, R112). -/
theorem Quiet.otherStopping (h : Quiet u v) (hc : Table.Canonical 240 u.loads) (hs : u.otherStopping n r = true) :
    v.otherStopping n r = true := by
  unfold State.otherStopping at hs ⊢
  split at hs
  · simp at hs
  · rename_i p hp
    simp only [List.any_eq_true, Bool.and_eq_true, bne_iff_ne, beq_iff_eq] at hs ⊢
    obtain ⟨q, hq, hne, hst⟩ := hs
    obtain ⟨rm, pm, h1, h2, h3, -, -, h4⟩ := provider_record hc hq
    obtain ⟨rm', h5, h6⟩ := h.record hc _ _ h1
    have hrm : rm.state = .stopping := h4 ▸ hst
    rw [h6.still (by simp [hrm]) (by simp [hrm]) (.inl (by simp [hrm]))] at h5
    refine ⟨{ load := q.load, rank := pm.rank, capacity := pm.capacity, state := rm.state, supplying := rm.supplies },
      List.mem_filterMap.mpr ⟨(q.load, rm), Table.mem_of_find h5, ?_⟩, hne, hrm⟩
    simp [LoadRecord.providesTo, h2, h3]

theorem Quiet.keepRunLevels (h : Quiet u v) (hc : Table.Canonical 240 u.loads) (n : Nat) : v.keepRunLevels n = u.keepRunLevels n := by
  obtain ⟨-, -, -, -, -, -, -, -, -, -, -, hh, -⟩ := frozen_field h.frozen
  unfold State.keepRunLevels State.holdsOn
  rw [hh]
  cases hl : u.load n with
  | none => rw [h.vacant n hl]
  | some x =>
    obtain ⟨x', hx', ho⟩ := h.record hc n x hl
    obtain ⟨-, -, hb, -⟩ := ho.same
    rw [hx']
    dsimp only
    rw [hb]

/-- R56: a condition that fails is still found failing after hand-offs, and of those that were met only a provider's own two may have
come to fail. -/
theorem Quiet.permission (h : Quiet u v) (hc : Table.Canonical 240 u.loads) :
    v.permission n r = u.permission n r
      ∨ ((u.permission n r = .none ∨ u.permission n r = .pacing) ∧ r.provides ≠ none
        ∧ (v.permission n r = .supply ∨ v.permission n r = .pacing)) := by
  have hE : v.effectiveAuthority r = u.effectiveAuthority r := by unfold State.effectiveAuthority; rw [h.authority]
  have hk := h.keepRunLevels hc n
  have ht := h.timeBase
  have provider : ∀ w : State, w.spared r = false ∨ w.otherStopping n r = true → r.provides ≠ none := fun w hw hp => by
    simp [State.spared, State.otherStopping, hp] at hw
  unfold State.permission
  rw [hE, hk, ht]
  split
  · exact .inl rfl
  split
  · exact .inl rfl
  split
  · exact .inl rfl
  cases hsv : v.spared r with
  | false =>
    cases hsu : u.spared r with
    | false => exact .inl rfl
    | true =>
      refine .inr ⟨?_, provider v (.inl hsv), .inl rfl⟩
      simp only [Bool.true_eq_false, if_false]
      split <;> simp
  | true =>
    rw [h.spared hc hsv]
    cases hou : u.otherStopping n r with
    | true => rw [h.otherStopping hc hou]; exact .inl rfl
    | false =>
      cases hov : v.otherStopping n r with
      | false => exact .inl rfl
      | true => exact .inr ⟨.inl rfl, provider v (.inr hov), .inr rfl⟩

end Sys2Proof.Machine
end

section
/-! SUPPORT. The plain hand-offs one at a time: what each can do, a record whose evaluation waits is evaluated, and what becomes of the
failed-raise sets (R57, R114 to R117). -/

namespace Sys2Proof.Machine

variable {s t u v b : State} {n m g : Nat} {r r' r1 x : LoadRecord} {w : Work}

/-! ### What each plain hand-off can do -/

theorem evaluate_cases (s : State) (n : Nat) :
    s.evaluate n = s
      ∨ ∃ r, s.load n = some r ∧ r.state = .due
        ∧ (s.evaluate n = s.moveTo n .stopping none ∨ s.evaluate n = s.setLoad n { r with blockReason := s.permission n r }) := by
  unfold State.evaluate
  split
  · exact .inl rfl
  · rename_i r hl
    split
    · rename_i hd
      refine .inr ⟨r, hl, hd, ?_⟩
      split
      · exact .inl rfl
      · exact .inr rfl
    · exact .inl rfl

theorem testGroup_cases (s : State) (g : Nat) :
    s.testGroup g = s
      ∨ (∃ p, s.stateOf p = some .stopped
        ∧ s.testGroup g = (s.enqueue p .supply).modifyGroup g (fun y => { y with state := .raising p }))
      ∨ s.testGroup g = s.modifyGroup g (fun y => { y with state := .short })
      ∨ s.testGroup g = s.modifyGroup g (fun y => { y with state := .normal, failed := [] }) := by
  unfold State.testGroup
  split
  · exact .inl rfl
  · rename_i x hx
    split
    · exact .inl rfl
    all_goals
      split
      · split
        · exact .inr (.inr (.inl rfl))
        · rename_i p hp
          split
          · rename_i ho; exact .inr (.inl ⟨p, (startOffer_entered ho).1, rfl⟩)
          · exact .inr (.inr (.inl rfl))
          · exact .inr (.inr (.inl rfl))
      · exact .inr (.inr (.inr rfl))

theorem examineEntry_cases (s : State) (e : Entry) :
    s.examineEntry e = s
      ∨ (∃ r, s.load e.load = some r ∧ r.state = .queued ∧ s.examineEntry e = s.moveTo e.load .starting none)
      ∨ ∃ w, s.examineEntry e = s.setReason e.load w := by
  unfold State.examineEntry
  split
  · exact .inl rfl
  · rename_i r hl
    split
    · rename_i hq
      split
      · exact .inr (.inl ⟨r, hl, hq, rfl⟩)
      · exact .inr (.inr ⟨_, rfl⟩)
    · exact .inl rfl

theorem modifyGroup_load (s : State) (g : Nat) (f : Group → Group) (m : Nat) : (s.modifyGroup g f).load m = s.load m :=
  load_modifyGroup s g f m

/-- A plain hand-off other than its own evaluation leaves a record that is neither STOPPED nor QUEUED as it is. -/
theorem run_load_still (hw : w.plain) (hne : w ≠ .evaluate n ∨ s.stateOf n ≠ some .due) (h1 : s.stateOf n ≠ some .stopped)
    (h2 : s.stateOf n ≠ some .queued) : (w.run s).1.load n = s.load n := by
  cases w with
  | evaluate m =>
    show (s.evaluate m).load n = s.load n
    by_cases hm : n = m
    · subst hm
      rcases evaluate_cases s n with e | ⟨r, hl, hd, -⟩
      · rw [e]
      · exact absurd (stateOf_eq.mpr ⟨r, hl, hd⟩) (hne.resolve_left (fun h => h rfl))
    · exact evaluate_load_ne hm
  | testGroup g =>
    show (s.testGroup g).load n = s.load n
    rcases testGroup_cases s g with e | ⟨p, hp, e⟩ | e | e <;> rw [e]
    · rw [modifyGroup_load]
      exact enqueue_load_ne _ (fun h => h1 (h ▸ hp))
    all_goals exact modifyGroup_load _ _ _ _
  | examine =>
    show s.examine.load n = s.load n
    have key : ∀ (q : List Entry) (t : State), t.load n = s.load n → (q.foldl State.examineEntry t).load n = s.load n := by
      intro q
      induction q with
      | nil => exact fun _ h => h
      | cons e rest ih =>
        refine fun t ht => ih _ ?_
        rcases examineEntry_cases t e with h | ⟨r, hl, hq, h⟩ | ⟨w, h⟩ <;> rw [h]
        · exact ht
        · refine (moveTo_load_ne (fun hh => h2 ?_)).trans ht
          subst hh
          exact stateOf_eq.mpr ⟨r, ht ▸ hl, hq⟩
        · exact ht
    exact key s.queue s rfl
  | recompute => exact absurd hw (by simp [Work.plain])
  | periodEnd _ => exact absurd hw (by simp [Work.plain])
  | activate _ => exact absurd hw (by simp [Work.plain])
  | offer _ => exact absurd hw (by simp [Work.plain])

theorem Quiet.run (h : Quiet u s) (hw : w.plain) : Quiet u (w.run s).1 := by
  cases w with
  | evaluate m => exact h.evaluate m
  | testGroup g => exact h.testGroup g
  | examine =>
    show Quiet u s.examine
    unfold State.examine
    generalize s.queue = q
    induction q generalizing s with
    | nil => exact h
    | cons e rest ih => exact ih (h.examineEntry e)
  | recompute => exact absurd hw (by simp [Work.plain])
  | periodEnd _ => exact absurd hw (by simp [Work.plain])
  | activate _ => exact absurd hw (by simp [Work.plain])
  | offer _ => exact absurd hw (by simp [Work.plain])

theorem run_leaves_plain (hw : w.plain) (s : State) : ∀ y ∈ (w.run s).2 ++ handoffs s (w.run s).1, y.plain := fun y hy => by
  rw [run_plain_work hw, List.nil_append] at hy
  exact handoffs_plain _ _ y hy

/-! ### A waiting evaluation is taken -/

theorem mem_addWork_of {waiting new : List Work} (h : w ∈ waiting ∨ w ∈ new) : w ∈ addWork waiting new := by
  unfold addWork
  induction new generalizing waiting with
  | nil => exact h.resolve_right (by simp)
  | cons y rest ih =>
    refine ih ?_
    rcases h with h | h
    · left; dsimp only; split
      · exact h
      · exact List.mem_append_left _ h
    · rcases List.mem_cons.mp h with rfl | h
      · left; dsimp only; split
        · rename_i hc; simpa using hc
        · simp
      · exact .inr h

theorem choose_rest (s : State) (w : Work) (rest : List Work) :
    ∀ y ∈ w :: rest, y = (s.choose w rest).1 ∨ y ∈ (s.choose w rest).2.1 := by
  unfold State.choose
  cases rest with
  | nil => intro y hy; exact .inl (List.mem_singleton.mp hy)
  | cons z rest' =>
    intro y hy
    have hi : Config.pick s.choices ((z :: rest').length + 1) % ((z :: rest').length + 1) < (w :: z :: rest').length :=
      Nat.mod_lt _ (by simp)
    have hp := (List.getElem_cons_eraseIdx_perm hi).mem_iff.mpr hy
    simp only [List.getD_eq_getElem?_getD, List.getElem?_eq_getElem hi, Option.getD_some]
    exact List.mem_cons.mp hp

/-- Where the evaluation of load `n` waits, and it takes every state of `W` to one of `D`, which hand-offs keep, the hand-offs of the
step end in `D`. -/
structure Evaluates (n : Nat) (W D : State → Prop) : Prop where
  choiceW : ∀ s k, W s → W { s with choices := k }
  choiceD : ∀ s k, D s → D { s with choices := k }
  keepW : ∀ (w : Work) (s : State), w.plain → w ≠ .evaluate n → W s → W (w.run s).1
  turn : ∀ s, W s → D (s.evaluate n)
  keepD : ∀ (w : Work) (s : State), w.plain → D s → D (w.run s).1
  due : ∀ s, W s → s.stateOf n = some .due

variable {W D : State → Prop}

theorem Evaluates.either (h : Evaluates n W D) (hw : w.plain) (hs : D s ∨ W s) : D (w.run s).1 ∨ W (w.run s).1 := by
  rcases hs with hs | hs
  · exact .inl (h.keepD w s hw hs)
  · by_cases hn : w = .evaluate n
    · subst hn; exact .inl (h.turn s hs)
    · exact .inr (h.keepW w s hw hn hs)

/-- Taking a plain hand-off at the bound, with the evaluations it leaves. -/
theorem Evaluates.finish (h : Evaluates n W D) (hw : w.plain) (hs : D s ∨ W s) :
    (D (w.finish s) ∨ W (w.finish s)) ∧ (w = .evaluate n → D (w.finish s)) ∧ (D s → D (w.finish s)) := by
  have hev : ∀ y ∈ dueHandoffs s (w.run s).1, ∃ m, y = .evaluate m := fun y hy => by
    obtain ⟨e, -, rfl⟩ := List.mem_map.mp hy
    exact ⟨_, rfl⟩
  have keep : ∀ P : State → Prop, (∀ t m, P t → P (t.evaluate m)) → P (w.run s).1 → P (w.finish s) := by
    intro P hP h1
    unfold Work.finish
    rw [run_plain_work hw, List.nil_append]
    generalize (w.run s).1 = t at h1 hev ⊢
    generalize dueHandoffs s t = l at hev
    induction l generalizing t with
    | nil => exact h1
    | cons y rest ih =>
      obtain ⟨m, rfl⟩ := hev y List.mem_cons_self
      exact ih (t.evaluate m) (hP t m h1) (fun z hz => hev z (List.mem_cons_of_mem _ hz))
  have keepD : ∀ t m, D t → D (t.evaluate m) := fun t m ht => h.keepD (.evaluate m) t trivial ht
  refine ⟨keep (fun t => D t ∨ W t) (fun t m ht => h.either (w := .evaluate m) trivial ht) (h.either hw hs), fun hn => ?_,
    fun hd => keep D keepD (h.keepD w s hw hd)⟩
  subst hn
  refine keep D keepD ?_
  rcases hs with hs | hs
  · exact h.keepD _ s hw hs
  · exact h.turn s hs

theorem Evaluates.settleLoop (h : Evaluates n W D) :
    ∀ fuel ws s, (∀ w ∈ ws, w.plain) → (D s ∨ (W s ∧ Work.evaluate n ∈ ws)) → D (settleLoop fuel ws s) := by
  intro fuel
  induction fuel with
  | zero =>
    intro ws s hp hs
    unfold Machine.settleLoop
    induction ws generalizing s with
    | nil => exact hs.resolve_right (by simp)
    | cons w rest ih =>
      obtain ⟨h1, h2, h3⟩ := h.finish (hp w List.mem_cons_self) (hs.imp_right And.left)
      refine ih (w.finish s) (fun y hy => hp y (List.mem_cons_of_mem _ hy)) ?_
      rcases hs with hs | ⟨-, hm⟩
      · exact .inl (h3 hs)
      · rcases List.mem_cons.mp hm with hm | hm
        · exact .inl (h2 hm.symm)
        · exact h1.imp_right (fun x => ⟨x, hm⟩)
  | succ fuel ih =>
    intro ws s hp hs
    unfold Machine.settleLoop
    have waits : W s → Work.evaluate n ∈ ws → Work.evaluate n ∈ ws.filter (fun w => !w.idle s) := fun hW hm =>
      List.mem_filter.mpr ⟨hm, by simp [Work.idle, h.due s hW]⟩
    split
    · rename_i hf
      exact hs.resolve_right (fun ⟨hW, hm⟩ => by simpa [hf] using waits hW hm)
    · rename_i w rest hf
      rw [hf] at waits
      have hall : ∀ y ∈ w :: rest, y.plain := fun y hy => by rw [← hf] at hy; exact hp y (List.mem_of_mem_filter hy)
      obtain ⟨h1, h2, k, h3⟩ := choose_spec s w rest
      have h4 := choose_rest s w rest
      generalize s.choose w rest = c at h1 h2 h3 h4
      obtain ⟨next, others, s1⟩ := c
      simp only at h1 h2 h3 h4
      subst h3
      refine ih _ _ (fun y hy => ?_) ?_
      · rcases mem_addWork hy with hy | hy
        · exact hall y (h2 y hy)
        · exact run_leaves_plain (hall next h1) _ y hy
      · rcases hs with hs | ⟨hW, hm⟩
        · exact .inl (h.keepD next _ (hall next h1) (h.choiceD s k hs))
        · have hW' := h.choiceW s k hW
          by_cases hn : next = .evaluate n
          · subst hn; exact .inl (h.turn _ hW')
          · refine .inr ⟨h.keepW next _ (hall next h1) hn hW', mem_addWork_of (.inl ?_)⟩
            exact (h4 _ (waits hW hm)).resolve_left (fun hh => hn hh.symm)

/-! ### The evaluation of a record whose links have changed -/

/-- Load `n` still waits for its evaluation in a step whose hand-offs began in `b`. -/
def State.Unevaluated (b : State) (n : Nat) (r1 : LoadRecord) (v : State) : Prop := Quiet b v ∧ v.load n = some r1

/-- Load `n` has been evaluated in such a step: it has entered STOPPING, or is DUE with a block reason and may be evaluated again. -/
def State.EvaluatedIn (b : State) (n : Nat) (r1 : LoadRecord) (v : State) : Prop :=
  Quiet b v ∧ ∃ x, v.load n = some x ∧ b.EvaluatedAmong n r1 x ∧ b.Judged b.authority n r1 x
    ∧ (x.state = .stopping ∨ ∃ c, x = { r1 with blockReason := c })

/-- One evaluation in such a step (R56, R57). -/
theorem evaluate_evaluatedIn (hc : Table.Canonical 240 b.loads) (hq : Quiet b v) (hd : r1.state = .due) {c : BlockReason}
    (hl : v.load n = some { r1 with blockReason := c }) : b.EvaluatedIn n r1 (v.evaluate n) := by
  obtain ⟨x, hx, he⟩ := evaluate_evaluated hl hd
  obtain ⟨x', hx', hj⟩ := evaluate_judged hl hd
  obtain rfl := Option.some.inj (hx.symm.trans hx')
  have hperm : v.permission n { r1 with blockReason := c } = v.permission n r1 := rfl
  unfold State.Evaluated at he
  rw [hq.timeBase] at he
  refine ⟨hq.evaluate n, x, hx, ?_, ?_, ?_⟩
  · rcases hq.permission (n := n) (r := r1) hc with h | ⟨h1, h2, h3⟩
    · exact .inl ⟨fun h0 => he.1 (by rw [hperm, h, h0]), fun h0 => (he.2 (by rw [hperm, h]; exact h0)).trans (by rw [hperm, h])⟩
    · refine .inr ⟨h1, h2, ?_⟩
      have h0 : v.permission n { r1 with blockReason := c } ≠ .none := by rw [hperm]; rcases h3 with h3 | h3 <;> simp [h3]
      rw [he.2 h0, hperm]
      exact h3.imp (fun h => by rw [h]) (fun h => by rw [h])
  · unfold State.Judged at hj ⊢
    rw [hq.keepRunLevels hc, hq.timeBase, hq.authority] at hj
    exact hj
  · by_cases h0 : v.permission n { r1 with blockReason := c } = .none
    · left; rw [he.1 h0]
    · right; exact ⟨_, he.2 h0⟩

theorem evaluates_due (hc : Table.Canonical 240 b.loads) (hd : r1.state = .due) :
    Evaluates n (b.Unevaluated n r1) (b.EvaluatedIn n r1) := by
  have choice : ∀ {s : State} (k : Nat), Quiet b s → Quiet b { s with choices := k } := fun k h =>
    h.of_same rfl rfl rfl rfl rfl (fun _ => rfl) rfl
  have due : ∀ s, b.Unevaluated n r1 s → s.stateOf n = some .due := fun s h => stateOf_eq.mpr ⟨r1, h.2, hd⟩
  refine ⟨fun s k h => ⟨choice k h.1, h.2⟩, fun s k h => ⟨choice k h.1, h.2⟩, fun w s hw hn h => ?_, fun s h => ?_, fun w s hw h => ?_,
    due⟩
  · refine ⟨h.1.run hw, (run_load_still hw (.inl hn) ?_ ?_).trans h.2⟩ <;> simp [due s h]
  · exact evaluate_evaluatedIn (c := r1.blockReason) hc h.1 hd h.2
  · obtain ⟨hq, x, hx, h1, h2, h3⟩ := h
    have hst : s.stateOf n = some x.state := stateOf_eq.mpr ⟨x, hx, rfl⟩
    have hx' : x.state = .stopping ∨ x.state = .due := h3.imp_right (fun ⟨c, e⟩ => by rw [e]; exact hd)
    by_cases hn : w = .evaluate n ∧ x.state = .due
    · obtain ⟨rfl, hxd⟩ := hn
      obtain ⟨c, rfl⟩ := h3.resolve_left (by simp [hxd])
      exact evaluate_evaluatedIn hc hq hd hx
    · refine ⟨hq.run hw, x, (run_load_still hw ?_ ?_ ?_).trans hx, h1, h2, h3⟩
      · rw [hst]; by_cases hw' : w = .evaluate n
        · exact .inr (by simpa [hw'] using hn)
        · exact .inl hw'
      all_goals rcases hx' with e | e <;> simp [hst, e]

end Sys2Proof.Machine
end

section
/-! SUPPORT. What hand-offs do to the failed-raise sets, and LINK LOAD whole (R13, R14, R57, R115 to R117). -/

namespace Sys2Proof.Machine

variable {s t u v b : State} {n m g p : Nat} {r r' r1 : LoadRecord} {x : Group} {new : LoadState}

/-! ### Groups -/

theorem moveTo_group (hl : s.load n = some r) (new : LoadState) (out : Option (Operation × OpResult)) (g : Nat) :
    (s.moveTo n new out).group g = (s.group g).map (fun x => x.follow n new) := by
  have key : ∀ u : State, u.groups = s.groups → (u.groupsFollow n new).group g = (s.group g).map (fun x => x.follow n new) := fun u hu => by
    simp [State.group, hu]
  simp only [State.moveTo, hl]
  apply key
  split <;> split <;> split <;> split <;> simp [State.offerUrgent]

theorem modifyGroup_group (s : State) (g : Nat) (f : Group → Group) (k : Nat) :
    (s.modifyGroup g f).group k = if k = g then (s.group k).map f else s.group k := by
  unfold State.modifyGroup
  split
  · rename_i h; split
    · rename_i hk; subst hk; simp [h]
    · rfl
  · rename_i x h
    show Table.find (Table.put s.groups g (f x)) k = _
    rw [Table.find_put]
    split
    · rename_i hk; subst hk; simp [h]
    · rfl

/-- What hand-offs keep of the groups' raises and failed-raise sets is kept by their changes: a record's move, and a group's test. -/
theorem handoff_groups {P : (Nat → Option LoadState) → (Nat → Option Group) → Prop}
    (hmove : ∀ (S : Nat → Option LoadState) (G : Nat → Option Group) n st new, S n = some st →
      ((st = .due ∧ new = .stopping) ∨ (st = .stopped ∧ new = .queued) ∨ (st = .queued ∧ new = .starting)) → P S G →
        P (fun m => if m = n then some new else S m) (fun g => (G g).map (fun x => x.follow n new)))
    (htest : ∀ (S : Nat → Option LoadState) (G : Nat → Option Group) g (f : Group → Group), P S G →
      ((∃ p, (S p = some .queued) ∧ f = fun y => { y with state := .raising p }) ∨ f = (fun y => { y with state := .short })
        ∨ f = fun y => { y with state := .normal, failed := [] }) → P S (fun k => if k = g then (G k).map f else G k))
    {s0 s1 : State} {work : List Work} (hp : ∀ w ∈ work, w.plain) (hs : P s1.stateOf s1.group) :
    P (s0.settle s1 work).stateOf (s0.settle s1 work).group := by
  have move : ∀ (s : State) n r new, s.load n = some r →
      ((r.state = .due ∧ new = .stopping) ∨ (r.state = .stopped ∧ new = .queued) ∨ (r.state = .queued ∧ new = .starting)) →
      P s.stateOf s.group → P (s.moveTo n new none).stateOf (s.moveTo n new none).group := by
    intro s n r new hl hm h
    have h1 : (s.moveTo n new none).stateOf = fun m => if m = n then some new else s.stateOf m := by
      funext m; unfold State.stateOf; rw [moveTo_load hl]; split <;> simp
    have h2 : (s.moveTo n new none).group = fun g => (s.group g).map (fun x => x.follow n new) := by
      funext g; exact moveTo_group hl new none g
    rw [h1, h2]
    exact hmove _ _ n r.state new (stateOf_eq.mpr ⟨r, hl, rfl⟩) hm h
  have modify : ∀ (s : State) g f, P s.stateOf s.group →
      ((∃ p, (s.stateOf p = some .queued) ∧ f = fun y => { y with state := .raising p }) ∨ f = (fun y => { y with state := .short })
        ∨ f = fun y => { y with state := .normal, failed := [] }) →
      P (s.modifyGroup g f).stateOf (s.modifyGroup g f).group := by
    intro s g f h hf
    have h1 : (s.modifyGroup g f).stateOf = s.stateOf := by funext m; unfold State.stateOf; rw [modifyGroup_load]
    have h2 : (s.modifyGroup g f).group = fun k => if k = g then (s.group k).map f else s.group k := by
      funext k; exact modifyGroup_group s g f k
    rw [h1, h2]
    exact htest _ _ g f h hf
  refine settle_plain (P := fun s => P s.stateOf s.group) hp (fun _ _ h => h) (fun s n h => ?_) (fun s g h => ?_) (fun s e h => ?_) hs
  · rcases evaluate_cases s n with e | ⟨r, hl, hd, e | e⟩ <;> rw [e]
    · exact h
    · exact move s n r _ hl (.inl ⟨hd, rfl⟩) h
    · have h1 : (s.setLoad n { r with blockReason := s.permission n r }).stateOf = s.stateOf := by
        funext m; unfold State.stateOf; rw [load_setLoad]; split
        · rename_i hm; subst hm; simp [hl]
        · rfl
      rw [h1]; exact h
  · rcases testGroup_cases s g with e | ⟨p, hp, e⟩ | e | e <;> rw [e]
    · exact h
    · obtain ⟨r, hl, hst⟩ := stateOf_eq.mp hp
      have hq : (s.enqueue p .supply).stateOf p = some .queued := by
        unfold State.stateOf; rw [enqueue_load hl, if_pos rfl]; rfl
      refine modify _ g _ ?_ (.inl ⟨p, hq, rfl⟩)
      exact move { s with queue := placeEntry (s.newEntry p .supply) s.queue, arrivals := s.arrivals + 1 } p r .queued hl
        (.inr (.inl ⟨hst, rfl⟩)) h
    · exact modify s g _ h (.inr (.inl rfl))
    · exact modify s g _ h (.inr (.inr rfl))
  · rcases examineEntry_cases s e with e' | ⟨r, hl, hq, e'⟩ | ⟨w, e'⟩ <;> rw [e']
    · exact h
    · exact move s _ r _ hl (.inr (.inr ⟨hq, rfl⟩)) h
    · exact h

/-! ### The failed-raise sets after a change of links -/

/-- Load `n` is in no failed-raise set, and a group that raises it finds it in QUEUED or STARTING. -/
def Untried (n : Nat) (S : Nat → Option LoadState) (G : Nat → Option Group) : Prop :=
  ∀ g x, G g = some x → n ∉ x.failed ∧ (x.state = .raising n → S n = some .queued ∨ S n = some .starting)

/-- Load `n` is in the failed-raise set of group `g`, or the group has found no lack of supply since, and what it raises now stands in
QUEUED or STARTING. -/
def Remembered (n g : Nat) (S : Nat → Option LoadState) (G : Nat → Option Group) : Prop :=
  ∃ y, G g = some y ∧ (n ∈ y.failed ∨ (y.failed = [] ∧ ∀ p, y.state = .raising p → S p = some .queued ∨ S p = some .starting))

/-- A hand-off's move either leaves a group as it was, or is a stop that ends a raise of the record that stops. -/
theorem follow_cases {st : LoadState} (x : Group)
    (hm : (st = .due ∧ new = .stopping) ∨ (st = .stopped ∧ new = .queued) ∨ (st = .queued ∧ new = .starting)) :
    x.follow n new = x ∨ (st = .due ∧ x.state = .raising n ∧ x.follow n new = { x with state := .normal, failed := NatSet.add x.failed n }) := by
  unfold Group.follow
  split
  · rename_i h
    obtain ⟨h1, h2, h3⟩ := h
    rcases hm with ⟨rfl, rfl⟩ | ⟨-, rfl⟩ | ⟨-, rfl⟩
    · exact .inr ⟨rfl, h1, rfl⟩
    · exact absurd rfl h2
    · exact absurd rfl h3
  · exact .inl rfl

/-- A record in QUEUED or STARTING is still so after a hand-off's move. -/
theorem raised_move {S : Nat → Option LoadState} {st : LoadState} (hS : S n = some st)
    (hm : (st = .due ∧ new = .stopping) ∨ (st = .stopped ∧ new = .queued) ∨ (st = .queued ∧ new = .starting))
    (hp : S p = some .queued ∨ S p = some .starting) :
    (if p = n then some new else S p) = some .queued ∨ (if p = n then some new else S p) = some .starting := by
  split
  · rename_i h; subst h
    rw [hS] at hp
    rcases hm with ⟨rfl, rfl⟩ | ⟨rfl, rfl⟩ | ⟨rfl, rfl⟩ <;> simp_all
  · exact hp

theorem Untried.settled {s0 s1 : State} {work : List Work} (hp : ∀ w ∈ work, w.plain) (h : Untried n s1.stateOf s1.group) :
    Untried n (s0.settle s1 work).stateOf (s0.settle s1 work).group := by
  refine handoff_groups (P := Untried n) (fun S G m st new hS hm h g y hy => ?_) (fun S G g f h hf k y hy => ?_) hp h
  · obtain ⟨x, hx, rfl⟩ := Option.map_eq_some_iff.mp hy
    obtain ⟨h1, h2⟩ := h g x hx
    rcases follow_cases x hm with e | ⟨rfl, h3, e⟩ <;> rw [e]
    · exact ⟨h1, fun h3 => raised_move hS hm (h2 h3)⟩
    · refine ⟨fun h4 => ?_, fun h4 => by simp at h4⟩
      rcases (NatSet.mem_add _ _ _).mp h4 with rfl | h4
      · have := h2 h3; simp [hS] at this
      · exact h1 h4
  · dsimp only at hy
    split at hy
    · obtain ⟨x, hx, rfl⟩ := Option.map_eq_some_iff.mp hy
      obtain ⟨h1, h2⟩ := h k x hx
      rcases hf with ⟨p, hq, rfl⟩ | rfl | rfl
      · exact ⟨h1, fun h3 => by cases h3; exact .inl hq⟩
      · exact ⟨h1, fun h3 => by simp at h3⟩
      · exact ⟨by simp, fun h3 => by simp at h3⟩
    · exact h k y hy

theorem Remembered.settled {s0 s1 : State} {work : List Work} (hp : ∀ w ∈ work, w.plain) (h : Remembered n g s1.stateOf s1.group) :
    Remembered n g (s0.settle s1 work).stateOf (s0.settle s1 work).group := by
  refine handoff_groups (P := Remembered n g) (fun S G m st new hS hm h => ?_) (fun S G k f h hf => ?_) hp h
  · obtain ⟨x, hx, h⟩ := h
    refine ⟨x.follow m new, by simp [hx], ?_⟩
    rcases follow_cases x hm with e | ⟨rfl, h3, e⟩ <;> rw [e]
    · exact h.imp_right (fun ⟨h1, h2⟩ => ⟨h1, fun p h4 => raised_move hS hm (h2 p h4)⟩)
    · rcases h with h | ⟨-, h⟩
      · exact .inl ((NatSet.mem_add _ _ _).mpr (.inr h))
      · have := h m h3; simp [hS] at this
  · obtain ⟨x, hx, h⟩ := h
    by_cases hk : g = k
    · subst hk
      refine ⟨f x, by simp [hx], ?_⟩
      rcases hf with ⟨p, hq, rfl⟩ | rfl | rfl
      · exact h.imp_right (fun ⟨h1, _⟩ => ⟨h1, fun p' h4 => by cases h4; exact .inl hq⟩)
      · exact h.imp_right (fun ⟨h1, _⟩ => ⟨h1, fun p' h4 => by simp at h4⟩)
      · exact .inr ⟨rfl, fun p' h4 => by simp at h4⟩
    · exact ⟨x, by simp [hk, hx], h⟩

/-! ### LINK LOAD -/

theorem put_same {α : Type} {k : Nat} {t : Table α} (hc : Table.Canonical k t) {a : α} (h : Table.find t n = some a) :
    Table.put t n a = t := by
  obtain ⟨hp, -⟩ := hc
  induction t with
  | nil => simp at h
  | cons e rest ih =>
    obtain ⟨j, c⟩ := e
    simp only [List.map_cons, List.pairwise_cons] at hp
    unfold Table.find at h
    split at h
    · rename_i hj
      subst hj
      obtain rfl := Option.some.inj h
      simp [Table.put]
    · rename_i hj
      have hlt : j < n := hp.1 n (List.mem_map_of_mem (f := Prod.fst) (Table.mem_of_find h))
      unfold Table.put
      rw [if_neg (by omega), if_neg (by omega), ih h hp.2]

/-- The record that LINK LOAD writes. -/
def LoadRecord.linked (r : LoadRecord) (a : Option Provides) (b c : Option Draws) : LoadRecord :=
  { r with provides := a, drawsA := b, drawsB := c }

theorem writeLinks_load (s : State) (n : Nat) (r r1 : LoadRecord) (m : Nat) :
    (s.writeLinks n r r1).load m = if m = n then some r1 else s.load m := by
  unfold State.writeLinks
  dsimp only
  split
  · exact load_setLoad s n m r1
  · exact load_setLoad s n m r1

theorem writeLinks_quiet (s : State) (n : Nat) (r r1 : LoadRecord) : Quiet (s.setLoad n r1) (s.writeLinks n r r1) := by
  unfold State.writeLinks
  dsimp only
  split
  · exact .refl _
  · refine (Quiet.refl _).of_same rfl rfl rfl rfl rfl (fun g => ?_) rfl
    simp [State.group, Function.comp_def]

theorem linkWork_plain : ∀ w ∈ linkWork n r r', w.plain := by
  intro w hw
  unfold linkWork at hw
  split at hw
  · simp at hw
  · obtain rfl := List.mem_singleton.mp hw; trivial

/-- What a LINK LOAD that is taken leaves (R14, R57, R117). -/
theorem settle_links (hc : Canonical s) (hl : s.load n = some r) (p : Option Provides) (da db : Option Draws) (h1 : r1 = r.linked p da db) :
    ∃ r', (s.settle (s.writeLinks n r r1) (linkWork n r r1)).load n = some r' ∧ HandedOn s.timeBase r1 r'
      ∧ (r1 = r → s.settle (s.writeLinks n r r1) (linkWork n r r1) = s)
      ∧ (r.state = .due → r1 ≠ r → s.Judged s.authority n r1 r' ∧ (s.setLoad n r1).EvaluatedAmong n r1 r')
      ∧ (r.provides.map (·.group) ≠ r1.provides.map (·.group) → RaiseLaw s →
        ∀ g x, (s.settle (s.writeLinks n r r1) (linkWork n r r1)).group g = some x → n ∉ x.failed)
      ∧ (r.provides.map (·.group) = r1.provides.map (·.group) → ∀ g x, s.group g = some x → n ∈ x.failed →
        ∃ y, (s.settle (s.writeLinks n r r1) (linkWork n r r1)).group g = some y ∧ (n ∈ y.failed ∨ y.failed = [])) := by
  have hst : r1.state = r.state := by subst h1; rfl
  have hb : r1.buttonHold = r.buttonHold := by subst h1; rfl
  have hcb : Table.Canonical 240 (s.setLoad n r1).loads := Table.canonical_put hc.loads (Table.lt_of_find hc.loads hl) r1
  have hq0 := writeLinks_quiet s n r r1
  have hlu : (s.writeLinks n r r1).load n = some r1 := by rw [writeLinks_load, if_pos rfl]
  have hstates : (s.writeLinks n r r1).stateOf = s.stateOf := by
    funext m
    unfold State.stateOf
    rw [writeLinks_load]
    split
    · rename_i h; subst h; simp [hl, hst]
    · rfl
  obtain ⟨r', hr', hho⟩ := (settle_quiet (s0 := s) (s1 := s.writeLinks n r r1) linkWork_plain).record (hq0.canonical hcb) n r1 hlu
  rw [hq0.timeBase] at hho
  refine ⟨r', hr', hho, fun he => ?_, fun hd hne => ?_, fun hg hraise => ?_, fun hg g x hx hn => ?_⟩
  · subst he
    have hu : s.writeLinks n r1 r1 = s := by
      unfold State.writeLinks
      simp only [if_true]
      show ({ s with loads := Table.put s.loads n r1 } : State) = s
      rw [put_same hc.loads hl]
    rw [hu, show linkWork n r1 r1 = [] from if_pos rfl, settle_nil (handoffs_self hc.loads)]
  · have hw : linkWork n r r1 = [.evaluate n] := if_neg (fun h => hne h.symm)
    have hE := (evaluates_due (n := n) (b := s.setLoad n r1) (r1 := r1) hcb (hst.trans hd)).settleLoop settleFuel
      (addWork [] ([Work.evaluate n] ++ handoffs s (s.writeLinks n r r1))) (s.writeLinks n r r1)
      (fun w hw => by
        rcases List.mem_append.mp ((mem_addWork hw).resolve_left (by simp)) with hw | hw
        · obtain rfl := List.mem_singleton.mp hw; trivial
        · exact handoffs_plain _ _ w hw)
      (.inr ⟨⟨hq0, hlu⟩, mem_addWork_of (.inr (by simp))⟩)
    rw [hw] at hr'
    obtain ⟨-, x, hx, h2, h3, -⟩ := hE
    obtain rfl := Option.some.inj (hr'.symm.trans hx)
    exact ⟨judged_setLoad hl hb h3, h2⟩
  · have hu : Untried n (s.writeLinks n r r1).stateOf (s.writeLinks n r r1).group := by
      intro g x hx
      have hw : s.writeLinks n r r1 = (s.setLoad n r1).forgetFailed n := if_neg hg
      have hx' : Table.find (Table.mapEach (fun _ x => { x with failed := NatSet.remove x.failed n }) s.groups) g = some x := by
        rw [hw] at hx; exact hx
      rw [Table.find_mapEach] at hx'
      obtain ⟨y, hy, rfl⟩ := Option.map_eq_some_iff.mp hx'
      refine ⟨by simp, fun h => ?_⟩
      rw [hstates]
      exact hraise g n y hy h
    exact fun g x hx => ((hu.settled linkWork_plain) g x hx).1
  · have hw : s.writeLinks n r r1 = s.setLoad n r1 := if_pos hg
    have hu : Remembered n g (s.writeLinks n r r1).stateOf (s.writeLinks n r r1).group := ⟨x, by rw [hw]; exact hx, .inl hn⟩
    obtain ⟨y, hy, h⟩ := hu.settled (s0 := s) (work := linkWork n r r1) linkWork_plain
    exact ⟨y, hy, h.imp_right And.left⟩

end Sys2Proof.Machine
end

section
/-! SUPPORT. LINK LOAD's checks in their order, and the statement about LINK LOAD and PLAN LOAD (R13 to R15). -/

namespace Sys2Proof.Machine

variable {s : State} {n : Nat} {r r1 : LoadRecord}

/-- What LINK LOAD does on a live record, its values being in range: steps 4 to 9 of R13, and the write. -/
theorem linkLoad_live {b pg pr pc ag ad bg bd : Byte}
    (hb : ¬ (239 < b.toNat ∨ (15 < pg.toNat ∧ pg ≠ 255) ∨ (15 < ag.toNat ∧ ag ≠ 255) ∨ (15 < bg.toNat ∧ bg ≠ 255)
        ∨ (pg ≠ 255 ∧ (5 < pr.toNat ∨ pc = 0)) ∨ (ag ≠ 255 ∧ ad = 0) ∨ (bg ≠ 255 ∧ bd = 0)))
    (hl : s.load b.toNat = some r) (h1 : r1 = r.linked (providesOf pg pr pc) (drawsOf ag ad) (drawsOf bg bd)) :
    ((∃ g : Byte, (g = pg ∨ g = ag ∨ g = bg) ∧ g ≠ 255 ∧ s.group g.toNat = none) →
        linkLoad [b, pg, pr, pc, ag, ad, bg, bd] s = refuse s .noSuch)
      ∧ ((∀ g : Byte, (g = pg ∨ g = ag ∨ g = bg) → g ≠ 255 → s.group g.toNat ≠ none) →
        (∀ c, s.linkRefusal b.toNat r r1 = some c → linkLoad [b, pg, pr, pc, ag, ad, bg, bd] s = refuse s c)
        ∧ (s.linkRefusal b.toNat r r1 = none → linkLoad [b, pg, pr, pc, ag, ad, bg, bd] s
            = taken (s.writeLinks b.toNat r r1) (linkWork b.toNat r r1))) := by
  have hbad := Bool.eq_false_iff.mpr (mt (linkLoad_bad_iff b pg pr pc ag ad bg bd).mp hb)
  have hund := undefined_iff s pg pr pc ag ad bg bd
  subst h1
  unfold LoadRecord.linked
  refine ⟨fun h => ?_, fun h => ?_⟩
  · simp only [linkLoad, hbad, hl, hund.mpr h, Bool.false_eq_true, if_false, if_true]
  · have hdef : ¬ (namedGroups (providesOf pg pr pc) (drawsOf ag ad) (drawsOf bg bd)).any (fun g => (s.group g).isNone) = true :=
      mt hund.mp (fun ⟨g, h2, h3, h4⟩ => h g h2 h3 h4)
    refine ⟨fun c hr => ?_, fun hr => ?_⟩ <;> simp only [linkLoad, hbad, hl, hdef, hr, Bool.false_eq_true, if_false]

/-- R13 steps 5 to 9 by the links of the command, each check named by what it finds. -/
theorem linkRefusal_cases (hc : Canonical s) {pg pr pc ag ad bg bd : Byte}
    (h1 : r1 = r.linked (providesOf pg pr pc) (drawsOf ag ad) (drawsOf bg bd)) :
    (r.state = .stopping ∨ r.state = .queued ∨ r.state = .starting ∨ r.state = .retiring → s.linkRefusal n r r1 = some .wrongState)
      ∧ (¬ (r.state = .stopping ∨ r.state = .queued ∨ r.state = .starting ∨ r.state = .retiring) →
        ((ag ≠ 255 ∧ ag = bg) ∨ (pg ≠ 255 ∧ (pg = ag ∨ pg = bg)) → s.linkRefusal n r r1 = some .conflict)
        ∧ (¬ ((ag ≠ 255 ∧ ag = bg) ∨ (pg ≠ 255 ∧ (pg = ag ∨ pg = bg))) →
          (pg ≠ 255 ∧ 6 ≤ (s.otherProviders pg.toNat n).length → s.linkRefusal n r r1 = some .full)
          ∧ (¬ (pg ≠ 255 ∧ 6 ≤ (s.otherProviders pg.toNat n).length) →
            (pg ≠ 255 ∧ (∃ m rm pm, m ≠ n ∧ s.load m = some rm ∧ rm.provides = some pm ∧ pm.group = pg.toNat ∧ pm.rank = pr.toNat) →
              s.linkRefusal n r r1 = some .conflict)
            ∧ (¬ (pg ≠ 255 ∧ ∃ m rm pm, m ≠ n ∧ s.load m = some rm ∧ rm.provides = some pm ∧ pm.group = pg.toNat ∧ pm.rank = pr.toNat) →
              (¬ GraphSound (dependencyEdges (s.setLoad n r1).loads) → s.linkRefusal n r r1 = some .conflict)
              ∧ (GraphSound (dependencyEdges (s.setLoad n r1).loads) → s.linkRefusal n r r1 = none))))) := by
  have hclash := linksClash_iff pg pr pc ag ad bg bd
  have any_iff : ∀ q : Provides → Bool, r1.provides.any q = true ↔ pg ≠ 255 ∧ q { group := pg.toNat, rank := pr.toNat, capacity := pc.toNat } = true := by
    intro q
    rw [show r1.provides = providesOf pg pr pc by rw [h1]; rfl, providesOf_eq]
    split <;> simp_all
  have hfull := any_iff (fun p => Config.providersPerGroup ≤ (s.otherProviders p.group n).length)
  have hrank := any_iff (fun p => (s.otherProviders p.group n).any (fun q => q.rank == p.rank))
  dsimp only at hfull hrank
  rw [decide_eq_true_eq] at hfull
  rw [otherProviders_rank hc] at hrank
  have hgraph : graphRefused (dependencyEdges (s.setLoad n r1).loads) = true ↔ ¬ GraphSound (dependencyEdges (s.setLoad n r1).loads) := by
    rw [← graphRefused_eq_false_iff, Bool.not_eq_false]
  rw [show providesOf pg pr pc = r1.provides by rw [h1]; rfl, show drawsOf ag ad = r1.drawsA by rw [h1]; rfl,
    show drawsOf bg bd = r1.drawsB by rw [h1]; rfl] at hclash
  unfold State.linkRefusal
  refine ⟨fun h => if_pos h, fun h => ?_⟩
  rw [if_neg h]
  refine ⟨fun h => if_pos (hclash.mpr h), fun h => ?_⟩
  rw [if_neg (mt hclash.mp h)]
  refine ⟨fun h => if_pos (hfull.mpr h), fun h => ?_⟩
  rw [if_neg (mt hfull.mp h)]
  refine ⟨fun h => if_pos (hrank.mpr h), fun h => ?_⟩
  rw [if_neg (mt hrank.mp h)]
  exact ⟨fun h => if_pos (hgraph.mpr h), fun h => if_neg (fun h' => hgraph.mp h' h)⟩

/-- Settles O14: the checks in their order, and then the links, with the evaluation of a DUE record among the hand-offs of its groups. -/
theorem linkAndPlanLoadCheckAndWrite : Obligations.LinkAndPlanLoadCheckAndWrite := by
  unfold Obligations.LinkAndPlanLoadCheckAndWrite
  refine ⟨fun s n pg pr pc ag ad bg bd hc hs => ?_, fun s n plan ordinal hc hs => planLoad_answers hc n plan ordinal hs⟩
  have hp := hs.commandParams (by decide) (by simp)
  have hexec : exec .linkLoad s = .next (s.runCommand 0x12 linkLoad) := rfl
  rw [hexec]
  have hbad := linkLoad_bad_iff n pg pr pc ag ad bg bd
  refine ⟨fun h => ?_, fun hn hpg hag hbg => ?_⟩
  · have hb := hbad.mpr h
    rw [runCommand_refused hp hc (c := .badValue) (by simp only [linkLoad, hb, if_true])]
  have hok : ¬ (239 < n.toNat ∨ (15 < pg.toNat ∧ pg ≠ 255) ∨ (15 < ag.toNat ∧ ag ≠ 255) ∨ (15 < bg.toNat ∧ bg ≠ 255)
      ∨ (pg ≠ 255 ∧ (5 < pr.toNat ∨ pc = 0)) ∨ (ag ≠ 255 ∧ ad = 0) ∨ (bg ≠ 255 ∧ bd = 0)) := by
    rintro (h | ⟨h, h'⟩ | ⟨h, h'⟩ | ⟨h, h'⟩ | ⟨h', h⟩ | ⟨h', h⟩ | ⟨h', h⟩)
    · omega
    · have := (hpg.resolve_right h').1; omega
    · have := (hag.resolve_right h').1; omega
    · have := (hbg.resolve_right h').1; omega
    · obtain ⟨-, h2, h3⟩ := hpg.resolve_right h'
      exact h.elim (fun h => by omega) h3
    · exact (hag.resolve_right h').2 h
    · exact (hbg.resolve_right h').2 h
  refine ⟨fun hl => ?_, fun r r1 hl h1 => ?_⟩
  · have hb := Bool.eq_false_iff.mpr (mt hbad.mp hok)
    rw [runCommand_refused hp hc (c := .noSuch) (by simp only [linkLoad, hb, hl, Bool.false_eq_true, if_false])]
  have h1' : r1 = r.linked (providesOf pg pr pc) (drawsOf ag ad) (drawsOf bg bd) := by
    rw [h1, providesOf_eq, drawsOf_eq, drawsOf_eq]; rfl
  obtain ⟨hund, hdef⟩ := linkLoad_live hok hl h1'
  obtain ⟨c5, c6⟩ := linkRefusal_cases (n := n.toNat) hc h1'
  refine ⟨fun h => ?_, fun h => ?_⟩
  · rw [runCommand_refused hp hc (hund h)]
  obtain ⟨hrefuse, htake⟩ := hdef h
  have refused : ∀ {c}, s.linkRefusal n.toNat r r1 = some c →
      Host.Outcome.next (s.runCommand 0x12 linkLoad) = (.next (s.respond c []) : Host.Outcome State Fault Refusal) := fun {c} hr => by
    rw [runCommand_refused hp hc (hrefuse c hr)]
  refine ⟨fun hst => refused (c5 hst), fun h1 h2 h3 h4 => ?_⟩
  obtain ⟨c6, c7⟩ := c6 (by simp [h1, h2, h3, h4])
  refine ⟨fun hcl => refused (c6 hcl), fun hcl hcl' => ?_⟩
  obtain ⟨c7, c8⟩ := c7 (not_or.mpr ⟨hcl, hcl'⟩)
  refine ⟨fun hp hf => refused (c7 ⟨hp, hf⟩), fun hf => ?_⟩
  obtain ⟨c8, c9⟩ := c8 (fun ⟨ha, hb⟩ => by have := hf.resolve_left ha; omega)
  refine ⟨fun hp hr => refused (c8 ⟨hp, hr⟩), fun hr => ?_⟩
  obtain ⟨c9, c10⟩ := c9 (fun ⟨ha, m, rm, pm, h1, h2, h3, h4, h5⟩ => hr.resolve_left ha m rm pm h1 h2 h3 h4 h5)
  refine ⟨fun hg => refused (c9 hg), fun hg => ?_⟩
  rw [runCommand_taken hp (htake (c10 hg))]
  obtain ⟨r', hr', hho, hsame, hdue, hmoved, hkept⟩ := settle_links hc hl _ _ _ h1'
  have hgroup : r1.provides.map (·.group) = groupNamed pg := by rw [h1']; exact providesOf_group pg pr pc
  refine ⟨_, r', rfl, hr', hho, rfl, rfl, fun h => by rw [hsame h], hdue, fun p hp hne hraise => ?_, fun p x hp he hne hx hf => ?_⟩
  · refine hmoved (fun h => ?_) hraise
    rw [hgroup, hp] at h
    unfold groupNamed at h
    split at h
    · simp at h
    · rename_i h255
      exact hne.resolve_right h255 (Option.some.inj h).symm
  · refine hkept ?_ p.group x hx hf
    rw [hgroup, hp, groupNamed, if_neg hne, he]; rfl

end Sys2Proof.Machine
end

section
/-! SUPPORT. The frame of each elementary change: what it leaves as it was of the state and of each line. -/

namespace Sys2Proof.Machine

variable {A : Prop} {k : Kind} {s t u : State} {n m : Nat} {r r' : LoadRecord} {l : Fin 4} {x y : Line}

/-- What a change of kind `k` leaves as it was, beside the records, the queue, the feeders and the lines. -/
structure Kept (k : Kind) (s t : State) : Prop where
  timeBase : k ≠ .timeBase → t.timeBase = s.timeBase
  nextHoldMinute : k ≠ .minute → t.nextHoldMinute = s.nextHoldMinute
  clock : k ≠ .clock → t.clock = s.clock
  dayMap : k ≠ .dayMap → t.dayMap = s.dayMap
  dayTypes : k ≠ .dayTypes → t.todayOverride = s.todayOverride ∧ t.yesterday = s.yesterday
  windows : k ≠ .windows → t.windows = s.windows
  authority : k ≠ .authority → k ≠ .reset → t.authority = s.authority
  plant : k ≠ .plant → t.period = s.period ∧ t.inrushLimit = s.inrushLimit ∧ t.settleTime = s.settleTime
  periodEnd : k ≠ .periodEnd → t.periodEnd = s.periodEnd
  slotOutcomes : k ≠ .enrol → k ≠ .remove → t.slotOutcomes = s.slotOutcomes
  listCursor : k ≠ .list → k ≠ .reset → t.listCursor = s.listCursor
  holds : k ≠ .minute → k ≠ .placeHold → k ≠ .dropHold → k ≠ .strip → t.holds = s.holds
  margin : k ≠ .margin → ∀ g, (t.group g).map (·.margin) = (s.group g).map (·.margin)
  plans : k ≠ .plan → k ≠ .reset → t.plans = s.plans
  mask : k ≠ .mask → t.mask = s.mask
  overrun : k ≠ .attention → k ≠ .transaction → k ≠ .reset → t.overrun = s.overrun
  miso : k ≠ .transaction → t.miso = s.miso
  misoNow : s.misoNow = none → t.misoNow = none
  finishing : k ≠ .attention → k ≠ .transaction → k ≠ .reset → t.finishing = s.finishing
  port : k ≠ .answer → k ≠ .transaction → t.executing = s.executing ∧ t.answer = s.answer

/-- A change that touches nothing frozen, no plan, no authority and no margin keeps all of it. -/
theorem Kept.of_frozen (hf : t.frozen = s.frozen) (hp : t.plans = s.plans) (ha : t.authority = s.authority)
    (hm : ∀ g, (t.group g).map (·.margin) = (s.group g).map (·.margin)) : Kept k s t := by
  obtain ⟨h1, h2, h3, h4, h5, h6, h7, h8, h9, h10, h11, h12, h13, h14, h15, h16, h17, h18, h19, -, h21⟩ := frozen_field hf
  exact ⟨fun _ => h1, fun _ => h2, fun _ => h3, fun _ => h4, fun _ => ⟨h5, h6⟩, fun _ => h7, fun _ _ => ha, fun _ => ⟨h8, h13, h14⟩,
    fun _ => h9, fun _ _ => h10, fun _ _ => h11, fun _ _ _ _ => h12, fun _ => hm, fun _ _ => hp, fun _ => h18, fun _ _ _ => h17,
    fun _ => h19, fun h => by rw [State.misoNow, h19]; exact h, fun _ _ _ => h21, fun _ _ => ⟨h15, h16⟩⟩

theorem Kept.of_moveTo (hf : u.frozen = s.frozen) (hp : u.plans = s.plans) (ha : u.authority = s.authority) (hg : u.groups = s.groups)
    (n : Nat) (new : LoadState) (out : Option (Operation × OpResult)) : Kept k s (u.moveTo n new out) := by
  obtain ⟨hp', ha'⟩ := moveTo_settled u n new out
  refine .of_frozen ((frozen_moveTo u n new out).trans hf) (hp'.trans hp) (ha'.trans ha) (fun g => (moveTo_margin u n new out g).trans ?_)
  unfold State.group; rw [hg]

/-! ### Transactions -/

/-- Whatever a transaction makes of the port, it touches nothing behind it. -/
theorem Kept.of_port {bytes : List Byte} {e : Option (List Byte)} {a : Option Answer} {o f : Bool} {c : Nat} :
    Kept .transaction s
      { s with miso := misoOver bytes, executing := e, answer := a, overrun := o, finishing := f, choices := c } := by
  constructor <;> simp [State.group, State.misoNow, misoOver]

theorem Kept.refl (k : Kind) (s : State) : Kept k s s :=
  .of_frozen rfl rfl rfl (fun _ => rfl)

theorem fetchTransaction_kept (s : State) (j : Nat) : Kept .transaction s (s.fetchTransaction j) := .of_port

theorem transaction_kept (s : State) (b : List Byte) : Kept .transaction s (s.transaction b) := by
  unfold State.transaction State.receiveFrame
  split
  · exact .refl _ s
  · split
    · exact fetchTransaction_kept s _
    · split <;> exact .of_port

/-! ### Every change -/

theorem Elsewhere.kept (h : Elsewhere k s t) : Kept k s t := by
  cases h with
  | transaction b => exact transaction_kept s _
  | fetch n => exact fetchTransaction_kept s _
  | group _ G hm hc => exact .of_frozen rfl rfl rfl hm
  | _ => constructor <;> simp [State.group, State.misoNow, State.recompute, State.setReason, State.respond]

theorem Change.kept (h : Change A k s t) : Kept k s t := by
  cases h with
  | elsewhere h => exact h.kept
  | mark _ => exact .of_frozen rfl rfl rfl (fun _ => rfl)
  | write _ _ _ => exact .of_frozen rfl rfl rfl (fun _ => rfl)
  | move _ _ _ => exact .of_moveTo rfl rfl rfl rfl _ _ _
  | @request _ n r hl a _ => exact .of_moveTo (s := s) (u := s.setLoad n { r with portStop := some a }) rfl rfl rfl rfl _ _ _
  | @enqueue _ n c _ =>
    exact .of_moveTo (s := s) (u := { s with queue := placeEntry (s.newEntry n c) s.queue, arrivals := s.arrivals + 1 }) rfl rfl rfl rfl _ _ _
  | strip _ => constructor <;> simp [State.stripLoad, State.group, State.misoNow, Function.comp_def]
  | enrol _ _ _ => constructor <;> simp [State.enrol, State.group, State.misoNow]
  | @remove _ n r hl _ _ =>
    have hl' : s.load n = some r := hl
    constructor <;> simp [State.removeLoad, hl', State.setLine, State.group, State.misoNow]
  | minute => constructor <;> simp [State.group, State.misoNow]
  | placeHold _ _ _ _ _ => constructor <;> simp [State.group, State.misoNow]
  | dropHold _ => constructor <;> simp [State.group, State.misoNow]
  | line _ => constructor <;> simp [State.setLine, State.group, State.misoNow]
  | list => constructor <;> simp [State.afterListing, State.group, State.misoNow]
  | reset => constructor <;> simp [State.controlReset, State.recompute, State.group, State.misoNow, Function.comp_def, Group.afterReset]

/-- A change that neither creates nor removes a record leaves the same slots VACANT. -/
theorem Change.load_none (h : Change A k s t) (he : k ≠ .enrol) (hr : k ≠ .remove) (m : Nat) : t.load m = none ↔ s.load m = none := by
  rcases h.load_cases m with h | ⟨r, r', h1, h2, -⟩ | ⟨h, -⟩ | ⟨h, -⟩
  · rw [h]
  · simp [h1, h2]
  · exact absurd h he
  · exact absurd h hr

/-- A mark stays until LIST CHANGED reports it (R18). -/
theorem Change.marks_kept (h : Change A k s t) (hk : k ≠ .list) : ∀ m ∈ s.marks, m < 240 → m ∈ t.marks := by
  intro m hm hlt
  rcases h.marks_cases with e | ⟨n, e, -⟩ | ⟨h, -⟩ | ⟨-, e⟩
  · rwa [e]
  · rw [e]; exact (NatSet.mem_add _ _ _).mpr (.inr hm)
  · exact absurd h hk
  · rw [e]; exact List.mem_range.mpr hlt

/-! ### The lines -/

/-- What a change of kind `k` leaves as it was of the controller of line `l`. -/
structure LineKept (k : Kind) (l : Fin 4) (x y : Line) : Prop where
  settings : k ≠ .settings → y.enabled = x.enabled ∧ y.divisor = x.divisor ∧ y.replyWindow = x.replyWindow ∧ y.lossCount = x.lossCount
  counters : k ≠ .counters → k ≠ .ended l → k ≠ .reset →
    y.silent = x.silent ∧ y.framing = x.framing ∧ y.check = x.check ∧ y.stray = x.stray ∧ y.overflow = x.overflow
  pins : k ≠ .poll l → (y.txd = x.txd ∧ y.de = x.de) ∨ ((k = .settings ∨ k = .reset) ∧ y.txd = [true] ∧ y.de = [false])
  order : k ≠ .poll l → k ≠ .settings → k ≠ .reset → y.cursor = x.cursor ∧ y.pass = x.pass
  exchange : k ≠ .poll l → k ≠ .ended l → k ≠ .settings → k ≠ .reset →
    y.exchange = x.exchange ∨ (k = .remove ∧ y.exchange = x.exchange.map (fun e => { e with load := none }))
  lost : k ≠ .lost → k ≠ .remove → k ≠ .settings → k ≠ .reset → y.lost = x.lost
  urgent : k ≠ .poll l → k ≠ .remove → k ≠ .settings → k ≠ .reset → x.urgent <+: y.urgent

theorem LineKept.refl (k : Kind) (l : Fin 4) (x : Line) : LineKept k l x x :=
  ⟨fun _ => ⟨rfl, rfl, rfl, rfl⟩, fun _ _ _ => ⟨rfl, rfl, rfl, rfl, rfl⟩, fun _ => .inl ⟨rfl, rfl⟩, fun _ _ _ => ⟨rfl, rfl⟩,
    fun _ _ _ _ => .inl rfl, fun _ _ _ _ => rfl, fun _ _ _ _ => List.prefix_rfl⟩

theorem Line.offer_kept (k : Kind) (l : Fin 4) (x : Line) (a : Nat) : LineKept k l x (x.offer a) := by
  obtain ⟨u, hu, hp, -⟩ := x.offer_eq a
  rw [hu]
  exact { LineKept.refl k l x with urgent := fun _ _ _ _ => hp }

/-- A forgotten record's exchange belongs to no record any more, and any other exchange is left alone (R22). -/
theorem Line.forget_exchange (x : Line) (n a : Nat) : (x.forget n a).exchange = x.exchange
    ∨ (x.forget n a).exchange = x.exchange.map (fun e => { e with load := none }) := by
  unfold Line.forget
  cases x.exchange with
  | none => exact .inl rfl
  | some e =>
    by_cases h : e.load = some n
    · exact .inr (by simp [h])
    · exact .inl (by simp [h])

theorem Line.forget_kept (l : Fin 4) (x : Line) (n a : Nat) : LineKept .remove l x (x.forget n a) := by
  refine ⟨fun _ => ⟨rfl, rfl, rfl, rfl⟩, fun _ _ _ => ⟨rfl, rfl, rfl, rfl, rfl⟩, fun _ => .inl ⟨rfl, rfl⟩, fun _ _ _ => ⟨rfl, rfl⟩,
    fun _ _ _ _ => (x.forget_exchange n a).imp_right (⟨rfl, ·⟩), fun _ h => absurd rfl h, fun _ h => absurd rfl h⟩

theorem LineWrite.kept (h : LineWrite A s l k y) : LineKept k l (s.lineAt l) y := by
  cases h <;> constructor <;> simp [Line.cleared, Line.disabled, Line.quieted, Line.polling]

theorem Change.line_kept (h : Change A k s t) (l : Fin 4) : LineKept k l (s.lineAt l) (t.lineAt l) := by
  rcases h.line_cases l with e | ⟨-, n, r, -, -, e⟩ | ⟨rfl, n, r, -, -, -, e⟩ | hw | ⟨rfl, e⟩
  · rw [e]; exact .refl _ _ _
  · rw [e]; exact Line.offer_kept _ _ _ _
  · rw [e]; exact Line.forget_kept _ _ _ _
  · exact hw.kept
  · rw [e]; constructor <;> simp [Line.afterReset, Line.quieted]

end Sys2Proof.Machine
end

section
/-! SUPPORT. Which rows make an elementary change of which kind, and the frame of the part. -/

namespace Sys2Proof.Machine

variable {A : Prop} {i : Instr} {k : Kind} {s t u : State} {n : Nat} {l : Fin 4}

/-- The kinds of all the elementary changes of a row. -/
def Makes (i : Instr) (k : Kind) : Prop := i.owns k ∨ i.hands k

/-- The rows that may make a change of kind `k`, where it is not of every row. -/
def Kind.rows (k : Kind) (i : Instr) : Prop :=
  match k with
  | .timeBase => i = .timeBaseSecond
  | .clock => writesClock i = true
  | .dayTypes => writesDayTypes i = true ∨ i = .plantClockMinute
  | .dayMap => i = .setDayMap
  | .windows => i = .setWindow
  | .authority => writesAuthority i = true
  | .plant => i = .setPlant
  | .periodEnd => i = .activityPeriodEnd
  | .margin => i = .defineGroup ∨ i = .removeGroup
  | .plan => writesPlans i = true
  | .mask => i = .setAttentionMask
  | .attention => i = .readAttention
  | .answer => isEvent i = false ∧ isTransaction i = false
  | .transaction => isTransaction i = true
  | .tune => i = .tuneLoad
  | .link => i = .linkLoad
  | .member => i = .planLoad
  | .strip => i = .retireLoad
  | .enrol => i = .enrolLoad
  | .remove => i ≠ .enrolLoad ∧ writesSlots i = true
  | .minute => i = .holdMinute
  | .placeHold | .dropHold => writesHolds i = true
  | .counters => i = .readLine
  | .lost => writesSlots i = true
  | .settings => i = .setLine
  | .ended l => i = .replyWindowExpiry l ∨ ∃ samples, i = .replyEnd l samples
  | .poll l => i = .exchangeStart l
  | .list => i = .listChanged
  | .reset => i = .resetControl
  | _ => True

theorem rows_of_handed (h : k.handed = true) (i : Instr) : k.rows i := by
  cases k <;> simp_all [Kind.handed, Kind.rows]

theorem rows_of_reported (h : k.reported = true) (i : Instr) : k.rows i := by
  cases k <;> simp_all [Kind.reported, Kind.rows]

/-- A loss and the end of a retirement may remove a record. -/
theorem rows_of_removal (h : k.released = true ∨ k.ofLoss = true) (hi : i ≠ .enrolLoad) (hw : writesSlots i = true) : k.rows i := by
  cases k <;> simp_all [Kind.released, Kind.ofLoss, Kind.rows]

theorem rows_of_owns (h : i.owns k) : k.rows i := by
  cases i with
  | setLine =>
    rcases h with rfl | h
    · rfl
    · exact rows_of_removal (.inr h) (by simp) rfl
  | replyWindowExpiry l =>
    rcases h with rfl | h | h
    · exact .inl rfl
    · exact rows_of_reported h _
    · exact rows_of_removal h (by simp) rfl
  | replyEnd l samples =>
    rcases h with rfl | h | h
    · exact .inr ⟨samples, rfl⟩
    · exact rows_of_reported h _
    · exact rows_of_removal h (by simp) rfl
  | retireLoad => rcases h with rfl | rfl | rfl <;> simp [Kind.rows, writesSlots]
  | linkLoad | placeHold | releaseHold | portHoldExpiry | releaseButtonHold | buttonHoldExpiry | stopLoad | cancelStop =>
    rcases h with rfl | rfl <;> simp [Kind.rows, writesHolds]
  | timeBaseSecond => rcases h with rfl | rfl | rfl <;> simp [Kind.rows, writesClock]
  | _ => cases h <;> simp [Kind.rows, writesDayTypes, writesPlans, isTransaction]

theorem rows_of_calls (h : i.calls k) : k.rows i := by
  cases i with
  | plantClockMinute | midnight | setClock =>
    rcases h with rfl | rfl | rfl | rfl <;> simp [Kind.rows, writesClock, writesDayTypes, writesPlans, writesAuthority]
  | _ => cases h <;> simp [Kind.rows, writesAuthority]

theorem Makes.rows (h : Makes i k) : k.rows i := by
  rcases h with h | h | h | ⟨rfl, h⟩
  · exact rows_of_owns h
  · exact rows_of_handed h i
  · exact rows_of_calls h
  · exact h

/-- A row makes no change of the kinds that belong to other rows. -/
theorem Makes.ne {k' : Kind} (h : Makes i k) (hn : ¬ k'.rows i) : k ≠ k' := fun e => hn (e ▸ h.rows)

theorem exec_chain (h : exec i s = .next t) (hi : i ≠ .hardwareReset) : Chain (Polled s) (Makes i) s t := by
  obtain ⟨u, hu | hu, ht⟩ := exec_phased h hi <;>
    exact (hu.mono (fun _ hk => .inl hk.1)).trans (ht.mono (fun _ hk => .inr hk))

/-! ### What a row leaves as it was -/

/-- The new minute of a day that goes on leaves the override and yesterday's type (R89). -/
theorem plantClockMinute_dayTypes (h : exec .plantClockMinute s = .next t) :
    t.todayOverride = s.todayOverride ∧ t.yesterday = s.yesterday := by
  simp only [exec, execPlantClockMinute] at h
  split at h
  · cases h; exact ⟨rfl, rfl⟩
  · rename_i c _
    split at h
    · rename_i hc
      cases h
      have hw : ∀ w ∈ (s.carry c).minuteWork (if c.minute < 1439 then c.minute + 1 else 0), ∀ k ∈ w.needs,
          k.handed = true ∨ k = .plan ∨ k = .authority := fun w hw k hk => by
        rcases List.mem_cons.mp hw with rfl | hw
        · simp_all [Work.needs]
        · obtain ⟨p, -, rfl⟩ := List.mem_map.mp hw
          simp_all [Work.needs]
      have hch : Chain True (fun k => k.handed = true ∨ k = .plan ∨ k = .authority) (s.carry c) (s.newMinute c) :=
        settle_chain (fun _ h => .inl h) hw
      have hd := hch.same (fun x => (x.todayOverride, x.yesterday)) (fun k a b hk hab => by
        obtain ⟨h1, h2⟩ := hab.kept.dayTypes (by rintro rfl; simp [Kind.handed] at hk)
        rw [h1, h2])
      have hs : s.carry c = { s with clock := some c.nextMinute } := if_pos hc.2
      rw [hs] at hd
      exact Prod.mk.inj hd
    · cases h; exact ⟨rfl, rfl⟩

theorem fetch_overrun {clocks : Nat} (h : exec (.fetch clocks) s = .next t) : t.overrun = s.overrun := by
  simp only [exec, execFetch] at h
  split at h <;> cases h <;> rfl

theorem exec_dayTypes (h : exec i s = .next t) (hi : i ≠ .hardwareReset) (hw : writesDayTypes i = false) :
    t.todayOverride = s.todayOverride ∧ t.yesterday = s.yesterday := by
  by_cases hm : i = .plantClockMinute
  · subst hm; exact plantClockMinute_dayTypes h
  · have hrows : ¬ Kind.rows .dayTypes i := by rintro (h | h); exacts [by simp [hw] at h, hm h]
    refine (exec_chain h hi).keeps (P := fun u => u.todayOverride = s.todayOverride ∧ u.yesterday = s.yesterday)
      (fun k a b hk hab ha => ?_) ⟨rfl, rfl⟩
    obtain ⟨e1, e2⟩ := hab.kept.dayTypes (hk.ne hrows)
    rw [e1, e2]; exact ha

theorem exec_plant (h : exec i s = .next t) (hi : i ≠ .hardwareReset) (hp : i ≠ .setPlant) :
    t.period = s.period ∧ t.inrushLimit = s.inrushLimit ∧ t.settleTime = s.settleTime := by
  refine (exec_chain h hi).keeps (P := fun u => u.period = s.period ∧ u.inrushLimit = s.inrushLimit ∧ u.settleTime = s.settleTime)
    (fun k a b hk hab ha => ?_) ⟨rfl, rfl, rfl⟩
  obtain ⟨e1, e2, e3⟩ := hab.kept.plant (hk.ne hp)
  rw [e1, e2, e3]; exact ha

theorem exec_slots (h : exec i s = .next t) (hi : i ≠ .hardwareReset) (hw : writesSlots i = false) :
    t.slotOutcomes = s.slotOutcomes ∧ ∀ n, t.load n = none ↔ s.load n = none := by
  have henrol : ¬ Kind.rows .enrol i := by rintro rfl; simp [writesSlots] at hw
  have hremove : ¬ Kind.rows .remove i := fun h => absurd h.2 (by simp [hw])
  refine ⟨(exec_chain h hi).same (·.slotOutcomes) (fun _ _ _ hk hab => hab.kept.slotOutcomes (hk.ne henrol) (hk.ne hremove)), fun n => ?_⟩
  exact (exec_chain h hi).keeps (P := fun u => u.load n = none ↔ s.load n = none)
    (fun _ _ _ hk hab ha => (hab.load_none (hk.ne henrol) (hk.ne hremove) n).trans ha) Iff.rfl

theorem exec_overrun (h : exec i s = .next t) (hi : i ≠ .hardwareReset) (hw : writesOverrun i = false) : t.overrun = s.overrun := by
  by_cases hf : ∃ clocks, i = .fetch clocks
  · obtain ⟨clocks, rfl⟩ := hf; exact fetch_overrun h
  · have ha : i ≠ .readAttention := by rintro rfl; simp [writesOverrun] at hw
    have hr : i ≠ .resetControl := by rintro rfl; simp [writesOverrun] at hw
    have ht : ¬ isTransaction i = true := fun ht => by cases i <;> simp_all [isTransaction, writesOverrun]
    exact (exec_chain h hi).same (·.overrun) (fun _ _ _ hk hab => hab.kept.overrun (hk.ne ha) (hk.ne ht) (hk.ne hr))

/-- An event of the part touches nothing of the port. -/
theorem exec_event_port (h : exec i s = .next t) (hi : i ≠ .hardwareReset) (he : isEvent i = true) :
    t.executing = s.executing ∧ t.answer = s.answer := by
  refine (exec_chain h hi).keeps (P := fun u => u.executing = s.executing ∧ u.answer = s.answer) (fun k a b hk hab ha => ?_) ⟨rfl, rfl⟩
  have ht : ¬ isTransaction i = true := fun ht => by cases i <;> simp_all [isTransaction, isEvent]
  obtain ⟨e1, e2⟩ := hab.kept.port (hk.ne (k' := .answer) (fun h => absurd h.1 (by simp [he]))) (hk.ne ht)
  rw [e1, e2]; exact ha

/-! ### What a row leaves of each line -/

theorem exec_lineSettings (h : exec i s = .next t) (hi : i ≠ .hardwareReset) (hl : i ≠ .setLine) (l : Fin 4) :
    (t.lineAt l).enabled = (s.lineAt l).enabled ∧ (t.lineAt l).divisor = (s.lineAt l).divisor
      ∧ (t.lineAt l).replyWindow = (s.lineAt l).replyWindow ∧ (t.lineAt l).lossCount = (s.lineAt l).lossCount := by
  refine (exec_chain h hi).keeps (P := fun u => (u.lineAt l).enabled = (s.lineAt l).enabled ∧ (u.lineAt l).divisor = (s.lineAt l).divisor
      ∧ (u.lineAt l).replyWindow = (s.lineAt l).replyWindow ∧ (u.lineAt l).lossCount = (s.lineAt l).lossCount)
    (fun k a b hk hab ha => ?_) ⟨rfl, rfl, rfl, rfl⟩
  obtain ⟨h1, h2, h3, h4⟩ := (hab.line_kept l).settings (hk.ne hl)
  rw [h1, h2, h3, h4]; exact ha

theorem exec_lineCounters (h : exec i s = .next t) (hi : i ≠ .hardwareReset) (hw : writesCounters i = false) (l : Fin 4) :
    (t.lineAt l).silent = (s.lineAt l).silent ∧ (t.lineAt l).framing = (s.lineAt l).framing ∧ (t.lineAt l).check = (s.lineAt l).check
      ∧ (t.lineAt l).stray = (s.lineAt l).stray ∧ (t.lineAt l).overflow = (s.lineAt l).overflow := by
  refine (exec_chain h hi).keeps (P := fun u => (u.lineAt l).silent = (s.lineAt l).silent ∧ (u.lineAt l).framing = (s.lineAt l).framing
      ∧ (u.lineAt l).check = (s.lineAt l).check ∧ (u.lineAt l).stray = (s.lineAt l).stray ∧ (u.lineAt l).overflow = (s.lineAt l).overflow)
    (fun k a b hk hab ha => ?_) ⟨rfl, rfl, rfl, rfl, rfl⟩
  have hread : i ≠ .readLine := by rintro rfl; simp [writesCounters] at hw
  have hreset : i ≠ .resetControl := by rintro rfl; simp [writesCounters] at hw
  have hended : ¬ Kind.rows (.ended l) i := by rintro (rfl | ⟨samples, rfl⟩) <;> simp [writesCounters] at hw
  obtain ⟨h1, h2, h3, h4, h5⟩ := (hab.line_kept l).counters (hk.ne hread) (hk.ne hended) (hk.ne hreset)
  rw [h1, h2, h3, h4, h5]; exact ha

theorem exec_order (h : exec i s = .next t) (hi : i ≠ .hardwareReset) (h1 : i ≠ .exchangeStart l) (h2 : i ≠ .setLine)
    (h3 : i ≠ .resetControl) : (t.lineAt l).cursor = (s.lineAt l).cursor ∧ (t.lineAt l).pass = (s.lineAt l).pass := by
  refine (exec_chain h hi).keeps (P := fun u => (u.lineAt l).cursor = (s.lineAt l).cursor ∧ (u.lineAt l).pass = (s.lineAt l).pass)
    (fun k a b hk hab ha => ?_) ⟨rfl, rfl⟩
  obtain ⟨e1, e2⟩ := (hab.line_kept l).order (hk.ne h1) (hk.ne h2) (hk.ne h3)
  rw [e1, e2]; exact ha

/-- TXD and DE change by an exchange's start alone, but for a line disabled or reset, which is at mark and released. -/
theorem exec_pins (h : exec i s = .next t) (hi : i ≠ .hardwareReset) (hl : i ≠ .exchangeStart l) :
    ((t.lineAt l).txd = (s.lineAt l).txd ∧ (t.lineAt l).de = (s.lineAt l).de)
      ∨ ((i = .setLine ∨ i = .resetControl) ∧ (t.lineAt l).txd = [true] ∧ (t.lineAt l).de = [false]) := by
  refine (exec_chain h hi).keeps (P := fun u => ((u.lineAt l).txd = (s.lineAt l).txd ∧ (u.lineAt l).de = (s.lineAt l).de)
      ∨ ((i = .setLine ∨ i = .resetControl) ∧ (u.lineAt l).txd = [true] ∧ (u.lineAt l).de = [false]))
    (fun k a b hk hab ha => ?_) (.inl ⟨rfl, rfl⟩)
  rcases (hab.line_kept l).pins (hk.ne hl) with ⟨h1, h2⟩ | ⟨hks, h12⟩
  · rw [h1, h2]; exact ha
  · refine .inr ⟨?_, h12⟩
    rcases hks with rfl | rfl
    · exact .inl hk.rows
    · exact .inr hk.rows

/-- An exchange in flight stays, or loses its record where the row may remove one (R22). -/
theorem exec_exchange (h : exec i s = .next t) (hi : i ≠ .hardwareReset) (h1 : i ≠ .exchangeStart l) (h2 : i ≠ .replyWindowExpiry l)
    (h3 : ∀ samples, i ≠ .replyEnd l samples) (h4 : i ≠ .setLine) (h5 : i ≠ .resetControl) :
    (t.lineAt l).exchange = (s.lineAt l).exchange
      ∨ (writesSlots i = true ∧ (t.lineAt l).exchange = (s.lineAt l).exchange.map (fun e => { e with load := none })) := by
  refine (exec_chain h hi).keeps (P := fun u => (u.lineAt l).exchange = (s.lineAt l).exchange
      ∨ (writesSlots i = true ∧ (u.lineAt l).exchange = (s.lineAt l).exchange.map (fun e => { e with load := none })))
    (fun k a b hk hab ha => ?_) (.inl rfl)
  have hended : ¬ Kind.rows (.ended l) i := by rintro (h | ⟨samples, h⟩); exacts [h2 h, h3 samples h]
  rcases (hab.line_kept l).exchange (hk.ne h1) (hk.ne hended) (hk.ne h4) (hk.ne h5) with e | ⟨rfl, e⟩
  · rwa [e]
  · refine .inr ⟨hk.rows.2, ?_⟩
    rcases ha with ha | ⟨-, ha⟩ <;> rw [e, ha]
    cases (s.lineAt l).exchange <;> rfl

/-- A LOST set keeps still and an urgent list grows, but by the rows named. -/
theorem exec_lost_urgent (h : exec i s = .next t) (hi : i ≠ .hardwareReset) (hw : writesSlots i = false) (hr : i ≠ .resetControl) (l : Fin 4) :
    (t.lineAt l).lost = (s.lineAt l).lost ∧ (i ≠ .exchangeStart l → (s.lineAt l).urgent <+: (t.lineAt l).urgent) := by
  have hw' : ¬ writesSlots i = true := by simp [hw]
  have hremove : ¬ Kind.rows .remove i := fun h => hw' h.2
  have hset : i ≠ .setLine := by rintro rfl; exact hw' rfl
  refine ⟨(exec_chain h hi).same (fun u => (u.lineAt l).lost)
    (fun k a b hk hab => (hab.line_kept l).lost (hk.ne hw') (hk.ne hremove) (hk.ne hset) (hk.ne hr)), fun hl => ?_⟩
  exact (exec_chain h hi).keeps (P := fun u => (s.lineAt l).urgent <+: (u.lineAt l).urgent)
    (fun k a b hk hab ha => ha.trans ((hab.line_kept l).urgent (hk.ne hl) (hk.ne hremove) (hk.ne hset) (hk.ne hr))) List.prefix_rfl

end Sys2Proof.Machine
end

section
/-! SUPPORT. The rows that hand nothing on (`quiet`), and the statement of what each row writes. -/

namespace Sys2Proof.Machine

variable {i : Instr} {s t : State} {n : Nat} {l : Fin 4}

/-- No entry made or removed, no feeder taken or freed, and no record with another state. -/
structure Still (s t : State) : Prop where
  queue : t.queue = s.queue
  arrivals : t.arrivals = s.arrivals
  feeders : t.feeders = s.feeders
  states : ∀ n, s.load n ≠ none → t.stateOf n = s.stateOf n

/-- The parts of the state from which the hand-offs of a change are read. -/
def State.watched (s : State) :=
  (s.loads, s.authority, s.holds, s.groups, s.queue, s.arrivals, s.feeders)

theorem still_of_watched (h : t.watched = s.watched) : Still s t ∧ t.groups = s.groups := by
  simp only [State.watched, Prod.mk.injEq] at h
  obtain ⟨hl, -, -, hg, hq, hr, hf⟩ := h
  exact ⟨⟨hq, hr, hf, fun n _ => by unfold State.stateOf State.load; rw [hl]⟩, hg⟩

theorem Still.refl (s : State) : Still s s := (still_of_watched rfl).1

theorem handoffs_watched (hc : Canonical s) (h : t.watched = s.watched) : handoffs s t = [] := by
  simp only [State.watched, Prod.mk.injEq] at h
  obtain ⟨hl, ha, hh, hg, hq, -, hf⟩ := h
  exact handoffs_elsewhere hc.loads hl ha hh hg hq hf

/-! ### Transactions -/

theorem transaction_watched (s : State) (b : List Byte) : (s.transaction b).watched = s.watched := by
  unfold State.transaction State.receiveFrame
  split
  · rfl
  · split
    · rfl
    · split <;> rfl

/-! ### Commands that hand nothing on -/

/-- A reply that hands nothing on and leaves the records' states; the groups too, where `g` holds. -/
structure Reply.Rests (g : Prop) (s : State) (r : Reply) : Prop where
  work : r.work = []
  handoffs : handoffs s r.state = []
  still : Still s r.state
  groups : g → r.state.groups = s.groups

theorem rests_watched {g : Prop} {c : Completion} {d : List Byte} (hc : Canonical s) (h : t.watched = s.watched) :
    (Reply.mk t c d []).Rests g s :=
  ⟨rfl, handoffs_watched hc h, (still_of_watched h).1, fun _ => (still_of_watched h).2⟩

theorem rests_refuse {g : Prop} (hc : Canonical s) (c : Completion) : (refuse s c).Rests g s := rests_watched hc rfl

theorem Reads.rests {g : Prop} {body : List Byte → State → Reply} (h : Reads body) (hc : Canonical s) (params : List Byte) :
    (body params s).Rests g s := by
  rcases h params s with ⟨c, e⟩ | ⟨d, e⟩ <;> rw [e] <;> exact rests_watched hc rfl

theorem runCommand_still {g : Prop} {code : Byte} {body : List Byte → State → Reply} (hb : ∀ params, (body params s).Rests g s) :
    Still s (s.runCommand code body) ∧ (g → (s.runCommand code body).groups = s.groups) := by
  cases hp : s.commandParams code with
  | none => rw [runCommand_not hp]; exact ⟨.refl s, fun _ => rfl⟩
  | some params =>
    obtain ⟨hw, hh, hs, hg⟩ := hb params
    rw [runCommand_plain hp hw hh]
    exact ⟨⟨hs.queue, hs.arrivals, hs.feeders, hs.states⟩, hg⟩

theorem enrolLoad_rests {g : Prop} (hc : Canonical s) (params : List Byte) : (enrolLoad params s).Rests g s := by
  unfold enrolLoad
  split
  · rename_i b line address feeder weight
    split
    · exact rests_refuse hc _
    rename_i hbad
    split
    · exact rests_refuse hc _
    · exact rests_refuse hc _
    · rename_i hst
      split
      · exact rests_refuse hc _
      · have hn : b.toNat < 240 := by
          have := (enrolLoad_bad_iff b line address feeder weight).not.mp hbad
          omega
        have hl : s.load b.toNat = none := by simpa [State.stateOf] using hst
        refine ⟨rfl, handoffs_enrol hc hn hl _ _ _ _, ⟨rfl, rfl, rfl, fun m hm => ?_⟩, fun _ => rfl⟩
        have hne : m ≠ b.toNat := fun h => hm (h ▸ hl)
        have hload : (s.enrol b.toNat (lineOf line) address.toNat (feederOf feeder) weight.toNat).load m = s.load m :=
          (load_setLoad { s with slotOutcomes := Table.drop s.slotOutcomes b.toNat } b.toNat m _).trans (if_neg hne)
        simp [taken, State.stateOf, hload]
  · exact rests_refuse hc _

theorem planLoad_rests {g : Prop} (hc : Canonical s) (params : List Byte) : (planLoad params s).Rests g s := by
  unfold planLoad
  split
  · rename_i b plan ordinal
    split
    · exact rests_refuse hc _
    split
    · exact rests_refuse hc _
    rename_i r hl
    split
    · exact rests_refuse hc _
    · refine ⟨rfl, handoffs_setLoad hc.loads hl rfl rfl rfl rfl rfl rfl, ⟨rfl, rfl, rfl, fun m _ => ?_⟩, fun _ => rfl⟩
      by_cases hm : m = b.toNat
      · subst hm; simp [taken, State.stateOf, hl]
      · simp [taken, State.stateOf, hm]
  · exact rests_refuse hc _

theorem readLoad_rests {g : Prop} (hc : Canonical s) (params : List Byte) : (readLoad params s).Rests g s := by
  unfold readLoad
  split
  · split
    · exact rests_refuse hc _
    · split <;> exact rests_watched hc rfl
  · exact rests_refuse hc _

theorem readLine_rests {g : Prop} (hc : Canonical s) (params : List Byte) : (readLine params s).Rests g s := by
  unfold readLine
  split
  · split <;> exact rests_watched hc rfl
  · exact rests_refuse hc _

theorem listChanged_rests {g : Prop} (hc : Canonical s) (params : List Byte) : (listChanged params s).Rests g s := by
  unfold listChanged
  split <;> exact rests_watched hc rfl

theorem readAttention_rests {g : Prop} (hc : Canonical s) (params : List Byte) : (readAttention params s).Rests g s := by
  unfold readAttention
  split <;> exact rests_watched hc rfl

theorem setAttentionMask_rests {g : Prop} (hc : Canonical s) (params : List Byte) : (setAttentionMask params s).Rests g s := by
  unfold setAttentionMask
  split
  · split <;> exact rests_watched hc rfl
  · exact rests_refuse hc _

/-- A group undefined calls for nothing: the views of the other groups stand as they were. -/
theorem handoffs_dropGroup (hc : Canonical s) (j : Nat) : handoffs s { s with groups := Table.drop s.groups j } = [] := by
  have hself := handoffs_self hc.loads
  have hdep : departed s s = [] := by
    simp only [departed, List.filter_eq_nil_iff, Bool.not_eq_true', Bool.not_eq_false]
    exact fun e he => hasEntry_of_mem he
  unfold handoffs at hself ⊢
  simp only [List.append_eq_nil_iff] at hself ⊢
  obtain ⟨⟨⟨⟨hdue, -⟩, -⟩, hbar⟩, hexam⟩ := hself
  refine ⟨⟨⟨⟨hdue, ?_⟩, ?_⟩, hbar⟩, hexam⟩
  · rw [List.flatMap_eq_nil_iff]
    intro g hg
    have hne : g ≠ j := by
      rintro rfl
      obtain ⟨e, he, rfl⟩ := List.mem_map.mp hg
      simp [Table.drop] at he
    have hview : s.groupView g = ({ s with groups := Table.drop s.groups j } : State).groupView g := by
      simp [State.groupView, State.margin, State.group, Table.find_drop_ne _ hne, State.providersByLoad, State.consumers]
    exact if_pos hview
  · exact if_pos (by rw [show departed s { s with groups := Table.drop s.groups j } = departed s s from rfl, hdep]; rfl)

theorem removeGroup_rests (hc : Canonical s) (params : List Byte) : (removeGroup params s).Rests False s := by
  unfold removeGroup
  split
  · split
    · exact rests_refuse hc _
    split
    · exact rests_refuse hc _
    · split
      · exact rests_refuse hc _
      · exact ⟨rfl, handoffs_dropGroup hc _, ⟨rfl, rfl, rfl, fun _ _ => rfl⟩, (nomatch ·)⟩
  · exact rests_refuse hc _

/-! ### Quiet rows -/

/-- The countdown of the holds changes no record's state. -/
theorem holdMinute_still (h : exec .holdMinute s = .next t) : Still s t ∧ t.groups = s.groups := by
  simp only [exec, execHoldMinute] at h
  split at h <;> cases h
  · refine ⟨⟨rfl, rfl, rfl, fun n _ => ?_⟩, rfl⟩
    simp [State.stateOf, State.load, Function.comp_def, LoadRecord.countDown]
  · exact ⟨.refl s, rfl⟩

theorem startExchange_watched (s : State) (l : Fin 4) : (s.startExchange l).watched = s.watched := by
  unfold State.startExchange
  split
  · split
    · rfl
    · split <;> rfl
  · rfl

/-- Whatever a quiet row does, no group tests, no entry is made or removed and no record changes its state. -/
theorem exec_quiet (h : exec i s = .next t) (hc : Canonical s) (hq : quiet i = true) :
    Still s t ∧ (i ≠ .removeGroup → t.groups = s.groups) := by
  have watched : t.watched = s.watched → Still s t ∧ (i ≠ .removeGroup → t.groups = s.groups) := fun hw =>
    ⟨(still_of_watched hw).1, fun _ => (still_of_watched hw).2⟩
  have command : ∀ {code body}, exec i s = .next (s.runCommand code body) → (∀ params, (body params s).Rests (i ≠ .removeGroup) s) →
      Still s t ∧ (i ≠ .removeGroup → t.groups = s.groups) := fun {code body} he hb => by
    cases he.symm.trans h
    exact runCommand_still hb
  cases i with
  | commandFrame mosi => cases h; exact watched (transaction_watched s _)
  | fetch clocks =>
    simp only [exec, execFetch] at h
    split at h <;> cases h <;> exact watched rfl
  | unknownCommand =>
    simp only [exec, execUnknownCommand] at h
    split at h
    · cases h; exact watched rfl
    · split at h <;> cases h <;> exact watched rfl
  | identify => exact command rfl (identify_reads.rests hc)
  | readAttention => exact command rfl (readAttention_rests hc)
  | setAttentionMask => exact command rfl (setAttentionMask_rests hc)
  | enrolLoad => exact command rfl (enrolLoad_rests hc)
  | planLoad => exact command rfl (planLoad_rests hc)
  | readLoad => exact command rfl (readLoad_rests hc)
  | findLoad => exact command rfl (findLoad_reads.rests hc)
  | listChanged => exact command rfl (listChanged_rests hc)
  | readQueue => exact command rfl (readQueue_reads.rests hc)
  | readHolds => exact command rfl (readHolds_reads.rests hc)
  | removeGroup =>
    cases h
    obtain ⟨hs, -⟩ := runCommand_still (code := 0x29) (removeGroup_rests hc)
    exact ⟨hs, fun h => absurd rfl h⟩
  | readGroup => exact command rfl (readGroup_reads.rests hc)
  | readClock => exact command rfl (readClock_reads.rests hc)
  | readAuthority => exact command rfl (readAuthority_reads.rests hc)
  | readWakePlan => exact command rfl (readWakePlan_reads.rests hc)
  | readLine => exact command rfl (readLine_rests hc)
  | timeBaseSecond => cases h; exact watched rfl
  | holdMinute =>
    obtain ⟨hs, hg⟩ := holdMinute_still h
    exact ⟨hs, fun _ => hg⟩
  | exchangeStart l => cases h; exact watched (startExchange_watched s l)
  | _ => cases hq

/-! ### The frame of the part -/

/-- Settles O58: a row is a chain of elementary changes, none of them of a kind that belongs to other rows; a quiet row hands
nothing on. -/
theorem eachRowWritesItsOwn : Obligations.EachRowWritesItsOwn := by
  unfold Obligations.EachRowWritesItsOwn
  intro i s t h hi
  have ch := exec_chain h hi
  have hflag : ∀ {b : Bool}, b = false → ¬ b = true := fun hb => by simp [hb]
  have holds : writesHolds i = false → t.holds = s.holds := fun a => by
    have hm : i ≠ .holdMinute := by rintro rfl; simp [writesHolds] at a
    have hr : i ≠ .retireLoad := by rintro rfl; simp [writesHolds] at a
    exact ch.same (·.holds) (fun _ _ _ hk hc => hc.kept.holds (hk.ne hm) (hk.ne (k' := .placeHold) (hflag a))
      (hk.ne (k' := .dropHold) (hflag a)) (hk.ne hr))
  have hreset : ∀ {w : Instr → Bool}, w .resetControl = true → w i = false → i ≠ .resetControl := fun hw a e => by
    subst e; simp [hw] at a
  refine ⟨fun a => ch.same (·.timeBase) (fun _ _ _ hk hc => hc.kept.timeBase (hk.ne a)),
    fun a => ch.same (·.nextHoldMinute) (fun _ _ _ hk hc => hc.kept.nextHoldMinute (hk.ne a)),
    fun a => ch.same (·.clock) (fun _ _ _ hk hc => hc.kept.clock (hk.ne (hflag a))),
    fun a => ch.same (·.dayMap) (fun _ _ _ hk hc => hc.kept.dayMap (hk.ne a)),
    exec_dayTypes h hi,
    fun a => ch.same (·.windows) (fun _ _ _ hk hc => hc.kept.windows (hk.ne a)),
    fun a => ch.same (·.authority) (fun _ _ _ hk hc => hc.kept.authority (hk.ne (hflag a)) (hk.ne (hreset rfl a))),
    exec_plant h hi,
    fun a => ch.same (·.periodEnd) (fun _ _ _ hk hc => hc.kept.periodEnd (hk.ne a)),
    exec_slots h hi,
    fun a b => ch.same (·.listCursor) (fun _ _ _ hk hc => hc.kept.listCursor (hk.ne a) (hk.ne b)),
    holds,
    fun a b g => ch.same (fun x => (x.group g).map (·.margin)) (fun _ _ _ hk hc => hc.kept.margin (hk.ne (not_or.mpr ⟨a, b⟩)) g),
    fun a => ch.same (·.plans) (fun _ _ _ hk hc => hc.kept.plans (hk.ne (hflag a)) (hk.ne (hreset rfl a))),
    exec_lineSettings h hi, exec_lineCounters h hi,
    fun l hl => ⟨exec_pins h hi hl, exec_order h hi hl⟩,
    fun a => ch.same (·.mask) (fun _ _ _ hk hc => hc.kept.mask (hk.ne a)),
    exec_overrun h hi,
    fun a => ch.same (·.miso) (fun _ _ _ hk hc => hc.kept.miso (hk.ne (hflag a))),
    ch.keeps (fun _ _ _ _ hc => hc.kept.misoNow),
    fun a b c => ch.same (·.finishing) (fun _ _ _ hk hc => hc.kept.finishing (hk.ne b) (hk.ne (hflag a)) (hk.ne c)),
    exec_event_port h hi,
    fun a n hn hlt => ch.keeps (P := fun u => n ∈ u.marks) (fun _ _ _ hk hc hm => hc.marks_kept (hk.ne a) n hm hlt) hn,
    fun hc hq => ?_, fun l => exec_exchange h hi, exec_lost_urgent h hi⟩
  obtain ⟨hs, hg⟩ := exec_quiet h hc hq
  exact ⟨hs.queue, hs.arrivals, hs.feeders, hg, hs.states⟩

end Sys2Proof.Machine
end

section
/-! SUPPORT. What a row leaves of each record that lives through it: its configuration, its start count, and its orders, which go to
the urgent list of its line where they change (R9, R46, R63, R153). -/

namespace Sys2Proof.Machine

variable {A : Prop} {K : Kind → Prop} {i : Instr} {k : Kind} {s t u : State} {n : Nat} {r r' ru : LoadRecord} {l : Fin 4}

/-! ### The kinds of the two phases -/

/-- The kinds of the changes that a row hands on, and of its answer. -/
def Kind.late : Kind → Bool
  | .choices | .note | .mark | .evaluate | .enqueue | .grant | .reason | .group | .clock | .dayTypes | .plan | .authority | .period
  | .answer => true
  | _ => false

theorem late_of_hands (h : i.hands k) : k.late = true := by
  rcases h with h | h | ⟨rfl, -⟩
  · cases k <;> simp_all [Kind.handed, Kind.late]
  · cases i with
    | plantClockMinute | midnight | setClock => rcases h with rfl | rfl | rfl | rfl <;> rfl
    | _ => cases h <;> rfl
  · rfl

/-- No row grants a start by itself: the arbiter does, to whom it hands on. -/
theorem owns_ne_grant (h : i.owns k) : k ≠ .grant := by
  rintro rfl
  cases i <;> simp [Instr.owns, Kind.reported, Kind.released, Kind.ofLoss] at h

theorem owns_rest (h : i.owns .rest) : ∃ l, i = .replyWindowExpiry l ∨ ∃ samples, i = .replyEnd l samples := by
  cases i <;> simp [Instr.owns, Kind.reported, Kind.released, Kind.ofLoss] at h <;> simp

/-! ### A record along a chain -/

/-- What every write of a record keeps holds of the record at the end of a chain that does not both remove and create records. -/
theorem Chain.record {Q : LoadRecord → Prop} (h : Chain A K s t) (hK : ¬ (K .remove ∧ K .enrol))
    (hQ : ∀ k r1 r2, K k → Wrote k r1 r2 → Q r1 → Q r2) (hs : s.load n = some r) (hr : Q r) (ht : t.load n = some r') : Q r' := by
  have key : (t.load n = none ∧ K .remove) ∨ ∃ r1, t.load n = some r1 ∧ Q r1 := by
    refine h.keeps (P := fun u => (u.load n = none ∧ K .remove) ∨ ∃ r1, u.load n = some r1 ∧ Q r1) (fun k a b hk hab ha => ?_)
      (.inr ⟨r, hs, hr⟩)
    rcases hab.load_cases n with e | ⟨r1, r2, h1, h2, hw⟩ | ⟨rfl, h1, -⟩ | ⟨rfl, h1, -⟩
    · rwa [e]
    · rcases ha with ⟨ha, -⟩ | ⟨r0, h0, hq⟩
      · simp [h1] at ha
      · cases h0.symm.trans h1
        exact .inr ⟨r2, h2, hQ k _ r2 hk hw hq⟩
    · rcases ha with ⟨-, hr⟩ | ⟨r0, h0, -⟩
      · exact absurd ⟨hr, hk⟩ hK
      · simp [h1] at h0
    · exact .inl ⟨h1, hk⟩
  rcases key with ⟨h1, -⟩ | ⟨r1, h1, hq⟩
  · simp [ht] at h1
  · cases ht.symm.trans h1; exact hq

theorem not_enrol_of_hands : ¬ i.hands .enrol := fun h => nomatch late_of_hands h

theorem makes_remove_enrol : ¬ (Makes i .remove ∧ Makes i .enrol) := fun h => h.1.rows.1 h.2.rows

theorem owns_remove_enrol : ¬ (i.owns .remove ∧ i.owns .enrol) := fun h => makes_remove_enrol ⟨.inl h.1, .inl h.2⟩

/-! ### The configuration -/

/-- What a row may write of a record's configuration. -/
structure Configured (i : Instr) (r r' : LoadRecord) : Prop where
  drop : r'.drop = r.drop
  tuned : i ≠ .tuneLoad → r'.tuned = r.tuned
  links : i ≠ .linkLoad → i ≠ .retireLoad → r'.links = r.links
  membership : i ≠ .planLoad → i ≠ .retireLoad → r'.membership = r.membership

theorem exec_configured (h : exec i s = .next t) (hi : i ≠ .hardwareReset) (hs : s.load n = some r) (ht : t.load n = some r') :
    Configured i r r' :=
  (exec_chain h hi).record (Q := Configured i r) makes_remove_enrol
    (fun _ _ _ hk hw hq => ⟨hw.drop.trans hq.drop, fun a => (hw.tuned (hk.ne a)).trans (hq.tuned a),
      fun a b => (hw.links (hk.ne a) (hk.ne b)).trans (hq.links a b),
      fun a b => (hw.membership (hk.ne a) (hk.ne b)).trans (hq.membership a b)⟩)
    hs ⟨rfl, fun _ => rfl, fun _ _ => rfl, fun _ _ => rfl⟩ ht

/-! ### The start count -/

/-- The records that no hand-off starts: in none of STOPPED, QUEUED and STARTING. -/
def LoadState.Away (st : LoadState) : Prop := st ≠ .stopped ∧ st ≠ .queued ∧ st ≠ .starting

/-- What the hand-offs of a row write of the start of a record that they find as `r`. -/
structure Launched (r r' : LoadRecord) : Prop where
  on : r.state = .starting → r'.state = .starting ∧ r'.startCount = r.startCount
  off : r.state ≠ .starting →
    (r'.state ≠ .starting ∧ r'.startCount = r.startCount)
      ∨ (r'.state = .starting ∧ r'.commanded = .run ∧ r'.startCount = r.startCount + 1)
  away : r.state.Away → r'.state.Away

theorem starting_stays {old new : LoadState} (hk : k.late = true) (hm : k.moves old new) : old ≠ .starting := by
  rintro rfl
  cases k <;> simp [Kind.late, Kind.moves] at hk hm

theorem away_stays {old new : LoadState} (hk : k.late = true) (hm : k.moves old new) (ha : old.Away) : new.Away := by
  obtain ⟨h1, h2, h3⟩ := ha
  cases k <;> simp [Kind.late] at hk <;> simp [Kind.moves] at hm
  case evaluate => simp [hm, LoadState.Away]
  case enqueue => exact absurd hm.1 h1
  case grant => exact absurd hm.1 h2
  case period => obtain ⟨-, rfl | rfl | rfl⟩ := hm <;> simp [LoadState.Away]

theorem late_ne_reset (hk : k.late = true) : k ≠ .reset := by rintro rfl; simp [Kind.late] at hk

theorem Wrote.launched {r0 r1 r2 : LoadRecord} (hw : Wrote k r1 r2) (hk : k.late = true) (h : Launched r0 r1) : Launched r0 r2 := by
  have stays : r1.state = .starting → r2.state = .starting := fun h1 => by
    rcases hw.state with e | ⟨hm, -⟩ | ⟨rfl, -⟩
    · rw [e, h1]
    · exact absurd h1 (starting_stays hk hm)
    · exact absurd rfl (late_ne_reset hk)
  refine ⟨fun h0 => ?_, fun h0 => ?_, fun h0 => ?_⟩
  · obtain ⟨h1, hc⟩ := h.on h0
    exact ⟨stays h1, (hw.count (.inr h1)).trans hc⟩
  · rcases h.off h0 with ⟨h1, hc⟩ | ⟨h1, hcmd, hc⟩
    · by_cases h2 : r2.state = .starting
      · obtain ⟨hr, hc2⟩ := hw.started h1 h2
        exact .inr ⟨h2, hr, by rw [hc2, hc]⟩
      · exact .inl ⟨h2, (hw.count (.inl h2)).trans hc⟩
    · exact .inr ⟨stays h1, (hw.running h1 (stays h1)).trans hcmd, (hw.count (.inr h1)).trans hc⟩
  · rcases hw.state with e | ⟨hm, -⟩ | ⟨rfl, -⟩
    · rw [e]; exact h.away h0
    · exact away_stays hk hm (h.away h0)
    · exact absurd rfl (late_ne_reset hk)

theorem Launched.refl (r : LoadRecord) : Launched r r := ⟨fun h => ⟨h, rfl⟩, fun h => .inl ⟨h, rfl⟩, id⟩

theorem Chain.launched (h : Chain A i.hands u t) (hu : u.load n = some ru) (ht : t.load n = some r') : Launched ru r' :=
  h.record (Q := Launched ru) (fun h => not_enrol_of_hands h.2) (fun _ _ _ hk hw hq => hw.launched (late_of_hands hk) hq) hu (.refl ru) ht

/-- A row's own change starts no record and leaves the start counts. -/
theorem Chain.own_count (h : Chain A i.owns s u) (hs : s.load n = some r) (hu : u.load n = some ru) :
    ru.startCount = r.startCount ∧ (ru.state = .starting → r.state = .starting) := by
  refine h.record (Q := fun r1 => r1.startCount = r.startCount ∧ (r1.state = .starting → r.state = .starting)) owns_remove_enrol
    (fun k r1 r2 hk hw hq => ?_) hs ⟨rfl, id⟩ hu
  have back : r2.state = .starting → r1.state = .starting := fun h2 => by
    rcases hw.state with e | ⟨hm, -⟩ | ⟨-, e⟩
    · rw [← e, h2]
    · have hk' := owns_ne_grant hk
      rw [h2] at hm
      cases k <;> simp_all [Kind.moves]
    · simp [e] at h2
  refine ⟨(hw.count ?_).trans hq.1, fun h2 => hq.2 (back h2)⟩
  by_cases h2 : r2.state = .starting
  · exact .inr (back h2)
  · exact .inl h2

/-! ### A start that ends is not a rest -/

/-- No change but a report's entry to STOPPED brings a record to rest that is in neither STOPPED nor QUEUED. -/
theorem Change.unrested (h : Change A k s t) (hk : k ≠ .rest) (h1 : s.stateOf n ≠ some .stopped) (h2 : s.stateOf n ≠ some .queued) :
    t.stateOf n ≠ some .stopped ∧ t.stateOf n ≠ some .queued := by
  rcases h.load_cases n with e | ⟨r, r', hl, hl', hw⟩ | ⟨-, -, l, a, f, w, hl, -⟩ | ⟨-, hl, -⟩
  · unfold State.stateOf at *; rw [e]; exact ⟨h1, h2⟩
  · simp only [State.stateOf, hl, hl', Option.map_some, ne_eq, Option.some.injEq] at *
    rcases hw.state with e | ⟨hm, -⟩ | ⟨-, e⟩
    · rw [e]; exact ⟨h1, h2⟩
    · cases k <;> simp_all [Kind.moves]
      case period => obtain ⟨-, e | e | e⟩ := hm <;> simp [e]
    · simp [e]
  · simp [State.stateOf, hl, newRecord]
  · simp [State.stateOf, hl]

theorem Chain.unrested (h : Chain A K s t) (hK : ∀ k, K k → k ≠ .rest) (hs : s.stateOf n = some .starting) :
    t.stateOf n ≠ some .stopped ∧ t.stateOf n ≠ some .queued :=
  h.keeps (P := fun u => u.stateOf n ≠ some .stopped ∧ u.stateOf n ≠ some .queued)
    (fun k _ _ hk hab ha => hab.unrested (hK k hk) ha.1 ha.2) (by simp [hs])

/-- A STARTING record leaves its start for no rest at the end of an exchange (R51, R62, R64). -/
theorem endExchange_unrested (l : Fin 4) (chars : List RxChar) (hs : s.stateOf n = some .starting) :
    (s.endExchange l chars).stateOf n ≠ some .stopped ∧ (s.endExchange l chars).stateOf n ≠ some .queued := by
  by_cases hp : ∃ e, (s.lineAt l).exchange = some e ∧ e.load = some n
  · obtain ⟨e, he, hn⟩ := hp
    have hch : Chain False (· ≠ .rest) s (s.endExchange l chars) ∨ Chain False (· ≠ .rest) s (s.endExchange l chars) := by
      refine endExchange_chain chars (fun h => h.elim) (fun k _ hr e' => hr e' e n he hn hs) ?_
      rintro k (rfl | h | h) e
      · nomatch e
      · subst e; simp [Kind.ofLoss] at h
      · subst e; simp [Kind.released] at h
    rcases hch with h | h <;> exact h.unrested (fun _ h => h) hs
  · have e : (s.endExchange l chars).load n = s.load n := endExchange_load_ne l chars (fun e he hn => hp ⟨e, he, hn⟩)
    have e' : (s.endExchange l chars).stateOf n = s.stateOf n := by unfold State.stateOf; rw [e]
    simp [e', hs]

/-- The two phases of a row, the first of which leaves no STARTING record at rest. -/
theorem exec_launches (h : exec i s = .next t) (hi : i ≠ .hardwareReset) : ∃ u, Began (Polled s) i.owns s u ∧ Chain (Polled s) i.hands u t
    ∧ ∀ n, s.stateOf n = some .starting → u.stateOf n ≠ some .stopped ∧ u.stateOf n ≠ some .queued := by
  have reply : ∀ l chars, (i = .replyWindowExpiry l ∨ ∃ samples, i = .replyEnd l samples) →
      ∃ u, Began (Polled s) i.owns s u ∧ Chain (Polled s) i.hands u (s.runEvent { state := s.endExchange l chars, work := [] })
        ∧ ∀ n, s.stateOf n = some .starting → u.stateOf n ≠ some .stopped ∧ u.stateOf n ≠ some .queued := fun l chars hr =>
    ⟨_, endExchange_began chars hr, settle_chain (hands_handed i) (fun _ h => (nomatch h)), fun _ => endExchange_unrested l chars⟩
  by_cases hr : i.owns .rest
  · obtain ⟨l, rfl | ⟨samples, rfl⟩⟩ := owns_rest hr
    · cases h; exact reply l _ (.inl rfl)
    · cases h; exact reply l _ (.inr ⟨samples, rfl⟩)
  · obtain ⟨u, hu, ht⟩ := exec_phased h hi
    refine ⟨u, hu, ht, fun n hs => ?_⟩
    have ne : ∀ {k}, i.owns k → k ≠ .rest := fun hk e => hr (e ▸ hk)
    rcases hu with hu | hu <;> exact hu.unrested (fun _ hk => ne hk.1) hs

/-! ### The urgent list -/

/-- R153: the line, where it is on, has the address on its urgent list or has no room for it. -/
def State.Told (s : State) (l : Fin 4) (a : Nat) : Prop :=
  (s.lineAt l).enabled = true → a ∈ (s.lineAt l).urgent ∨ 8 ≤ (s.lineAt l).urgent.length

theorem Change.told (h : Change A k s t) (hk : k.shrinks = false) {a : Nat} (hs : s.Told l a) : t.Told l a := by
  intro he
  have hkept := h.line_kept l
  obtain ⟨e, -⟩ := hkept.settings (by rintro rfl; simp [Kind.shrinks] at hk)
  have hp : (s.lineAt l).urgent <+: (t.lineAt l).urgent := by
    refine hkept.urgent ?_ ?_ ?_ ?_ <;> (rintro rfl; simp [Kind.shrinks] at hk)
  exact (hs (e ▸ he)).imp (fun h => hp.subset h) (fun h => h.trans hp.length_le)

theorem told_offer {a : Nat} (h : t.lineAt l = (s.lineAt l).offer a) : t.Told l a := by
  obtain ⟨u, hu, -, -, -, -, hin⟩ := (s.lineAt l).offer_eq a
  intro he
  rw [h, hu] at he ⊢
  exact hin he

/-- Along a chain that takes no address off a list, a record's orders stand, or its line has been told (R153). -/
theorem Chain.told (h : Chain A K s t) (hK : ∀ k, K k → k.shrinks = false) (hs : s.load n = some r) (ht : t.load n = some r') :
    r'.orders = r.orders ∨ t.Told r.line r.address := by
  have key : ∃ r1, t.load n = some r1 ∧ r1.drop = r.drop ∧ (r1.orders = r.orders ∨ t.Told r.line r.address) := by
    refine h.keeps (P := fun u => ∃ r1, u.load n = some r1 ∧ r1.drop = r.drop ∧ (r1.orders = r.orders ∨ u.Told r.line r.address))
      (fun k a b hk hab ha => ?_) ⟨r, hs, rfl, .inl rfl⟩
    obtain ⟨r1, h1, hd, ho⟩ := ha
    have hk := hK k hk
    obtain ⟨r2, h2, hd2⟩ : ∃ r2, b.load n = some r2 ∧ r2.drop = r1.drop := by
      rcases hab.load_cases n with e | ⟨r0, r2, h0, h2, hw⟩ | ⟨-, h0, -⟩ | ⟨rfl, -⟩
      · exact ⟨r1, e.trans h1, rfl⟩
      · cases h0.symm.trans h1; exact ⟨r2, h2, hw.drop⟩
      · simp [h1] at h0
      · simp [Kind.shrinks] at hk
    refine ⟨r2, h2, hd2.trans hd, ?_⟩
    by_cases he : r2.orders = r1.orders
    · rw [he]; exact ho.imp_right (hab.told hk)
    · have hoff := hab.offers (by rintro rfl; simp [Kind.shrinks] at hk) h1 h2 he
      rw [show r1.line = r.line from congrArg Prod.fst hd, show r1.address = r.address from congrArg Prod.snd hd] at hoff
      exact .inr (told_offer hoff)
  obtain ⟨r1, h1, -, ho⟩ := key
  cases ht.symm.trans h1
  exact ho

/-- Where a row other than a control reset has changed a record's orders, the line of the record has been told. -/
theorem exec_told (h : exec i s = .next t) (hi : i ≠ .hardwareReset) (hr : i ≠ .resetControl) (hs : s.load n = some r)
    (ht : t.load n = some r') : r'.orders = r.orders ∨ t.Told r.line r.address := by
  have late : ∀ k : Kind, k.late = true → k.shrinks = false := fun k hk => by cases k <;> simp_all [Kind.late, Kind.shrinks]
  obtain ⟨u, hu | hu, hut⟩ := exec_phased h hi
  · refine ((hu.mono (K' := fun k => k.shrinks = false) (fun _ hk => hk.2)).trans
      (hut.mono (fun k hk => late k (late_of_hands hk)))).told (fun _ hk => hk) hs ht
  · obtain ⟨ru, hl, -⟩ := hut.drop_back not_enrol_of_hands ht
    obtain ⟨hd, ho⟩ := hu.record (Q := fun r1 => r1.drop = r.drop ∧ r1.orders = r.orders)
      (fun h => owns_remove_enrol ⟨h.1.1, h.2.1⟩)
      (fun k _ _ hk hw hq => ⟨hw.drop.trans hq.1, (hw.orders hk.2 (Makes.ne (i := i) (.inl hk.1) hr)).trans hq.2⟩) hs ⟨rfl, rfl⟩ hl
    have hline : ru.line = r.line := congrArg Prod.fst hd
    have haddr : ru.address = r.address := congrArg Prod.snd hd
    rw [← ho, ← hline, ← haddr]
    exact hut.told (fun k hk => late k (late_of_hands hk)) hl ht

/-- Settles O59: the row's own change starts nothing, a hand-off starts a record once at most, and each change of a record's orders
offers its address. -/
theorem recordConfigurationKept : Obligations.RecordConfigurationKept := by
  unfold Obligations.RecordConfigurationKept
  intro i s t n r r' h hi hs ht
  obtain ⟨hdrop, htuned, hlinks, hmember⟩ := exec_configured h hi hs ht
  simp only [LoadRecord.drop, LoadRecord.tuned, LoadRecord.links, Prod.mk.injEq] at hdrop htuned hlinks
  obtain ⟨u, hown, hhand, hrest⟩ := exec_launches h hi
  obtain ⟨ru, hl, -⟩ := hhand.drop_back not_enrol_of_hands ht
  have hch : Chain (Polled s) i.owns s u := by
    rcases hown with h | h <;> exact h.mono (fun _ hk => hk.1)
  obtain ⟨hcount, hback⟩ := hch.own_count hs hl
  obtain ⟨hon, hoff, haway⟩ := hhand.launched hl ht
  refine ⟨hdrop.1, hdrop.2, htuned, hlinks, hmember, fun h1 h2 => ?_, fun hor => ?_, fun hr hor => ?_⟩
  · rcases hoff (fun h => h1 (hback h)) with ⟨h3, -⟩ | ⟨-, hrun, hc⟩
    · exact absurd h2 h3
    · exact ⟨hrun, by rw [hc, hcount]⟩
  · by_cases hu : ru.state = .starting
    · rw [(hon hu).2, hcount]
    · rcases hoff hu with ⟨-, hc⟩ | ⟨h2, -, -⟩
      · rw [hc, hcount]
      · have hst : r.state = .starting := hor.resolve_right (fun h => h h2)
        obtain ⟨h3, h4⟩ := hrest n (stateOf_eq.mpr ⟨r, hs, hst⟩)
        simp only [State.stateOf, hl, Option.map_some, ne_eq, Option.some.injEq] at h3 h4
        exact absurd h2 (haway ⟨h3, h4, hu⟩).2.2
  · refine (exec_told h hi hr hs ht).resolve_left (fun ho => ?_)
    simp only [LoadRecord.orders, Prod.mk.injEq] at ho
    exact hor.elim (fun h => h ho.1) (fun h => h ho.2)

end Sys2Proof.Machine
end

section
/-! SUPPORT. What a record holds as it enters a state (R40, R45 to R47). -/

namespace Sys2Proof.Machine

theorem entering_idle (r : LoadRecord) (now : Nat) :
    r.entering .idle now = { r with state := .idle, commanded := .run, blockReason := .none, portStop := none, verifyEnd := none } := by
  simp [LoadRecord.entering, commandedOn]

theorem entering_due (r : LoadRecord) (now : Nat) :
    r.entering .due now = { r with state := .due, commanded := .run, blockReason := .none, verifyEnd := none } := by
  simp [LoadRecord.entering, commandedOn]

/-- An entry to RUN, with the run time beginning anew where the record did not count as running (R47). -/
theorem entering_run (r : LoadRecord) (now : Nat) :
    r.entering .run now = { r with
      state := .run, commanded := .run, runSince := if writesRunSince r.state = true then now else r.runSince
      blockReason := .none, portStop := none, idleClock := 0, verifyEnd := none } := by
  simp [LoadRecord.entering, commandedOn]

/-- An entry to STOPPED, with the off time beginning anew where the record did not count as off (R47). -/
theorem entering_stopped (r : LoadRecord) (now : Nat) :
    r.entering .stopped now = { r with
      state := .stopped, offSince := if writesOffSince r.state = true then now else r.offSince
      blockReason := .none, portStop := none, idleClock := 0, verifyEnd := none } := by
  simp [LoadRecord.entering, commandedOn]

end Sys2Proof.Machine
end

section
/-! SUPPORT. The hand-offs of a step whose waiting list matters: an induction principle over the waiting list and the state together
(R57, R98, R110, R128). -/

namespace Sys2Proof.Machine

variable {s v : State} {w x : Work} {ws ws' : List Work}

/-- A choice takes one hand-off out of those that wait and leaves the others. -/
theorem choose_perm (s : State) (w : Work) (rest : List Work) :
    ((s.choose w rest).1 :: (s.choose w rest).2.1).Perm (w :: rest) := by
  unfold State.choose
  cases rest with
  | nil => exact .refl _
  | cons z rest' =>
    have hi : Config.pick s.choices ((z :: rest').length + 1) % ((z :: rest').length + 1) < (w :: z :: rest').length :=
      Nat.mod_lt _ (by simp)
    simpa only [List.getD_eq_getElem?_getD, List.getElem?_eq_getElem hi, Option.getD_some] using List.getElem_cons_eraseIdx_perm hi

theorem addWork_nodup {new : List Work} (h : ws.Nodup) : (addWork ws new).Nodup := by
  unfold addWork
  induction new generalizing ws with
  | nil => exact h
  | cons y rest ih =>
    refine ih ?_
    dsimp only
    split
    · exact h
    · rename_i hc
      refine List.nodup_append.mpr ⟨h, List.nodup_singleton y, ?_⟩
      rintro a ha _ hb rfl
      exact hc (by simpa [List.mem_singleton.mp hb] using ha)

/-- What holds of the waiting hand-offs and the state together holds at the end of the loop, with none waiting, if it reads neither the
order of the list nor the choice counter, and taking a hand-off keeps it. -/
theorem settleLoop_waiting {I : List Work → State → Prop} (hperm : ∀ ws ws' s, ws.Perm ws' → I ws s → I ws' s)
    (hidle : ∀ ws s, I ws s → I (ws.filter (fun w => !w.idle s)) s) (hchoice : ∀ ws s k, I ws s → I ws { s with choices := k })
    (htake : ∀ w ws s, I (w :: ws) s → I (addWork ws ((w.run s).2 ++ handoffs s (w.run s).1)) (w.run s).1)
    (hfinish : ∀ w ws s, I (w :: ws) s → I ws (w.finish s)) : ∀ fuel ws s, I ws s → I [] (settleLoop fuel ws s) := by
  intro fuel
  induction fuel with
  | zero =>
    intro ws s h
    unfold settleLoop
    induction ws generalizing s with
    | nil => exact h
    | cons w rest ih => exact ih _ (hfinish w rest s h)
  | succ fuel ih =>
    intro ws s h
    have h1 := hidle ws s h
    unfold settleLoop
    split
    · rename_i hf; rwa [hf] at h1
    · rename_i w rest hf
      rw [hf] at h1
      have h2 := hperm _ _ s (choose_perm s w rest).symm h1
      obtain ⟨-, -, k, h3⟩ := choose_spec s w rest
      generalize s.choose w rest = c at h2 h3
      obtain ⟨next, others, s1⟩ := c
      simp only at h2 h3
      subst h3
      exact ih _ _ (htake next others _ (hchoice _ s k h2))

/-- The hand-offs that a change of the authority or an entry to DUE calls for are evaluations (R57). -/
theorem dueHandoffs_evaluate {s0 s1 : State} (h : w ∈ dueHandoffs s0 s1) : ∃ m, w = .evaluate m := by
  obtain ⟨e, -, rfl⟩ := List.mem_map.mp h
  exact ⟨_, rfl⟩

/-- A record that has entered DUE is called to its evaluation (R57). -/
theorem evaluate_mem_dueHandoffs {s0 s1 : State} {n : Nat} {r : LoadRecord} (hl : s1.load n = some r) (hd : r.state = .due)
    (h0 : s0.stateOf n ≠ some .due) : .evaluate n ∈ dueHandoffs s0 s1 :=
  List.mem_map.mpr ⟨(n, r), List.mem_filter.mpr ⟨Table.mem_of_find hl, by simp [hd, h0]⟩, rfl⟩

/-- What plain hand-offs do to a record, one after another. -/
theorem HandedOn.trans {now : Nat} {r r' r'' : LoadRecord} (h : HandedOn now r r') (h' : HandedOn now r' r'') : HandedOn now r r'' := by
  rcases h' with rfl | ⟨hd, h'⟩ | ⟨hs, hp, h'⟩ | ⟨hq, rfl⟩
  · exact h
  · rcases h with rfl | ⟨h0, ⟨b, rfl⟩ | rfl⟩ | ⟨h0, -, rfl | rfl⟩ | ⟨h0, rfl⟩
    · exact .inr (.inl ⟨hd, h'⟩)
    · refine .inr (.inl ⟨h0, h'.imp (fun ⟨c, e⟩ => ⟨c, e⟩) (fun e => e)⟩)
    all_goals simp [LoadRecord.entering] at hd
  · rcases h with rfl | ⟨h0, ⟨b, rfl⟩ | rfl⟩ | ⟨h0, -, rfl | rfl⟩ | ⟨h0, rfl⟩
    · exact .inr (.inr (.inl ⟨hs, hp, h'⟩))
    all_goals simp_all [LoadRecord.entering]
  · rcases h with rfl | ⟨h0, ⟨b, rfl⟩ | rfl⟩ | ⟨h0, hp, rfl | rfl⟩ | ⟨h0, rfl⟩
    · exact .inr (.inr (.inr ⟨hq, rfl⟩))
    · simp_all
    · simp [LoadRecord.entering] at hq
    · exact .inr (.inr (.inl ⟨h0, hp, .inr rfl⟩))
    all_goals simp [LoadRecord.entering] at hq

end Sys2Proof.Machine
end

section
/-! SUPPORT. The activity assessor (chapter 2): a record's period end by its state, and the period end of every record in a step. -/

namespace Sys2Proof.Machine

variable {s t v b : State} {n m now : Nat} {r ra r' : LoadRecord} {w : Work} {ws ws' : List Work}

/-! ### One record's period end -/

/-- A record whose period brought a valid report, with its level written and its figures emptied (R26, R32). -/
def LoadRecord.sampled (r : LoadRecord) : LoadRecord := { r with figures := PeriodFigures.empty, level := r.newLevel }

/-- A record that its period end leaves idle for one more period (R39). -/
def LoadRecord.idled (r : LoadRecord) : LoadRecord := { r.sampled with idleClock := r.idleClock + 1 }

/-- The record that a period end writes (R26, R35 to R39); `periodEndOf_load` says that it does. -/
def LoadRecord.periodEnded (r : LoadRecord) (period now : Nat) : LoadRecord :=
  if r.figures.seen = false then { r with figures := PeriodFigures.empty }
  else if r.state = .run then
    if r.newLevel ≤ r.tuning.idleEnter then r.sampled.entering .idle now else r.sampled
  else if r.state = .idle then
    if r.tuning.idleLeave ≤ r.newLevel then r.sampled.entering .run now
    else if idleReached (r.idleClock + 1) period r then r.idled.entering .due now
    else r.idled
  else if r.state = .due ∧ r.tuning.idleLeave ≤ r.newLevel ∧ r.portStop = none then r.sampled.entering .run now
  else r.sampled

/-- A period end writes its record, or writes it and moves it. -/
theorem periodEndOf_cases (hl : s.load n = some r) :
    s.periodEndOf n = s.setLoad n (r.periodEnded s.period s.timeBase)
      ∨ ∃ r1 new, s.periodEndOf n = (s.setLoad n r1).moveTo n new none
          ∧ r.periodEnded s.period s.timeBase = r1.entering new s.timeBase := by
  have hsampled : ({ r with figures := PeriodFigures.empty, level := r.newLevel } : LoadRecord) = r.sampled := rfl
  have hidled : ({ r with figures := PeriodFigures.empty, level := r.newLevel, idleClock := r.idleClock + 1 } : LoadRecord) = r.idled :=
    rfl
  unfold State.periodEndOf LoadRecord.periodEnded
  simp only [hl, hsampled, hidled]
  split
  · exact .inl rfl
  · split
    · rename_i hs
      simp only [hs, if_true]
      split
      · exact .inr ⟨r.sampled, .idle, rfl, rfl⟩
      · exact .inl rfl
    · rename_i hs
      simp only [hs, if_true, reduceCtorEq, if_false]
      split
      · exact .inr ⟨r.sampled, .run, rfl, rfl⟩
      · split
        · exact .inr ⟨r.idled, .due, rfl, rfl⟩
        · exact .inl rfl
    · rename_i hs
      simp only [hs, true_and, reduceCtorEq, if_false]
      split
      · exact .inr ⟨r.sampled, .run, rfl, rfl⟩
      · exact .inl rfl
    · rename_i h1 h2 h3
      rw [if_neg h1, if_neg h2, if_neg (fun h => h3 h.1)]
      exact .inl rfl

theorem periodEndOf_load (hl : s.load n = some r) : (s.periodEndOf n).load n = some (r.periodEnded s.period s.timeBase) := by
  rcases periodEndOf_cases hl with e | ⟨r1, new, e, e'⟩ <;> rw [e]
  · simp
  · rw [moveTo_load_self (r := r1) (by simp), e']; rfl

/-- One record's period end by its state (R31, R32, R35 to R39), as the record it writes. -/
theorem periodEnded_by_state (r : LoadRecord) (period now : Nat) :
    (r.figures.seen = false → r.periodEnded period now = { r with figures := PeriodFigures.empty })
    ∧ (r.figures.seen = true →
      (r.state = .run → r.newLevel ≤ r.tuning.idleEnter → r.periodEnded period now = r.sampled.entering .idle now)
      ∧ (r.state = .run → r.tuning.idleEnter < r.newLevel → r.periodEnded period now = r.sampled)
      ∧ (r.state = .idle → r.tuning.idleLeave ≤ r.newLevel → r.periodEnded period now = r.sampled.entering .run now)
      ∧ (r.state = .idle → r.newLevel < r.tuning.idleLeave → (r.idleClock + 1) * period < r.tuning.idleDelay * 60 →
          r.periodEnded period now = r.idled)
      ∧ (r.state = .idle → r.newLevel < r.tuning.idleLeave → r.tuning.idleDelay * 60 ≤ (r.idleClock + 1) * period →
          r.periodEnded period now = r.idled.entering .due now)
      ∧ (r.state = .due → r.tuning.idleLeave ≤ r.newLevel → r.portStop = none →
          r.periodEnded period now = r.sampled.entering .run now)
      ∧ (r.state = .due → r.newLevel < r.tuning.idleLeave ∨ r.portStop ≠ none → r.periodEnded period now = r.sampled)
      ∧ (r.state ≠ .run → r.state ≠ .idle → r.state ≠ .due → r.periodEnded period now = r.sampled)) := by
  refine ⟨fun h => if_pos h, fun h => ?_⟩
  unfold LoadRecord.periodEnded
  rw [if_neg (by simp [h])]
  refine ⟨fun hs hle => ?_, fun hs hlt => ?_, fun hs hle => ?_, fun hs hlt hd => ?_, fun hs hlt hd => ?_, fun hs hle hp => ?_,
    fun hs hor => ?_, fun h1 h2 h3 => ?_⟩
  · rw [if_pos hs, if_pos hle]
  · rw [if_pos hs, if_neg (Nat.not_le.mpr hlt)]
  · rw [if_neg (by simp [hs]), if_pos hs, if_pos hle]
  · rw [if_neg (by simp [hs]), if_pos hs, if_neg (Nat.not_le.mpr hlt), if_neg (by simpa [idleReached] using hd)]
  · rw [if_neg (by simp [hs]), if_pos hs, if_neg (Nat.not_le.mpr hlt), if_pos (by simpa [idleReached] using hd)]
  · rw [if_neg (by simp [hs]), if_neg (by simp [hs]), if_pos ⟨hs, hle, hp⟩]
  · rw [if_neg (by simp [hs]), if_neg (by simp [hs]), if_neg]
    exact fun ⟨_, hle, hp⟩ => hor.elim (fun h => absurd hle (Nat.not_le.mpr h)) (fun h => h hp)
  · rw [if_neg h1, if_neg h2, if_neg (fun h => h3 h.1)]

/-- A period end leaves the figures empty, and the level as it was but for the sample of a period with a valid report. -/
theorem periodEnded_figures (r : LoadRecord) (period now : Nat) :
    (r.periodEnded period now).figures = PeriodFigures.empty
      ∧ (r.periodEnded period now).level = (if r.figures.seen = false then r.level else r.newLevel)
      ∧ (r.periodEnded period now).buttonHold = r.buttonHold := by
  unfold LoadRecord.periodEnded
  split
  · exact ⟨rfl, rfl, rfl⟩
  · repeat' split
    all_goals exact ⟨rfl, rfl, rfl⟩

/-- What a hand-off leaves of a record's activity. -/
theorem HandedOn.activity (h : HandedOn now r r') : r'.figures = r.figures ∧ r'.level = r.level ∧ r'.tuning = r.tuning := by
  rcases h with rfl | ⟨-, ⟨b, rfl⟩ | rfl⟩ | ⟨-, -, rfl | rfl⟩ | ⟨-, rfl⟩ <;> exact ⟨rfl, rfl, rfl⟩

/-! ### What the hand-offs of a period end keep -/

/-- What evaluations, tests, examinations and period ends keep of the state `b` they began in. -/
structure PeriodFrame (b v : State) : Prop where
  frozen : v.frozen = b.frozen
  plans : v.plans = b.plans
  authority : v.authority = b.authority
  canonical : Table.Canonical 240 v.loads
  lamps : ∀ k, v.keepRunLevels k = b.keepRunLevels k

theorem PeriodFrame.timeBase (h : PeriodFrame b v) : v.timeBase = b.timeBase := (frozen_field h.frozen).1

theorem PeriodFrame.period (h : PeriodFrame b v) : v.period = b.period := by
  obtain ⟨-, -, -, -, -, -, -, h, -⟩ := frozen_field h.frozen
  exact h

theorem PeriodFrame.plain (h : PeriodFrame b v) (hw : w.plain) : PeriodFrame b (w.run v).1 := by
  have hq := (Quiet.refl v).run hw
  exact ⟨hq.frozen.trans h.frozen, hq.plans.trans h.plans, hq.authority.trans h.authority, hq.canonical h.canonical,
    fun k => (hq.keepRunLevels h.canonical k).trans (h.lamps k)⟩

theorem keepRunLevels_congr (hh : t.holds = s.holds) (hb : (t.load n).map (·.buttonHold) = (s.load n).map (·.buttonHold)) :
    t.keepRunLevels n = s.keepRunLevels n := by
  unfold State.keepRunLevels State.holdsOn
  rw [hh]
  cases ht : t.load n <;> cases hs : s.load n <;> simp_all

theorem periodEndOf_lamps (v : State) (n k : Nat) (hh : (v.periodEndOf n).holds = v.holds) :
    (v.periodEndOf n).keepRunLevels k = v.keepRunLevels k := by
  refine keepRunLevels_congr hh ?_
  by_cases hk : k = n
  · subst hk
    cases hl : v.load k with
    | none => simp [State.periodEndOf, hl]
    | some r =>
      obtain ⟨-, -, hb⟩ := periodEnded_figures r v.period v.timeBase
      rw [periodEndOf_load hl]; simp [hb]
  · rw [periodEndOf_load_ne hk]

theorem PeriodFrame.periodEnd (h : PeriodFrame b v) (n : Nat) : PeriodFrame b (v.periodEndOf n) := by
  cases hl : v.load n with
  | none => simpa [State.periodEndOf, hl] using h
  | some r =>
    have hput : ∀ r', Table.Canonical 240 (v.setLoad n r').loads := fun r' =>
      Table.canonical_put h.canonical (Table.lt_of_find h.canonical hl) r'
    have hlamps := periodEndOf_lamps v n
    rcases periodEndOf_cases hl with e | ⟨r1, new, e, -⟩ <;> rw [e] at hlamps ⊢
    · exact ⟨h.frozen, h.plans, h.authority, hput _, fun k => (hlamps k rfl).trans (h.lamps k)⟩
    · obtain ⟨hp, ha⟩ := moveTo_settled (v.setLoad n r1) n new none
      exact ⟨(frozen_moveTo _ _ _ _).trans h.frozen, hp.trans h.plans, ha.trans h.authority, moveTo_canonical (hput _),
        fun k => (hlamps k moveTo_holds).trans (h.lamps k)⟩

/-! ### The stages of a record in the step of a period end -/

/-- The period end of load `n` waits, and other hand-offs may have come to its record `r` before it. -/
def State.Unsampled (b : State) (n : Nat) (r : LoadRecord) (ws : List Work) (v : State) : Prop :=
  .periodEnd n ∈ ws ∧ ∃ ra, v.load n = some ra ∧ HandedOn b.timeBase r ra

/-- The period end of load `n` has been taken, once, at its record `ra`; a record that it has brought from IDLE to DUE waits for its
evaluation or has been evaluated. -/
def State.Sampled (b : State) (n : Nat) (ra : LoadRecord) (ws : List Work) (v : State) : Prop :=
  .periodEnd n ∉ ws ∧ ∃ r', v.load n = some r' ∧ HandedOn b.timeBase (ra.periodEnded b.period b.timeBase) r'
    ∧ (ra.state = .idle → (ra.periodEnded b.period b.timeBase).state = .due →
        b.Judged b.authority n (ra.periodEnded b.period b.timeBase) r'
          ∨ (.evaluate n ∈ ws ∧ r' = ra.periodEnded b.period b.timeBase))

/-- The hand-offs that a step of a period end takes. -/
def Work.ofPeriod (w : Work) : Prop := w.plain ∨ ∃ m, w = .periodEnd m

/-- A plain hand-off is handed on to every record. -/
theorem PeriodFrame.handedOn (h : PeriodFrame b v) (hw : w.plain) (hl : v.load n = some r) :
    ∃ r', (w.run v).1.load n = some r' ∧ HandedOn b.timeBase r r' := by
  obtain ⟨r', h1, h2⟩ := ((Quiet.refl v).run hw).record h.canonical n r hl
  exact ⟨r', h1, h.timeBase ▸ h2⟩

/-- An evaluation in the step judges a DUE record under the authority in force at its beginning, whatever block reason stands in it. -/
theorem PeriodFrame.judged (h : PeriodFrame b v) (hd : r.state = .due) {c : BlockReason}
    (hl : v.load n = some { r with blockReason := c }) :
    ∃ r', (v.evaluate n).load n = some r' ∧ b.Judged b.authority n r r' := by
  obtain ⟨r', h1, h2⟩ := evaluate_judged hl hd
  refine ⟨r', h1, ?_⟩
  unfold State.Judged at h2 ⊢
  rwa [h.lamps, h.timeBase, h.authority] at h2

theorem State.Unsampled.plain (hf : PeriodFrame b v) (hw : w.plain) (h : b.Unsampled n r (w :: ws) v) :
    b.Unsampled n r ws (w.run v).1 := by
  obtain ⟨hm, ra, hl, hr⟩ := h
  obtain ⟨r', h1, h2⟩ := hf.handedOn hw hl
  refine ⟨(List.mem_cons.mp hm).resolve_left ?_, r', h1, hr.trans h2⟩
  rintro rfl; exact hw

theorem State.Sampled.plain (hf : PeriodFrame b v) (hw : w.plain) (h : b.Sampled n ra (w :: ws) v) : b.Sampled n ra ws (w.run v).1 := by
  obtain ⟨hm, r', hl, hr, hj⟩ := h
  obtain ⟨r'', h1, h2⟩ := hf.handedOn hw hl
  refine ⟨fun hh => hm (List.mem_cons_of_mem _ hh), r'', h1, hr.trans h2, fun hi hd => ?_⟩
  have hstate : r'.state = .due ∨ r'.state = .stopping := by
    rcases hr.state with e | ⟨-, e⟩ | ⟨e | e, -⟩
    · exact .inl (e.trans hd)
    · exact .inr e
    all_goals simp [hd] at e
  have hst : v.stateOf n = some r'.state := stateOf_eq.mpr ⟨r', hl, rfl⟩
  by_cases hw' : w = .evaluate n ∧ r'.state = .due
  · obtain ⟨rfl, hd'⟩ := hw'
    have : ∃ c, r' = { ra.periodEnded b.period b.timeBase with blockReason := c } := by
      rcases hr with rfl | ⟨-, h | rfl⟩ | ⟨e, -⟩ | ⟨e, -⟩
      · exact ⟨_, rfl⟩
      · exact h
      · simp [LoadRecord.entering] at hd'
      all_goals simp [hd] at e
    obtain ⟨c, rfl⟩ := this
    obtain ⟨x, hx, hjx⟩ := hf.judged hd hl
    cases h1.symm.trans hx
    exact .inl hjx
  · have hstill : (w.run v).1.load n = v.load n := by
      refine run_load_still hw ?_ ?_ ?_
      · by_cases hn : w = .evaluate n
        · exact .inr (by simpa [hst, hn] using hw')
        · exact .inl hn
      all_goals rcases hstate with e | e <;> simp [hst, e]
    cases (h1.symm.trans hstill).trans hl
    refine (hj hi hd).imp_right (fun ⟨he, e⟩ => ⟨(List.mem_cons.mp he).resolve_left ?_, e⟩)
    rintro rfl
    exact hw' ⟨rfl, e ▸ hd⟩

end Sys2Proof.Machine
end

section
/-! SUPPORT. The step of a period end: every record's is taken once, and the statement about the activity assessor (R25 to R39, R54,
R57). -/

namespace Sys2Proof.Machine

variable {s t v b : State} {n m now : Nat} {r ra r' : LoadRecord} {w : Work} {ws ws' : List Work}

/-! ### The stages, hand-off by hand-off -/

theorem State.Unsampled.periodEnd_ne (hm : n ≠ m) (h : b.Unsampled n r (.periodEnd m :: ws) v) :
    b.Unsampled n r ws (v.periodEndOf m) := by
  obtain ⟨hmem, ra, hl, hr⟩ := h
  exact ⟨(List.mem_cons.mp hmem).resolve_left (by simpa using hm), ra, (periodEndOf_load_ne hm).trans hl, hr⟩

/-- A record's own period end, with the evaluation that it calls for. -/
theorem PeriodFrame.sampled (hf : PeriodFrame b v) (hl : v.load n = some ra) (hn : .periodEnd n ∉ ws) :
    b.Sampled n ra (dueHandoffs v (v.periodEndOf n) ++ ws) (v.periodEndOf n) := by
  have hload := periodEndOf_load hl
  rw [hf.period, hf.timeBase] at hload
  refine ⟨fun hm => ?_, _, hload, .inl rfl, fun hi hd => .inr ⟨List.mem_append_left _ ?_, rfl⟩⟩
  · rcases List.mem_append.mp hm with hm | hm
    · obtain ⟨k, hk⟩ := dueHandoffs_evaluate hm; simp at hk
    · exact hn hm
  · exact evaluate_mem_dueHandoffs hload hd (by simp [State.stateOf, hl, hi])

theorem State.Sampled.periodEnd (h : b.Sampled n ra (.periodEnd m :: ws) v) : b.Sampled n ra ws (v.periodEndOf m) := by
  obtain ⟨hmem, r', hl, hr, hj⟩ := h
  have hm : n ≠ m := fun e => hmem (by simp [e])
  exact ⟨fun hh => hmem (List.mem_cons_of_mem _ hh), r', (periodEndOf_load_ne hm).trans hl, hr,
    fun hi hd => (hj hi hd).imp_right (fun ⟨he, e⟩ => ⟨(List.mem_cons.mp he).resolve_left (by simp), e⟩)⟩

/-- More plain hand-offs that wait, or the same in another order, leave a record at its stage. -/
theorem State.Unsampled.mono (h : b.Unsampled n r ws v) (hw : ∀ w ∈ ws, w ∈ ws') : b.Unsampled n r ws' v := ⟨hw _ h.1, h.2⟩

theorem State.Sampled.mono (h : b.Sampled n ra ws v) (hw : ∀ w ∈ ws, w ∈ ws') (hp : ∀ w ∈ ws', w ∈ ws ∨ w.plain) :
    b.Sampled n ra ws' v := by
  obtain ⟨hmem, r', hl, hr, hj⟩ := h
  exact ⟨fun hh => (hp _ hh).elim hmem id, r', hl, hr, fun hi hd => (hj hi hd).imp_right (fun ⟨he, e⟩ => ⟨hw _ he, e⟩)⟩

/-- Load `n` at its stage: its period end waits, or has been taken at a record of which `X` holds. -/
def State.PeriodStage (b : State) (n : Nat) (r : LoadRecord) (X : LoadRecord → Prop) (ws : List Work) (v : State) : Prop :=
  (b.Unsampled n r ws v ∧ ∀ ra, HandedOn b.timeBase r ra → X ra) ∨ ∃ ra, X ra ∧ b.Sampled n ra ws v

variable {X : LoadRecord → Prop}

theorem State.PeriodStage.mono (h : b.PeriodStage n r X ws v) (hw : ∀ w ∈ ws, w ∈ ws') (hp : ∀ w ∈ ws', w ∈ ws ∨ w.plain) :
    b.PeriodStage n r X ws' v := by
  rcases h with ⟨h, hX⟩ | ⟨ra, hX, h⟩
  · exact .inl ⟨h.mono hw, hX⟩
  · exact .inr ⟨ra, hX, h.mono hw hp⟩

theorem State.PeriodStage.plain (hf : PeriodFrame b v) (hw : w.plain) (h : b.PeriodStage n r X (w :: ws) v) :
    b.PeriodStage n r X ws (w.run v).1 := by
  rcases h with ⟨h, hX⟩ | ⟨ra, hX, h⟩
  · exact .inl ⟨h.plain hf hw, hX⟩
  · exact .inr ⟨ra, hX, h.plain hf hw⟩

theorem evaluations_plain {s0 s1 : State} (hw : w ∈ dueHandoffs s0 s1) : w.plain := by
  obtain ⟨m, rfl⟩ := dueHandoffs_evaluate hw
  trivial

/-- Taking a hand-off of the step, with the evaluations that its change calls for. -/
theorem State.PeriodStage.run (hf : PeriodFrame b v) (hw : w.ofPeriod) (hn : w ∉ ws) (h : b.PeriodStage n r X (w :: ws) v) :
    PeriodFrame b (w.run v).1 ∧ b.PeriodStage n r X (dueHandoffs v (w.run v).1 ++ ws) (w.run v).1 := by
  have widen : ∀ {u : State}, b.PeriodStage n r X ws u → b.PeriodStage n r X (dueHandoffs v u ++ ws) u := fun h' =>
    h'.mono (fun _ hm => List.mem_append_right _ hm)
      (fun _ hm => (List.mem_append.mp hm).symm.imp_right evaluations_plain)
  rcases hw with hw | ⟨m, rfl⟩
  · exact ⟨hf.plain hw, widen (h.plain hf hw)⟩
  · refine ⟨hf.periodEnd m, ?_⟩
    rcases h with ⟨h, hX⟩ | ⟨ra, hX, h⟩
    · by_cases hm : n = m
      · subst hm
        obtain ⟨-, ra, hl, hr⟩ := h
        exact .inr ⟨ra, hX ra hr, hf.sampled hl hn⟩
      · exact widen (.inl ⟨h.periodEnd_ne hm, hX⟩)
    · exact widen (.inr ⟨ra, hX, h.periodEnd⟩)

/-- What holds of the waiting hand-offs and the state at every moment of a step of a period end. -/
structure State.InPeriod (b : State) (n : Nat) (r : LoadRecord) (X : LoadRecord → Prop) (ws : List Work) (v : State) : Prop where
  frame : PeriodFrame b v
  single : ws.Nodup
  kinds : ∀ w ∈ ws, w.ofPeriod
  stage : b.PeriodStage n r X ws v

theorem ofPeriod_run (hw : w.ofPeriod) (v : State) : (w.run v).2 = [] := by
  rcases hw with hw | ⟨m, rfl⟩
  · exact run_plain_work hw v
  · rfl

theorem State.InPeriod.take (h : b.InPeriod n r X (w :: ws) v) :
    b.InPeriod n r X (addWork ws ((w.run v).2 ++ handoffs v (w.run v).1)) (w.run v).1 := by
  obtain ⟨hf, hs, hk, hst⟩ := h
  have hw := hk w List.mem_cons_self
  obtain ⟨hf', hst'⟩ := hst.run hf hw (List.nodup_cons.mp hs).1
  rw [ofPeriod_run hw, List.nil_append]
  refine ⟨hf', addWork_nodup (List.nodup_cons.mp hs).2, fun x hx => ?_,
    hst'.mono (fun x hx => mem_addWork_of ((List.mem_append.mp hx).symm.imp_right dueHandoffs_mem)) (fun x hx => ?_)⟩
  · rcases mem_addWork hx with hx | hx
    · exact hk x (List.mem_cons_of_mem _ hx)
    · exact .inl (handoffs_plain _ _ x hx)
  · rcases mem_addWork hx with hx | hx
    · exact .inl (List.mem_append_right _ hx)
    · exact .inr (handoffs_plain _ _ x hx)

/-- The evaluations that a hand-off leaves at the bound of a step. -/
theorem State.PeriodStage.evaluations {l : List Work} (hl : ∀ w ∈ l, ∃ m, w = .evaluate m) (hf : PeriodFrame b v)
    (h : b.PeriodStage n r X (l ++ ws) v) :
    PeriodFrame b (l.foldl State.finishLeft v) ∧ b.PeriodStage n r X ws (l.foldl State.finishLeft v) := by
  induction l generalizing v with
  | nil => exact ⟨hf, h⟩
  | cons w rest ih =>
    obtain ⟨m, rfl⟩ := hl w List.mem_cons_self
    have hp : (Work.evaluate m).plain := trivial
    exact ih (fun w hw => hl w (List.mem_cons_of_mem _ hw)) (hf.plain hp) (h.plain hf hp)

theorem State.InPeriod.finish (h : b.InPeriod n r X (w :: ws) v) : b.InPeriod n r X ws (w.finish v) := by
  obtain ⟨hf, hs, hk, hst⟩ := h
  have hw := hk w List.mem_cons_self
  obtain ⟨hf', hst'⟩ := hst.run hf hw (List.nodup_cons.mp hs).1
  unfold Work.finish
  rw [ofPeriod_run hw, List.nil_append]
  obtain ⟨h1, h2⟩ := hst'.evaluations (fun _ => dueHandoffs_evaluate) hf'
  exact ⟨h1, (List.nodup_cons.mp hs).2, fun x hx => hk x (List.mem_cons_of_mem _ hx), h2⟩

/-- A hand-off that would change nothing is no period end of a live record and no evaluation of a DUE one. -/
theorem State.PeriodStage.idle (h : b.PeriodStage n r X ws v) : b.PeriodStage n r X (ws.filter (fun w => !w.idle v)) v := by
  rcases h with ⟨⟨hm, ra, hl, hr⟩, hX⟩ | ⟨ra, hX, hm, r', hl, hr, hj⟩
  · exact .inl ⟨⟨List.mem_filter.mpr ⟨hm, by simp [Work.idle, hl]⟩, ra, hl, hr⟩, hX⟩
  · refine .inr ⟨ra, hX, fun hh => hm (List.mem_of_mem_filter hh), r', hl, hr,
      fun hi hd => (hj hi hd).imp_right (fun ⟨he, e⟩ => ⟨?_, e⟩)⟩
    exact List.mem_filter.mpr ⟨he, by simp [Work.idle, State.stateOf, hl, e, hd]⟩

theorem PeriodFrame.choices (hf : PeriodFrame b v) (k : Nat) : PeriodFrame b { v with choices := k } :=
  ⟨hf.frozen, hf.plans, hf.authority, hf.canonical, hf.lamps⟩

/-- A step of a period end ends with every period end taken and every record that it has brought from IDLE to DUE judged. -/
theorem settleLoop_period (h : b.InPeriod n r X ws v) (fuel : Nat) : b.InPeriod n r X [] (settleLoop fuel ws v) := by
  refine settleLoop_waiting ?_ ?_ ?_ (fun _ _ _ h => h.take) (fun _ _ _ h => h.finish) fuel ws v h
  · intro ws ws' s hp h
    exact ⟨h.frame, hp.nodup_iff.mp h.single, fun w hw => h.kinds w (hp.mem_iff.mpr hw),
      h.stage.mono (fun _ hw => hp.mem_iff.mp hw) (fun _ hw => .inl (hp.mem_iff.mpr hw))⟩
  · intro ws s h
    exact ⟨h.frame, h.single.filter _, fun w hw => h.kinds w (List.mem_of_mem_filter hw), h.stage.idle⟩
  · intro ws s k h
    exact ⟨h.frame.choices k, h.single, h.kinds, h.stage⟩

/-! ### The row -/

/-- The state in which the period ends of a step begin: the next one scheduled (R25). -/
def State.periodBegun (s : State) : State := { s with periodEnd := s.periodEnd + s.period }

/-- The period end of every live record (R26). -/
def State.periodWork (s : State) : List Work := s.loads.map (fun e => .periodEnd e.1)

theorem exec_activityPeriodEnd (h : s.periodEnd ≤ s.timeBase) :
    exec .activityPeriodEnd s = .next (s.settle s.periodBegun s.periodWork) := by
  simp [exec, execActivityPeriodEnd, h, State.runEvent, State.periodBegun, State.periodWork]

theorem periodBegun_handoffs (hc : Table.Canonical 240 s.loads) : handoffs s s.periodBegun = [] :=
  handoffs_elsewhere hc rfl rfl rfl rfl rfl rfl

theorem periodBegun_frame (hc : Table.Canonical 240 s.loads) : PeriodFrame s.periodBegun s.periodBegun :=
  ⟨rfl, rfl, rfl, hc, fun _ => rfl⟩

/-- The step of a period end keeps what its hand-offs keep. -/
theorem settle_periodFrame (hc : Table.Canonical 240 s.loads) : PeriodFrame s.periodBegun (s.settle s.periodBegun s.periodWork) := by
  refine settle_induction (Q := Work.ofPeriod) (fun _ k h => h.choices k) (fun w v hw h => ?_) (fun w v hw _ x hx => ?_) (fun w hw => ?_)
    (periodBegun_frame hc)
  · rcases hw with hw | ⟨m, rfl⟩
    · exact h.plain hw
    · exact h.periodEnd m
  · rw [ofPeriod_run hw, List.nil_append] at hx
    exact .inl (handoffs_plain _ _ x hx)
  · rcases List.mem_append.mp hw with hw | hw
    · obtain ⟨e, -, rfl⟩ := List.mem_map.mp hw
      exact .inr ⟨e.1, rfl⟩
    · exact .inl (handoffs_plain _ _ w hw)

/-- Every record takes its period end in the step, hand-offs coming before it and after. -/
theorem settle_inPeriod (hc : Table.Canonical 240 s.loads) (hl : s.load n = some r) :
    s.periodBegun.InPeriod n r (HandedOn s.timeBase r) [] (s.settle s.periodBegun s.periodWork) := by
  unfold State.settle
  rw [periodBegun_handoffs hc, List.append_nil]
  have hkinds : ∀ w ∈ addWork [] s.periodWork, w.ofPeriod := fun w hw => by
    obtain ⟨e, -, rfl⟩ := List.mem_map.mp ((mem_addWork hw).resolve_left (by simp))
    exact .inr ⟨e.1, rfl⟩
  have hmem : Work.periodEnd n ∈ addWork [] s.periodWork :=
    mem_addWork_of (.inr (List.mem_map.mpr ⟨(n, r), Table.mem_of_find hl, rfl⟩))
  exact settleLoop_period ⟨periodBegun_frame hc, addWork_nodup List.nodup_nil, hkinds,
    .inl ⟨⟨hmem, r, hl, .inl rfl⟩, fun _ h => h⟩⟩ _

/-- With one record live its period end is taken first. -/
theorem settle_inPeriod_single (hc : Table.Canonical 240 s.loads) (hs : s.loads = [(n, r)]) :
    s.periodBegun.InPeriod n r (· = r) [] (s.settle s.periodBegun s.periodWork) := by
  have hl : s.periodBegun.load n = some r := by simp [State.load, State.periodBegun, hs, Table.find]
  have hf := periodBegun_frame hc
  rw [settle_single (w := .periodEnd n) (by rw [periodBegun_handoffs hc]; simp [State.periodWork, hs]), if_neg (by simp [Work.idle, hl])]
  have hplain : ∀ w ∈ addWork [] (handoffs s.periodBegun (s.periodBegun.periodEndOf n)), w.plain := fun w hw =>
    handoffs_plain _ _ w ((mem_addWork hw).resolve_left (by simp))
  refine settleLoop_period (X := (· = r))
    ⟨hf.periodEnd n, addWork_nodup List.nodup_nil, fun w hw => .inl (hplain w hw), .inr ⟨r, rfl, ?_⟩⟩ _
  exact (hf.sampled (ws := []) hl (by simp)).mono (fun w hw => mem_addWork_of (.inr (dueHandoffs_mem (by simpa using hw))))
    (fun w hw => .inr (hplain w hw))

/-- What the end of such a step says of a record. -/
theorem State.InPeriod.ended {X : LoadRecord → Prop} (h : b.InPeriod n r X [] v) :
    ∃ ra r', X ra ∧ v.load n = some r' ∧ HandedOn b.timeBase (ra.periodEnded b.period b.timeBase) r'
      ∧ (ra.state = .idle → (ra.periodEnded b.period b.timeBase).state = .due →
          b.Judged b.authority n (ra.periodEnded b.period b.timeBase) r') := by
  rcases h.stage with ⟨⟨hm, -⟩, -⟩ | ⟨ra, hX, -, r', hl, hr, hj⟩
  · simp at hm
  · exact ⟨ra, r', hX, hl, hr, fun hi hd => (hj hi hd).resolve_right (fun ⟨hm, _⟩ => by simp at hm)⟩

/-- One record in the step of a period end that is due. -/
theorem settle_period_record (hc : Table.Canonical 240 s.loads) (hl : s.load n = some r) :
    ∃ ra r', HandedOn s.timeBase r ra ∧ (s.loads = [(n, r)] → ra = r)
      ∧ (s.settle s.periodBegun s.periodWork).load n = some r' ∧ HandedOn s.timeBase (ra.periodEnded s.period s.timeBase) r'
      ∧ (r.state = .idle → (ra.periodEnded s.period s.timeBase).state = .due →
          s.Judged s.authority n (ra.periodEnded s.period s.timeBase) r') := by
  by_cases hs : s.loads = [(n, r)]
  · obtain ⟨ra, r', rfl, h1, h2, h3⟩ := (settle_inPeriod_single hc hs).ended
    exact ⟨ra, r', .inl rfl, fun _ => rfl, h1, h2, h3⟩
  · obtain ⟨ra, r', hr, h1, h2, h3⟩ := (settle_inPeriod hc hl).ended
    refine ⟨ra, r', hr, fun h => absurd h hs, h1, h2, fun hi => h3 ?_⟩
    rw [hr.still (by simp [hi]) (by simp [hi]) (.inl (by simp [hi])), hi]

/-- Settles O38: a period end by the record's state is `periodEnded_by_state`; the step of all of them is `settle_period_record`. -/
theorem periodEndJudgesActivity : Obligations.PeriodEndJudgesActivity := by
  unfold Obligations.PeriodEndJudgesActivity
  refine ⟨?_, fun s hc => ⟨fun h => ?_, fun h => ?_⟩⟩
  · rintro s n r hl none' kept sample level rfl rfl rfl rfl
    obtain ⟨hnone, hsome⟩ := periodEnded_by_state r s.period s.timeBase
    have hsampled : r.sampled = { r with
        figures := { strokeSum := 0, largest := none, seen := false }
        level := min 65535 (r.level - r.level / 2 ^ r.tuning.smoothing + min 1023
          (r.figures.strokeSum * r.tuning.strokeWeight + (r.figures.largest.getD 0 - r.tuning.currentFloor))) } := rfl
    rw [periodEndOf_load hl]
    refine ⟨fun h => congrArg some (hnone h), fun h => ?_⟩
    obtain ⟨hidle, hrun, hback, hidled, hdue, hrise, hstay, hrest⟩ := hsome h
    refine ⟨fun hs hx => ?_, fun hs hx => congrArg some (hrun hs hx), fun hs hx => ?_, fun hs hx hy => congrArg some (hidled hs hx hy),
      fun hs hx hy => ?_, fun hs hx hp => ?_, fun hs hx => congrArg some (hstay hs hx),
      fun h1 h2 h3 => congrArg some (hrest h1 h2 h3)⟩
    · rw [hidle hs hx, entering_idle]; rfl
    · rw [hback hs hx, entering_run, hsampled]; simp [hs, writesRunSince]
    · rw [hdue hs hx hy, entering_due]; rfl
    · rw [hrise hs hx hp, entering_run, hsampled]; simp [hs, hp, writesRunSince]
  · have hnot : ¬ s.periodEnd ≤ s.timeBase := Nat.not_le.mpr h
    simp [exec, execActivityPeriodEnd, hnot]
  · have hf := settle_periodFrame hc.loads
    obtain ⟨-, -, -, -, -, -, -, hperiod, hend, -⟩ := frozen_field hf.frozen
    refine ⟨_, exec_activityPeriodEnd h, hend, hperiod, hf.authority, hf.plans, fun n r hl => ?_⟩
    obtain ⟨ra, r', hr, hsingle, hl', hr', hj⟩ := settle_period_record hc.loads hl
    obtain ⟨hfig, hlev, -⟩ := periodEnded_figures ra s.period s.timeBase
    obtain ⟨hfa, hla, hta⟩ := hr.activity
    obtain ⟨hfb, hlb, -⟩ := hr'.activity
    refine ⟨ra, ra.periodEnded s.period s.timeBase, r', hr, periodEndOf_load (s := s.setLoad n ra) (by simp), hl', hr', hsingle, hj,
      hfb.trans hfig, fun hs => ?_, fun hs => ?_⟩
    · rw [hlb, hlev, hfa, if_pos hs, hla]
    · rw [hlb, hlev, hfa, if_neg (by simp [hs])]
      simp only [LoadRecord.newLevel, LoadRecord.sample, nextLevel, hfa, hla, hta]

end Sys2Proof.Machine
end

section
/-! SUPPORT. A valid report and the step it is taken in: what its record has heard, and what the hand-offs of the step leave
(R27, R28, R30, R49, R79, R151). -/

namespace Sys2Proof.Machine

variable {s t u v : State} {n m : Nat} {r x g : LoadRecord} {new old : LoadState} {out : Option (Operation × OpResult)} {rep : Report}
  {l : Fin 4} {a : Nat} {sent : Commanded}

/-! ### The record -/

/-- A record that has heard a valid report and changed no state by it (R27, R49, R79, R151). -/
def LoadRecord.heard (r : LoadRecord) (rep : Report) : LoadRecord :=
  { ({ r with missCount := 0 } : LoadRecord).gathered rep.strokes rep.current with
    lastRun := some rep.run, isolatorHold := rep.isolatorOpen, buttonTaken := rep.button }

@[simp] theorem heard_state (r : LoadRecord) (rep : Report) : (r.heard rep).state = r.state := rfl

/-- R28: the stroke delta as numbers. -/
theorem strokeDelta_some (b c : Byte) : strokeDelta (some b) c = (c.toNat + 256 - b.toNat) % 256 := by
  have hb := b.isLt
  simp only [strokeDelta, BitVec.toNat_sub]
  omega

/-! ### Load `n` within the step -/

/-- A moment in the step of a valid report that began in `s`: the record of load `n` stands as `g`, and the clocks, the holds and the
settle time as they stood. -/
structure State.Heard (s : State) (n : Nat) (g : LoadRecord) (v : State) : Prop where
  load : v.load n = some g
  timeBase : v.timeBase = s.timeBase
  stamp : v.stamp = s.stamp
  settleTime : v.settleTime = s.settleTime
  holds : v.holds = s.holds
  canonical : Table.Canonical 240 v.loads

theorem State.Heard.of_frozen (h : s.Heard n g v) (hf : u.frozen = v.frozen) (hl : u.load n = some x)
    (hc : Table.Canonical 240 u.loads) : s.Heard n x u := by
  obtain ⟨h1, -, h3, -, -, -, -, -, -, -, -, h12, -, h14, -⟩ := frozen_field hf
  exact ⟨hl, h1.trans h.timeBase, by rw [← h.stamp]; unfold State.stamp; rw [h3], h14.trans h.settleTime, h12.trans h.holds, hc⟩

theorem State.Heard.setLoad (h : s.Heard n g v) (x : LoadRecord) : s.Heard n x (v.setLoad n x) :=
  h.of_frozen rfl (by simp) (Table.canonical_put h.canonical (Table.lt_of_find h.canonical h.load) x)

theorem State.Heard.mark (h : s.Heard n g v) : s.Heard n g (v.mark n) := ⟨h.load, h.timeBase, h.stamp, h.settleTime, h.holds, h.canonical⟩

theorem State.Heard.forgetFailed (h : s.Heard n g v) : s.Heard n g (v.forgetFailed n) :=
  ⟨h.load, h.timeBase, h.stamp, h.settleTime, h.holds, h.canonical⟩

theorem State.Heard.modifyLoad (h : s.Heard n g v) (f : LoadRecord → LoadRecord) : s.Heard n (f g) (v.modifyLoad n f) := by
  have : v.modifyLoad n f = v.setLoad n (f g) := by simp [State.modifyLoad, h.load]
  rw [this]
  exact h.setLoad _

/-- A change of the record's state writes what it would have written in the state the step began in. -/
theorem State.Heard.moveTo (h : s.Heard n g v) (new : LoadState) (out : Option (Operation × OpResult)) :
    s.Heard n (s.movedRecord g new out) (v.moveTo n new out) := by
  refine h.of_frozen (frozen_moveTo _ _ _ _) ?_ (moveTo_canonical h.canonical)
  rw [moveTo_load_self h.load]
  unfold State.movedRecord State.outcomeOf
  rw [h.timeBase, h.stamp]

theorem State.Heard.ranByReport (h : s.Heard n g v) (old : LoadState) : s.Heard n g (v.ranByReport n old) := by
  unfold State.ranByReport
  split
  · exact h.forgetFailed
  · exact h

theorem State.Heard.keepOffLeft (h : s.Heard n g v) : s.Heard n g (v.keepOffLeft n) := by
  unfold State.keepOffLeft
  split
  · exact h
  · exact h.forgetFailed

/-- R83: a KEEP-OFF hold that appears acts on a start alone. -/
theorem keepOffAppears_calm (hl : v.load n = some g) (hq : g.state ≠ .queued) (hs : g.state ≠ .starting) : v.keepOffAppears n = v := by
  unfold State.keepOffAppears
  split
  · rfl
  · rename_i g' hl'
    cases hl.symm.trans hl'
    split
    · exact absurd ‹_› hq
    · exact absurd ‹_› hs
    · rfl

/-- R53: a press is ignored in these states. -/
theorem press_ignored (hl : v.load n = some g) (h : g.state = .queued ∨ g.state = .starting ∨ g.state = .fault ∨ g.state = .retiring)
    (b : Bool) : v.press n b = v := by
  have hs : v.stateOf n = some g.state := stateOf_eq.mpr ⟨g, hl, rfl⟩
  unfold State.press
  rcases h with e | e | e | e <;> rw [e] at hs <;> simp only [hs]

/-- The isolator flag moves the isolator hold and no more, but where it opens on a start (R79, R83). -/
theorem State.Heard.followIsolator (h : s.Heard n g v) {b : Bool}
    (hb : b = g.isolatorHold ∨ b = false ∨ (g.state ≠ .queued ∧ g.state ≠ .starting)) :
    s.Heard n { g with isolatorHold := b } (v.followIsolator n b) := by
  unfold State.followIsolator
  simp only [h.load]
  split
  · rename_i he
    subst he
    exact h
  · rename_i hne
    have h1 := (h.setLoad { g with isolatorHold := b }).mark
    split
    · rename_i hopen
      obtain ⟨hq, hs⟩ := (hb.resolve_left (fun e => hne e.symm)).resolve_left (by simp [hopen])
      rw [keepOffAppears_calm h1.load hq hs]
      exact h1
    · exact h1.keepOffLeft

/-- A report that brings no change by its local flag, by an isolator that opens on a start, or by a press that has an effect. -/
structure Report.Calm (rep : Report) (r : LoadRecord) : Prop where
  flag : r.state = .retiring ∨ (rep.localFlag = false ∧ r.state ≠ .inLocal)
  press : rep.button = r.buttonTaken ∨ r.state = .queued ∨ r.state = .starting ∨ r.state = .fault ∨ r.state = .retiring
  isolator : rep.isolatorOpen = r.isolatorHold ∨ rep.isolatorOpen = false ∨ (r.state ≠ .queued ∧ r.state ≠ .starting)

/-- The local flag of a calm report does nothing (R51, R52). -/
theorem localStep_calm (hl : v.load n = some g) (hf : g.state = .retiring ∨ (rep.localFlag = false ∧ g.state ≠ .inLocal)) :
    v.localStep n rep = v := by
  unfold State.localStep
  split
  · rfl
  · rename_i hs
    obtain ⟨g', hl', hi⟩ := stateOf_eq.mp hs
    cases hl.symm.trans hl'
    rcases hf with hf | ⟨-, hf⟩ <;> simp [hi] at hf
  · rfl
  · rfl
  · rename_i st h1 h2 h3 hs
    obtain ⟨g', hl', hi⟩ := stateOf_eq.mp hs
    cases hl.symm.trans hl'
    rcases hf with hf | ⟨hf, -⟩
    · exact absurd (hi.symm.trans hf) h3
    · simp [hf]

/-- The button count of a calm report is taken and no more (R53). -/
theorem State.Heard.buttonStep (h : s.Heard n g v) (b : Bool)
    (hp : rep.button = g.buttonTaken ∨ g.state = .queued ∨ g.state = .starting ∨ g.state = .fault ∨ g.state = .retiring) :
    s.Heard n { g with buttonTaken := rep.button } (v.buttonStep n rep b) := by
  unfold State.buttonStep
  simp only [h.load]
  split
  · rename_i he
    rw [← he]
    exact h
  · rename_i hne
    have h1 := h.setLoad { g with buttonTaken := rep.button }
    rw [press_ignored h1.load (hp.resolve_left (fun e => hne e.symm))]
    exact h1

/-- A calm report to a record that is not UNKNOWN acts by its run state alone (R49). -/
theorem State.Heard.laterReport (h : s.Heard n g v) (hc : rep.Calm g) (sent : Commanded) :
    ∃ w, v.laterReport n g.state rep sent = w.runStep n rep sent
      ∧ s.Heard n { g with lastRun := some rep.run, isolatorHold := rep.isolatorOpen, buttonTaken := rep.button } w := by
  have h1 := h.modifyLoad (fun r => { r with lastRun := some rep.run })
  have h2 := h1.followIsolator (b := rep.isolatorOpen) hc.isolator
  have hs2 : ((v.modifyLoad n (fun r => { r with lastRun := some rep.run })).followIsolator n rep.isolatorOpen).stateOf n = some g.state :=
    stateOf_eq.mpr ⟨_, h2.load, rfl⟩
  have h3 := localStep_calm h2.load hc.flag
  have h4 := fun b => h2.buttonStep b hc.press
  have hs4 := fun b => stateOf_eq.mpr ⟨_, (h4 b).load, rfl⟩
  unfold State.laterReport
  simp only [hs2, if_true, h3]
  rw [if_pos (hs4 _)]
  exact ⟨_, rfl, h4 _⟩

/-! ### After the hand-offs of the step -/

theorem State.Heard.settled (h : s.Heard n g v) : ∃ r', (s.settle v []).load n = some r' ∧ HandedOn s.timeBase g r' := by
  have hq : Quiet v (s.settle v []) := settle_quiet (by simp)
  rw [← h.timeBase]
  exact hq.record h.canonical n g h.load

theorem State.Heard.settled_still (h : s.Heard n g v) (h1 : g.state ≠ .due) (h2 : g.state ≠ .queued) (h3 : g.state ≠ .stopped) :
    (s.settle v []).load n = some g := by
  obtain ⟨r', hl, hr⟩ := h.settled
  rw [hl, hr.still h1 h2 (.inl h3)]

theorem settled_marks (h : n ∈ v.marks) : n ∈ (s.settle v []).marks :=
  have hq : Quiet v (s.settle v []) := settle_quiet (by simp)
  hq.marks n h

@[simp] theorem ranByReport_marks (v : State) (n : Nat) (old : LoadState) : (v.ranByReport n old).marks = v.marks := by
  unfold State.ranByReport
  split <;> rfl

/-- A change of the record's state by a report, and what the step leaves of it. -/
theorem State.Heard.settled_moved (h : s.Heard n g v) (new old : LoadState) (out : Option (Operation × OpResult)) :
    n ∈ (s.settle ((v.moveTo n new out).ranByReport n old) []).marks
      ∧ ∃ r', (s.settle ((v.moveTo n new out).ranByReport n old) []).load n = some r'
        ∧ HandedOn s.timeBase (s.movedRecord g new out) r' :=
  ⟨settled_marks (by rw [ranByReport_marks]; exact moveTo_marks_self h.load), ((h.moveTo new out).ranByReport old).settled⟩

theorem State.Heard.settled_moved_still (h : s.Heard n g v) (old : LoadState) (out : Option (Operation × OpResult)) (h1 : new ≠ .due)
    (h2 : new ≠ .queued) (h3 : new ≠ .stopped) :
    (s.settle ((v.moveTo n new out).ranByReport n old) []).load n = some (s.movedRecord g new out) :=
  ((h.moveTo new out).ranByReport old).settled_still (by simpa using h1) (by simpa using h2) (by simpa using h3)

end Sys2Proof.Machine
end

section
/-! SUPPORT. A valid report leaves its line free and its drop not LOST (R151); the failed-raise sets it leaves (R116, R117); the feeder of a
start that it ends (R125). -/

namespace Sys2Proof.Machine

variable {s t u v w p : State} {n m : Nat} {r g x : LoadRecord} {new old : LoadState} {out : Option (Operation × OpResult)} {rep : Report}
  {l : Fin 4} {a : Nat} {sent : Commanded} {f : Fin 8}

/-! ### The end of a valid exchange -/

/-- A valid exchange before its report: the exchange over, the miss count 0 and the drop not LOST (R151). -/
def State.exchanged (s : State) (l : Fin 4) (n : Nat) (r : LoadRecord) (a : Nat) : State :=
  ((s.setLine l { s.lineAt l with exchange := none }).setLoad n { r with missCount := 0 }).setLine l
    { s.lineAt l with exchange := none, lost := NatSet.remove (s.lineAt l).lost a }

theorem exec_replyEnd_valid {e : Exchange} {samples : List (BitVec 11)} (he : (s.lineAt l).exchange = some e) (hn : e.load = some n)
    (hl : s.load n = some r) (hj : judge e.address (receivedChars samples) = .valid rep) :
    exec (.replyEnd l samples) s = .next (s.settle ((s.exchanged l n r e.address).report n rep e.order.commanded) []) := by
  have hline : ∀ x y, (((s.setLine l x).setLoad n y).lineAt l) = x := fun x y =>
    (lineAt_congr (s := s.setLine l x) rfl l).trans (by simp)
  simp only [exec, execReplyEnd, State.runEvent, State.endExchange, he, hn, hj, State.validDrop, State.modifyLoad, load_setLine, hl, hline,
    State.exchanged]

theorem exchanged_heard (hc : Table.Canonical 240 s.loads) (hl : s.load n = some r) (l : Fin 4) (a : Nat) :
    s.Heard n { r with missCount := 0 } (s.exchanged l n r a) :=
  ⟨by simp [State.exchanged], rfl, rfl, rfl, rfl, Table.canonical_put hc (Table.lt_of_find hc hl) _⟩

/-- The line after a valid exchange: no exchange in flight, and the drop not LOST. -/
def State.LineFree (l : Fin 4) (a : Nat) (v : State) : Prop := (v.lineAt l).exchange = none ∧ a ∉ (v.lineAt l).lost

theorem exchanged_lineFree (s : State) (l : Fin 4) (n : Nat) (r : LoadRecord) (a : Nat) : State.LineFree l a (s.exchanged l n r a) := by
  simp [State.LineFree, State.exchanged]

/-- No change of a report begins an exchange or declares a drop LOST. -/
theorem Change.lineFree {A : Prop} {k : Kind} (h : Change A k u v) (hk : k.reported = true ∨ k.released = true)
    (hu : State.LineFree l a u) : State.LineFree l a v := by
  obtain ⟨he, hm⟩ := hu
  rcases h.line_cases l with e | ⟨-, n, r, -, -, e⟩ | ⟨-, n, r, -, -, -, e⟩ | hw | ⟨rfl, -⟩
  · exact ⟨by rw [e, he], by rwa [e]⟩
  · obtain ⟨q, hq, -⟩ := (u.lineAt l).offer_eq r.address
    rw [State.LineFree, e, hq]
    exact ⟨he, hm⟩
  · rw [State.LineFree, e]
    exact ⟨by simp [Line.forget, he], fun h => hm ((NatSet.mem_remove _ _ _).mp h).1⟩
  · generalize v.lineAt l = y at hw
    cases hw <;> simp [Kind.reported, Kind.released] at hk
  · simp [Kind.reported, Kind.released] at hk

theorem report_lineFree (rep : Report) (sent : Commanded) (h : State.LineFree l a v) : State.LineFree l a (v.report n rep sent) := by
  obtain ⟨h1, h2⟩ := report_chain (A := True) (s := v) (n := n) rep sent (K := fun k => k.reported = true ∨ k.released = true)
  have hch : Chain True (fun k => k.reported = true ∨ k.released = true) v (v.report n rep sent) := by
    by_cases hr : v.stateOf n = some .retiring
    · exact h2 hr (fun k hk => .inr hk)
    · exact h1 hr (fun k hk _ => .inl hk)
  exact hch.keeps (fun k a b hk hc ha => hc.lineFree hk ha) h

theorem settled_lineFree (h : State.LineFree l a v) : State.LineFree l a (s.settle v []) := by
  have hq : Quiet v (s.settle v []) := settle_quiet (by simp)
  obtain ⟨u, hu⟩ := frozen_lines hq.frozen l
  rw [State.LineFree, hu]
  exact h

/-! ### The failed-raise sets -/

/-- Load `n` is in no failed-raise set, and no group raises it. -/
def State.Clear (n : Nat) (v : State) : Prop := ∀ k x, v.group k = some x → n ∉ x.failed ∧ x.state ≠ .raising n

theorem clear_forgetFailed (h : ∀ k x, v.group k = some x → x.state ≠ .raising n) : State.Clear n (v.forgetFailed n) := by
  intro k x hx
  have hg : (v.forgetFailed n).group k = (v.group k).map (fun x => { x with failed := NatSet.remove x.failed n }) := by
    simp [State.group]
  obtain ⟨y, hy, rfl⟩ := Option.map_eq_some_iff.mp (hg.symm.trans hx)
  exact ⟨by simp, h k y hy⟩

/-- R116: a raise of a load that has left QUEUED and STARTING is over. -/
theorem follow_not_raising (x : Group) (hq : new ≠ .queued) (hs : new ≠ .starting) : (x.follow n new).state ≠ .raising n := by
  unfold Group.follow
  split
  · simp
  · rename_i h
    exact fun hr => h ⟨hr, hq, hs⟩

theorem State.Clear.moveTo (h : State.Clear n v) (hl : v.load n = some g) (new : LoadState) (out : Option (Operation × OpResult)) :
    State.Clear n (v.moveTo n new out) := by
  intro k x hx
  rw [moveTo_group hl] at hx
  obtain ⟨y, hy, rfl⟩ := Option.map_eq_some_iff.mp hx
  obtain ⟨h1, h2⟩ := h k y hy
  have : y.follow n new = y := if_neg (fun hh => h2 hh.1)
  rw [this]
  exact ⟨h1, h2⟩

theorem State.Clear.ranByReport (h : State.Clear n v) (old : LoadState) : State.Clear n (v.ranByReport n old) := by
  unfold State.ranByReport
  split
  · exact clear_forgetFailed (fun k x hx => (h k x hx).2)
  · exact h

/-- R117: a provider that a report brings into RUN leaves the failed-raise sets. -/
theorem clear_ranByReport (hl : v.load n = some g) (out : Option (Operation × OpResult)) (h : old ≠ .run) :
    State.Clear n ((v.moveTo n .run out).ranByReport n old) := by
  have hs : (v.moveTo n .run out).stateOf n = some .run := stateOf_eq.mpr ⟨_, moveTo_load_self hl, by simp⟩
  unfold State.ranByReport
  rw [if_pos ⟨h, hs⟩]
  refine clear_forgetFailed (fun k x hx => ?_)
  rw [moveTo_group hl] at hx
  obtain ⟨y, -, rfl⟩ := Option.map_eq_some_iff.mp hx
  exact follow_not_raising y (by simp) (by simp)

theorem State.Clear.settled (h : State.Clear n v) : ∀ k x, (s.settle v []).group k = some x → n ∉ x.failed := by
  have hu : Untried n v.stateOf v.group := fun k x hx => ⟨(h k x hx).1, fun hr => absurd hr (h k x hx).2⟩
  intro k x hx
  exact (hu.settled (work := []) (by simp) k x hx).1

/-! ### The feeder of a start that ends -/

/-- R125: the feeder of a record that leaves STARTING. -/
theorem moveTo_feeder_self (hl : v.load n = some g) (hn : new ≠ .starting) (hs : g.state = .starting) :
    (v.moveTo n new out).feeders[g.feeder]
      = if v.settleTime = 0 then .free else .settling (v.timeBase + v.settleTime) := by
  simp only [State.moveTo, hl, hs, hn, if_true, if_false]
  split <;> split <;> simp [State.settleFeeder, State.offerUrgent] <;> rfl

theorem moveTo_feeder_granted (hl : v.load n = some g) : (v.moveTo n .starting out).feeders[g.feeder] = .starting n := by
  simp only [State.moveTo, hl, if_true]
  split <;> split <;> split <;> simp [State.occupyFeeder, State.offerUrgent]

/-- Feeder `f` is FREE, or STARTING with a load in STARTING. -/
def State.FreeOrGranted (f : Fin 8) (v : State) : Prop :=
  v.feeders[f] = .free ∨ ∃ m, v.feeders[f] = .starting m ∧ v.stateOf m = some .starting

theorem State.FreeOrGranted.moveTo (h : State.FreeOrGranted f v) (hl : v.load n = some g) (hs : g.state ≠ .starting) (new : LoadState) :
    State.FreeOrGranted f (v.moveTo n new none) := by
  by_cases hg : new = .starting ∧ f = g.feeder
  · obtain ⟨rfl, rfl⟩ := hg
    exact .inr ⟨n, moveTo_feeder_granted hl, stateOf_eq.mpr ⟨_, moveTo_load_self hl, by simp⟩⟩
  · have hf : (v.moveTo n new none).feeders[f] = v.feeders[f] := moveTo_feeders hl f (.inl hs) (by tauto)
    rw [State.FreeOrGranted, hf]
    refine h.imp_right (fun ⟨m, h1, h2⟩ => ⟨m, h1, ?_⟩)
    obtain ⟨y, hy, hyst⟩ := stateOf_eq.mp h2
    have hm : m ≠ n := by
      rintro rfl
      cases hl.symm.trans hy
      exact hs hyst
    exact stateOf_eq.mpr ⟨y, (moveTo_load_ne hm).trans hy, hyst⟩

theorem State.FreeOrGranted.of_same (h : State.FreeOrGranted f v) (hf : u.feeders = v.feeders) (hs : ∀ m, u.stateOf m = v.stateOf m) :
    State.FreeOrGranted f u := by
  rw [State.FreeOrGranted, hf]
  exact h.imp_right (fun ⟨m, h1, h2⟩ => ⟨m, h1, (hs m).trans h2⟩)

/-- A feeder that is FREE is FREE or given to a start after plain hand-offs (R127). -/
theorem State.FreeOrGranted.settled (h : State.FreeOrGranted f v) : State.FreeOrGranted f (s.settle v []) := by
  have modify : ∀ (u : State) k F, State.FreeOrGranted f u → State.FreeOrGranted f (u.modifyGroup k F) := fun u k F hu =>
    hu.of_same (by unfold State.modifyGroup; split <;> rfl) (fun m => by unfold State.stateOf; rw [load_modifyGroup])
  refine settle_plain (by simp) (fun _ _ h => h) (fun v n h => ?_) (fun v k h => ?_) (fun v e h => ?_) h
  · rcases evaluate_cases v n with e | ⟨r, hl, hd, e | e⟩ <;> rw [e]
    · exact h
    · exact h.moveTo hl (by simp [hd]) .stopping
    · refine h.of_same rfl (fun m => ?_)
      unfold State.stateOf
      rw [load_setLoad]
      split
      · rename_i hm; subst hm; simp [hl]
      · rfl
  · rcases testGroup_cases v k with e | ⟨q, hq, e⟩ | e | e <;> rw [e]
    · exact h
    · obtain ⟨r, hl, hs⟩ := stateOf_eq.mp hq
      refine modify _ _ _ ?_
      exact State.FreeOrGranted.moveTo (v := { v with queue := placeEntry (v.newEntry q .supply) v.queue, arrivals := v.arrivals + 1 })
        h hl (by simp [hs]) .queued
    · exact modify _ _ _ h
    · exact modify _ _ _ h
  · rcases examineEntry_cases v e with e' | ⟨r, hl, hq, e'⟩ | ⟨c, e'⟩ <;> rw [e']
    · exact h
    · exact h.moveTo hl (by simp [hq]) .starting
    · exact h

/-- R125: what is left of the feeder of a start that has ended, after the hand-offs of the step. -/
theorem released_settled (hf : p.feeders[f] = if s.settleTime = 0 then .free else .settling (s.timeBase + s.settleTime)) :
    s.Released (s.settle p []) f := by
  have hq : Quiet p (s.settle p []) := settle_quiet (by simp)
  refine ⟨fun h => hq.settling f _ (by rw [hf, if_neg h]), fun h => ?_⟩
  exact State.FreeOrGranted.settled (.inl (by rw [hf, if_pos h]))

end Sys2Proof.Machine
end

section
/-! SUPPORT. What a valid report does by the state of its record, and the statement about it (R49, R50, R55, R59, R62, R64, R68, R117,
R151). -/

namespace Sys2Proof.Machine

variable {s t u v w p : State} {n m : Nat} {r g x : LoadRecord} {new old : LoadState} {out : Option (Operation × OpResult)} {rep : Report}
  {l : Fin 4} {a : Nat} {sent : Commanded} {f : Fin 8}

/-! ### The record that a change writes -/

/-- The outcome a change leaves in its record: the one it writes, or the one that stood there (R48). -/
def State.outcomeAfter (s : State) (g : LoadRecord) (out : Option (Operation × OpResult)) : Option Outcome :=
  match out with
  | none => g.lastOutcome
  | some o => some { operation := o.1, result := o.2, time := s.stamp }

theorem movedRecord_outcome (s : State) (g : LoadRecord) (new : LoadState) (out : Option (Operation × OpResult)) :
    s.movedRecord g new out = { g.entering new s.timeBase with lastOutcome := s.outcomeAfter g out } := by
  cases out <;> rfl

/-- R47, R55, R59: a record that counted as running and has come to rest. -/
theorem movedRecord_stopped (s : State) (g : LoadRecord) (out : Option (Operation × OpResult)) (h : writesOffSince g.state = true) :
    s.movedRecord g .stopped out = { g with
      state := .stopped, offSince := s.timeBase, blockReason := .none, portStop := none, idleClock := 0, verifyEnd := none
      lastOutcome := s.outcomeAfter g out } := by
  rw [movedRecord_outcome, entering_stopped, if_pos h]

/-- R47, R62, R64: a record that counted as off and has begun to run. -/
theorem movedRecord_run (s : State) (g : LoadRecord) (out : Option (Operation × OpResult)) (h : writesRunSince g.state = true) :
    s.movedRecord g .run out = { g with
      state := .run, commanded := .run, runSince := s.timeBase, blockReason := .none, portStop := none, idleClock := 0, verifyEnd := none
      lastOutcome := s.outcomeAfter g out } := by
  rw [movedRecord_outcome, entering_run, if_pos h]

/-- R47, R59: a record whose stop has ended without a rest. -/
theorem movedRecord_resumed (s : State) (g : LoadRecord) (out : Option (Operation × OpResult)) (h : writesRunSince g.state = false) :
    s.movedRecord g .run out = { g with
      state := .run, commanded := .run, blockReason := .none, portStop := none, idleClock := 0, verifyEnd := none
      lastOutcome := s.outcomeAfter g out } := by
  rw [movedRecord_outcome, entering_run, if_neg (by simp [h])]

/-- R50: the record of an UNKNOWN load after its first report, but for what it heard. -/
theorem movedRecord_first (s : State) (r : LoadRecord) (rep : Report) (hu : r.state = .unknown) :
    s.movedRecord r (firstState rep) none = { r with
      state := if rep.localFlag = true then .inLocal else if rep.run = .stopped then .stopped else .run
      commanded := if rep.localFlag = false ∧ rep.run ≠ .stopped then .run else r.commanded
      runSince := if rep.localFlag = false ∧ rep.run ≠ .stopped then s.timeBase else r.runSince
      offSince := if rep.localFlag = false ∧ rep.run = .stopped then s.timeBase else r.offSince
      blockReason := .none, portStop := none, idleClock := 0, verifyEnd := none } := by
  unfold firstState State.movedRecord
  cases hf : rep.localFlag with
  | true => simp [LoadRecord.entering, commandedOn]
  | false =>
    by_cases hr : rep.run = .stopped
    · simp [LoadRecord.entering, commandedOn, hr, hu, writesOffSince]
    · simp [LoadRecord.entering, commandedOn, hr, hu, writesRunSince]

/-! ### The first report -/

/-- R50: the first report changes an UNKNOWN record once its isolator hold has followed the flag. -/
theorem State.Heard.firstReport (h : s.Heard n g v) (hu : g.state = .unknown) (rep : Report) :
    ∃ w, v.firstReport n rep = w.moveTo n (firstState rep) none
      ∧ s.Heard n { g with lastRun := some rep.run, isolatorHold := rep.isolatorOpen, buttonTaken := rep.button } w
      ∧ (rep.isolatorOpen = false → g.isolatorHold = true → (∀ h ∈ s.holdsOn n, h.2.sense ≠ .keepOff) →
          (∀ k x, v.group k = some x → x.state ≠ .raising n) → State.Clear n w) := by
  have h1 := h.modifyLoad (fun r => { r with buttonTaken := rep.button, lastRun := some rep.run })
  refine ⟨_, rfl, h1.followIsolator (b := rep.isolatorOpen) (.inr (.inr (by simp [hu]))), fun hopen hhold hport hgroups => ?_⟩
  generalize hv1 : v.modifyLoad n (fun r => { r with buttonTaken := rep.button, lastRun := some rep.run }) = v1 at h1
  have hg1 : v1.groups = v.groups := by rw [← hv1]; unfold State.modifyLoad; split <;> rfl
  have h2 := (h1.setLoad { g with buttonTaken := rep.button, lastRun := some rep.run, isolatorHold := false }).mark
  have hbar : State.keepOff ((v1.setLoad n { g with buttonTaken := rep.button, lastRun := some rep.run, isolatorHold := false }).mark n) n
      = false := by
    unfold State.keepOff State.holdsOn
    rw [h2.load, h2.holds]
    simpa [State.holdsOn] using hport
  have hf : v1.followIsolator n rep.isolatorOpen
      = ((v1.setLoad n { g with buttonTaken := rep.button, lastRun := some rep.run, isolatorHold := false }).mark n).forgetFailed n := by
    simp [State.followIsolator, h1.load, hopen, hhold, State.keepOffLeft, hbar]
  rw [hf]
  refine clear_forgetFailed (fun k x hx => hgroups k x ?_)
  unfold State.group at hx ⊢
  rwa [← hg1]

theorem report_unknown (hl : v.load n = some g) (hu : g.state = .unknown) (rep : Report) (sent : Commanded) :
    v.report n rep sent = ((v.setLoad n (g.gathered rep.strokes rep.current)).firstReport n rep).ranByReport n .unknown := by
  simp [State.report, hl, hu]

theorem report_known (hl : v.load n = some g) (hu : g.state ≠ .unknown) (rep : Report) (sent : Commanded) :
    v.report n rep sent
      = ((v.setLoad n (g.gathered rep.strokes rep.current)).laterReport n g.state rep sent).ranByReport n g.state := by
  simp [State.report, hl, hu]

/-- A report to an UNKNOWN record, its figures gathered (R27, R50, R117). -/
theorem State.Heard.report_first (h : s.Heard n { r with missCount := 0 } v) (hu : r.state = .unknown) (rep : Report) (sent : Commanded) :
    ∃ w, v.report n rep sent = (w.moveTo n (firstState rep) none).ranByReport n .unknown ∧ s.Heard n (r.heard rep) w
      ∧ (rep.isolatorOpen = false → r.isolatorHold = true → (∀ h ∈ s.holdsOn n, h.2.sense ≠ .keepOff) →
          (∀ k x, v.group k = some x → x.state ≠ .raising n) → State.Clear n w) := by
  obtain ⟨w, hw, hh, hclear⟩ := (h.setLoad (({ r with missCount := 0 } : LoadRecord).gathered rep.strokes rep.current)).firstReport hu rep
  exact ⟨w, by rw [report_unknown h.load hu, hw], hh, hclear⟩

/-- A calm report to a record that is not UNKNOWN, its figures gathered (R27, R49). -/
theorem State.Heard.report_calm (h : s.Heard n { r with missCount := 0 } v) (hu : r.state ≠ .unknown) (hc : rep.Calm r) (sent : Commanded) :
    ∃ w, v.report n rep sent = (w.runStep n rep sent).ranByReport n r.state ∧ s.Heard n (r.heard rep) w := by
  obtain ⟨w, hw, hh⟩ := (h.setLoad (({ r with missCount := 0 } : LoadRecord).gathered rep.strokes rep.current)).laterReport
    (rep := rep) ⟨hc.flag, hc.press, hc.isolator⟩ sent
  exact ⟨w, (report_known h.load hu rep sent).trans (congrArg (fun u => State.ranByReport u n r.state) hw), hh⟩

/-! ### The run state -/

/-- R55, R59, R62, R64: what the run state and the stop-declined flag do, by the record's state. -/
theorem runStep_by_state (hl : v.load n = some g) (rep : Report) (sent : Commanded) :
    (g.state = .stopping → rep.run = .stopped → v.runStep n rep sent = v.moveTo n .stopped (some (.stop, .completed)))
    ∧ (g.state = .stopping → rep.run ≠ .stopped → rep.declined = true → sent = .stop →
        v.runStep n rep sent = v.moveTo n .run (some (.stop, .declined)))
    ∧ (g.state = .stopping → rep.run ≠ .stopped → (rep.declined = false ∨ sent ≠ .stop) → v.runStep n rep sent = v)
    ∧ (g.state = .starting → rep.run = .running → rep.echo = g.startCount →
        v.runStep n rep sent
          = (v.moveTo n .run (some (.start, .completed))).modifyLoad n (fun x => { x with level := x.tuning.idleLeave }))
    ∧ (g.state = .starting → (rep.run ≠ .running ∨ rep.echo ≠ g.startCount) → v.runStep n rep sent = v)
    ∧ (g.state = .run ∨ g.state = .idle ∨ g.state = .due → rep.run = .stopped → v.runStep n rep sent = v.moveTo n .stopped none)
    ∧ (g.state = .run ∨ g.state = .idle ∨ g.state = .due → rep.run ≠ .stopped → v.runStep n rep sent = v)
    ∧ (g.state = .stopped → (rep.run = .running ∨ rep.run = .accelerating) → v.runStep n rep sent = v.moveTo n .run none)
    ∧ (g.state = .queued → (rep.run = .running ∨ rep.run = .accelerating) →
        v.runStep n rep sent = v.moveTo n .run (some (.start, .overtaken)))
    ∧ (g.state = .stopped ∨ g.state = .queued → rep.run = .stopped ∨ rep.run = .coasting → v.runStep n rep sent = v)
    ∧ (g.state = .fault → v.runStep n rep sent = v)
    ∧ (g.state = .retiring → v.runStep n rep sent = v.retireStep n g rep sent) := by
  unfold State.runStep
  simp only [hl]
  refine ⟨fun hs hr => ?_, fun hs hr hd hc => ?_, fun hs hr hd => ?_, fun hs hr he => ?_, fun hs hr => ?_, fun hs hr => ?_, fun hs hr => ?_,
    fun hs hr => ?_, fun hs hr => ?_, fun hs hr => ?_, fun hs => ?_, fun hs => ?_⟩
  · simp only [hs, hr, if_true]
  · simp [hs, hr, hd, hc]
  · rcases hd with hd | hd <;> simp [hs, hr, hd]
  · simp [hs, hr, he]
  · rcases hr with hr | hr <;> simp [hs, hr]
  · rcases hs with hs | hs | hs <;> simp [hs, hr]
  · rcases hs with hs | hs | hs <;> simp [hs, hr]
  · simp only [hs, hr, if_true]
  · simp only [hs, hr, if_true]
  · rcases hs with hs | hs <;> rcases hr with hr | hr <;> simp [hs, hr]
  · simp only [hs]
  · simp only [hs]

/-- R68: a valid report to a RETIRING record. -/
theorem retireStep_cases (v : State) (n : Nat) (g : LoadRecord) (rep : Report) (sent : Commanded) :
    (rep.released = true → sent = .release → v.retireStep n g rep sent = v.removeLoad n (.retire, .completed))
    ∧ ((rep.released = false ∨ sent ≠ .release) → g.retireExchanges + 1 < 10 →
        v.retireStep n g rep sent = v.setLoad n { g with retireExchanges := g.retireExchanges + 1 })
    ∧ ((rep.released = false ∨ sent ≠ .release) → g.retireExchanges + 1 = 10 →
        v.retireStep n g rep sent = v.removeLoad n (.retire, .lost)) := by
  have hno : rep.released = false ∨ sent ≠ .release → ¬ (rep.released = true ∧ sent = .release) := fun h ⟨h1, h2⟩ =>
    h.elim (fun h => by simp [h1] at h) (fun h => h h2)
  unfold State.retireStep Config.retirementExchanges
  refine ⟨fun h1 h2 => if_pos ⟨h1, h2⟩, fun h hlt => ?_, fun h he => ?_⟩
  · rw [if_neg (hno h), if_neg (by omega)]
  · rw [if_neg (hno h), if_pos (by omega)]

/-- A report to a RETIRING record, whose local flag and press are ignored (R49, R68). -/
theorem State.Heard.report_retiring (h : s.Heard n { r with missCount := 0 } v) (hs : r.state = .retiring) (rep : Report)
    (sent : Commanded) :
    ∃ w, v.report n rep sent = (w.retireStep n (r.heard rep) rep sent).ranByReport n r.state ∧ s.Heard n (r.heard rep) w := by
  have hcalm : rep.Calm r := ⟨.inl hs, .inr (.inr (.inr (.inr hs))), .inr (.inr (by simp [hs]))⟩
  obtain ⟨w, hw, hh⟩ := h.report_calm (by simp [hs]) hcalm sent
  obtain ⟨-, -, -, -, -, -, -, -, -, -, -, hret⟩ := runStep_by_state hh.load rep sent
  exact ⟨w, by rw [hw, hret hs], hh⟩

/-- R22: a record that its report removes, and the outcome it leaves in its slot. -/
theorem State.Heard.settled_removed (h : s.Heard n g v) (o : Operation × OpResult) (old : LoadState) :
    (s.settle ((v.removeLoad n o).ranByReport n old) []).load n = none
      ∧ Table.find (s.settle ((v.removeLoad n o).ranByReport n old) []).slotOutcomes n
          = some { operation := o.1, result := o.2, time := s.stamp } := by
  have hgone : (v.removeLoad n o).load n = none := by simp [removeLoad_load]
  have hran : (v.removeLoad n o).ranByReport n old = v.removeLoad n o := by
    simp [State.ranByReport, State.stateOf, hgone]
  rw [hran]
  have hq : Quiet (v.removeLoad n o) (s.settle (v.removeLoad n o) []) := settle_quiet (by simp)
  obtain ⟨-, -, -, -, -, -, -, -, -, hout, -⟩ := frozen_field hq.frozen
  obtain ⟨hput, -⟩ := removeLoad_rest h.load o
  refine ⟨hq.vacant n hgone, ?_⟩
  rw [hout, hput, Table.find_put_self, State.outcomeOf, h.stamp]

/-! ### The record after the step -/

/-- A record that its report has brought to rest from a state that counted as running, and what the step leaves of it. -/
theorem State.Heard.settled_stopped (h : s.Heard n g v) (hs : writesOffSince g.state = true) (old : LoadState)
    (out : Option (Operation × OpResult)) :
    n ∈ (s.settle ((v.moveTo n .stopped out).ranByReport n old) []).marks
      ∧ ∃ r', (s.settle ((v.moveTo n .stopped out).ranByReport n old) []).load n = some r' ∧ HandedOn s.timeBase
        { g with
          state := .stopped, offSince := s.timeBase, blockReason := .none, portStop := none, idleClock := 0, verifyEnd := none
          lastOutcome := s.outcomeAfter g out } r' := by
  rw [← movedRecord_stopped s g out hs]
  exact h.settled_moved .stopped old out

/-- A record that its report has brought into RUN from a state that counted as off: no hand-off touches it. -/
theorem State.Heard.settled_run (h : s.Heard n g v) (hs : writesRunSince g.state = true) (old : LoadState)
    (out : Option (Operation × OpResult)) :
    n ∈ (s.settle ((v.moveTo n .run out).ranByReport n old) []).marks
      ∧ (s.settle ((v.moveTo n .run out).ranByReport n old) []).load n = some
        { g with
          state := .run, commanded := .run, runSince := s.timeBase, blockReason := .none, portStop := none, idleClock := 0
          verifyEnd := none, lastOutcome := s.outcomeAfter g out } := by
  rw [← movedRecord_run s g out hs]
  obtain ⟨hm, -⟩ := h.settled_moved .run old out
  exact ⟨hm, h.settled_moved_still old out (by simp) (by simp) (by simp)⟩

/-- R63, R64, R125: a start that a report completes, and what the step leaves of its feeder. -/
theorem State.Heard.settled_completed (h : s.Heard n g v) (hs : g.state = .starting) (f : LoadRecord → LoadRecord)
    (hf : ∀ r, (f r).state = r.state) (out : Option (Operation × OpResult)) (old : LoadState) :
    (s.settle (((v.moveTo n .run out).modifyLoad n f).ranByReport n old) []).load n = some (f (s.movedRecord g .run out))
      ∧ s.Released (s.settle (((v.moveTo n .run out).modifyLoad n f).ranByReport n old) []) g.feeder := by
  have h1 := ((h.moveTo .run out).modifyLoad f).ranByReport old
  have hst : (f (s.movedRecord g .run out)).state = .run := by rw [hf, movedRecord_state]
  refine ⟨h1.settled_still (by simp [hst]) (by simp [hst]) (by simp [hst]), released_settled ?_⟩
  have hfeed : ∀ u : State, ((u.modifyLoad n f).ranByReport n old).feeders = u.feeders := fun u => by
    unfold State.ranByReport State.modifyLoad
    split <;> split <;> rfl
  rw [hfeed, moveTo_feeder_self h.load (by simp) hs, h.timeBase, h.settleTime]

/-- Settles O45: each clause reads off the record that the report leaves (`report_first`, `report_calm`, `runStep_by_state`) and what the
hand-offs of the step may still do to it. -/
theorem validReportActs : Obligations.ValidReportActs := by
  unfold Obligations.ValidReportActs
  intro s l samples e n r g rep hcan he hn hl hline haddr hj hg
  obtain rfl : g = r.heard rep := by
    rw [hg]
    cases hb : r.baseline with
    | none => simp [LoadRecord.heard, LoadRecord.gathered, strokeDelta, largestCurrent, hb]
    | some b => simp [LoadRecord.heard, LoadRecord.gathered, strokeDelta_some, largestCurrent, hb]
  clear hg
  have hex := exchanged_heard hcan.loads hl l e.address
  obtain ⟨hended, hfound⟩ := settled_lineFree (s := s) (report_lineFree (n := n) rep e.order.commanded (exchanged_lineFree s l n r e.address))
  have hgroup : ∀ k, (s.exchanged l n r e.address).group k = s.group k := fun _ => rfl
  refine ⟨_, exec_replyEnd_valid he hn hl hj, hended, hfound, ?_⟩
  generalize s.exchanged l n r e.address = v at hex hgroup
  generalize e.order.commanded = sent
  have first := fun hu => hex.report_first hu rep sent
  refine ⟨fun hu => ?_, fun hu hf hr => ?_, fun hu hopen hhold hport hraise => ?_, fun hf hi hb ho => ?_, ?_⟩
  · obtain ⟨w, hw, hh, -⟩ := first hu
    obtain ⟨hm, r', hl', hr'⟩ := hh.settled_moved (firstState rep) .unknown none
    rw [movedRecord_first s (r.heard rep) rep hu] at hr'
    exact hw ▸ ⟨r', hl', hm, hr'⟩
  · obtain ⟨w, hw, hh, -⟩ := first hu
    have hrun : firstState rep = .run := by simp [firstState, hf, hr]
    rw [hw, hrun]
    exact (clear_ranByReport hh.load none (by simp)).settled
  · obtain ⟨w, hw, hh, hclear⟩ := first hu
    have hno : ∀ k x, v.group k = some x → x.state ≠ .raising n := fun k x hx hr => by
      rcases hraise k n x (hgroup k ▸ hx) hr with h | h <;> simp [State.stateOf, hl, hu] at h
    rw [hw]
    exact (((hclear hopen hhold hport hno).moveTo hh.load _ none).ranByReport .unknown).settled
  · by_cases hu : r.state = .unknown
    · simp only [hu, reduceCtorEq, or_self, false_implies, and_self]
    have hcalm : rep.Calm r := ⟨.inr ⟨hf, hi⟩, hb.imp_right (Or.imp_right (Or.imp_right .inl)), ho⟩
    obtain ⟨w, hw, hh⟩ := hex.report_calm hu hcalm sent
    obtain ⟨hrest, hdecl, hstop, hdone, hstart, hoff, hon, hback, hover, hidle, hfault, -⟩ := runStep_by_state hh.load rep sent
    rw [hw]
    have still : ∀ {u}, s.Heard n (r.heard rep) u → (r.state ≠ .due ∧ r.state ≠ .queued ∧ r.state ≠ .stopped) →
        (s.settle (u.ranByReport n r.state) []).load n = some (r.heard rep) := fun h ⟨h1, h2, h3⟩ =>
      (h.ranByReport _).settled_still h1 h2 h3
    refine ⟨fun hs hr => ?_, fun hs hr hd hc => ?_, fun hs hr hd => ?_, fun hs hr hc => ?_, fun hs hr => ?_, fun hs hr => ?_,
      fun hs hr => ?_, fun hs hr => ?_, fun hs hr => ?_, fun hs => ?_, fun hs hr => ?_, fun hs hr => ?_⟩
    · rw [hrest hs hr]
      exact hh.settled_stopped (by simp [hs, writesOffSince]) r.state (some (.stop, .completed))
    · rw [hdecl hs hr hd hc, hh.settled_moved_still r.state _ (by simp) (by simp) (by simp),
        movedRecord_resumed _ _ _ (by simp [hs, writesRunSince])]
      rfl
    · rw [hstop hs hr hd]
      exact still hh (by simp [hs])
    · rw [hdone hs hr hc]
      have h := hh.settled_completed hs (fun x => { x with level := x.tuning.idleLeave }) (fun _ => rfl) (some (.start, .completed)) r.state
      rwa [movedRecord_run _ _ _ (by simp [hs, writesRunSince])] at h
    · rw [hstart hs hr]
      exact still hh (by simp [hs])
    · rw [hoff hs hr]
      exact hh.settled_stopped (by rcases hs with hs | hs | hs <;> simp [hs, writesOffSince]) r.state none
    · rw [hback hs hr]
      exact hh.settled_run (by simp [hs, writesRunSince]) r.state none
    · rw [hover hs hr]
      exact hh.settled_run (by simp [hs, writesRunSince]) r.state (some (.start, .overtaken))
    · rw [hon (hs.imp_right .inl) hr]
      exact still hh (by rcases hs with hs | hs <;> simp [hs])
    · rw [hfault hs]
      exact still hh (by simp [hs])
    · rw [hon (.inr (.inr hs)) hr]
      exact (hh.ranByReport _).settled
    · rw [hidle hs hr]
      exact (hh.ranByReport _).settled
  · refine ⟨fun hs hrel hc => ?_, fun hs hno hlt => ?_, fun hs hno he => ?_⟩
    all_goals
      obtain ⟨w, hw, hh⟩ := hex.report_retiring hs rep sent
      obtain ⟨hdone, hmore, hlost⟩ := retireStep_cases w n (r.heard rep) rep sent
      rw [hw]
    · rw [hdone hrel hc]
      exact hh.settled_removed _ _
    · rw [hmore hno hlt]
      have h := (hh.setLoad { r.heard rep with retireExchanges := (r.heard rep).retireExchanges + 1 }).ranByReport r.state
      exact h.settled_still (by simp [hs]) (by simp [hs]) (by simp [hs])
    · rw [hlost hno he]
      exact hh.settled_removed _ _

end Sys2Proof.Machine
end

section
/-! SUPPORT. The guards of R62, R64, R83, R112 and R123, as a relation between two states that every operation keeps: no record enters
STOPPING beside another provider of its group in STOPPING, and no load comes to be QUEUED or STARTING under a KEEP-OFF hold. -/

namespace Sys2Proof.Machine

variable {s t u : State} {n m : Nat} {r r' : LoadRecord} {new : LoadState} {out : Option (Operation × OpResult)} {l : Fin 4}

/-! ### KEEP-OFF holds -/

theorem keepOff_iff : s.keepOff n = true ↔
    (∃ e ∈ s.holds, e.2.load = n ∧ e.2.sense = .keepOff) ∨ ∃ r, s.load n = some r ∧ r.isolatorHold = true := by
  unfold State.keepOff State.holdsOn
  cases s.load n <;> simp

/-- With no more holds, and isolator holds only where they stood, a load carries a KEEP-OFF hold only where it did. -/
theorem keepOff_mono (hh : ∀ e ∈ t.holds, e.2.load = n → e.2.sense = .keepOff → ∃ e' ∈ s.holds, e'.2.load = n ∧ e'.2.sense = .keepOff)
    (hl : ∀ r', t.load n = some r' → r'.isolatorHold = true → ∃ r, s.load n = some r ∧ r.isolatorHold = true)
    (h : t.keepOff n = true) : s.keepOff n = true := by
  rcases keepOff_iff.mp h with ⟨e, he, hn, hs⟩ | ⟨r', hr, hi⟩
  · exact keepOff_iff.mpr (.inl (hh e he hn hs))
  · exact keepOff_iff.mpr (.inr (hl r' hr hi))

/-! ### Providers in STOPPING -/

/-- No provider other than load `n` of the group that its record `r` provides is in STOPPING (R112). -/
def State.SoleStopping (s : State) (n : Nat) (r : LoadRecord) : Prop :=
  ∀ p m rm pm, r.provides = some p → m ≠ n → s.load m = some rm → rm.provides = some pm → pm.group = p.group → rm.state ≠ .stopping

theorem mem_providersByLoad_of_load {p : Provides} (hl : s.load m = some r) (hp : r.provides = some p) :
    ({ load := m, rank := p.rank, capacity := p.capacity, state := r.state, supplying := r.supplies } : Provider)
      ∈ s.providersByLoad p.group := by
  unfold State.providersByLoad
  exact List.mem_filterMap.mpr ⟨(m, r), Table.mem_of_find hl, by simp [LoadRecord.providesTo, hp]⟩

theorem soleStopping_of_otherStopping (h : s.otherStopping n r = false) : s.SoleStopping n r := by
  intro p m rm pm hp hm hl hpm hg hs
  unfold State.otherStopping at h
  rw [hp] at h
  have := List.any_eq_false.mp h _ (hg ▸ mem_providersByLoad_of_load hl hpm)
  simp [hm, hs] at this

/-! ### The relation -/

/-- What every operation keeps between the state before it and the state after it. -/
structure Guarded (s t : State) : Prop where
  paced : ∀ n r', t.load n = some r' → r'.state = .stopping →
    (∃ r, s.load n = some r ∧ r.state = .stopping ∧ r'.provides = r.provides) ∨ t.SoleStopping n r'
  free : ∀ n, t.keepOff n = true → (t.stateOf n = some .queued ∨ t.stateOf n = some .starting) →
    s.keepOff n = true ∧ (s.stateOf n = some .queued ∨ s.stateOf n = some .starting)

theorem Guarded.refl (s : State) : Guarded s s := ⟨fun _ r h hs => .inl ⟨r, h, hs, rfl⟩, fun _ h hs => ⟨h, hs⟩⟩

theorem Guarded.trans (h : Guarded s t) (h' : Guarded t u) : Guarded s u := by
  refine ⟨fun n r' hu hs => ?_, fun n hk hs => h.free n (h'.free n hk hs).1 (h'.free n hk hs).2⟩
  rcases h'.paced n r' hu hs with ⟨r, ht, hst, hp⟩ | hsole
  · rcases h.paced n r ht hst with ⟨r0, h0, hs0, hp0⟩ | hsole
    · exact .inl ⟨r0, h0, hs0, hp.trans hp0⟩
    · refine .inr fun p m rm pm hpr hm hlm hpm hg hms => ?_
      rcases h'.paced m rm hlm hms with ⟨r1, h1, hs1, hp1⟩ | hsole'
      · exact hsole p m r1 pm (hp ▸ hpr) hm h1 (hp1 ▸ hpm) hg hs1
      · exact hsole' pm n r' p hpm (Ne.symm hm) hu hpr hg.symm hs
  · exact .inr hsole

theorem Guarded.pacingLaw (h : Guarded s t) (hs : PacingLaw s) : PacingLaw t := by
  intro n m rn rm pn pm hn hm hpn hpm hg hsn hsm
  by_contra hne
  rcases h.paced n rn hn hsn with ⟨r0, h0, hs0, hp0⟩ | hsole
  · rcases h.paced m rm hm hsm with ⟨r1, h1, hs1, hp1⟩ | hsole
    · exact hne (hs n m r0 r1 pn pm h0 h1 (hp0 ▸ hpn) (hp1 ▸ hpm) hg hs0 hs1)
    · exact hsole pm n rn pn hpm hne hn hpn hg hsn
  · exact hsole pn m rm pm hpn (Ne.symm hne) hm hpm hg.symm hsm

theorem Guarded.keepOffLaw (h : Guarded s t) (hs : KeepOffLaw s) : KeepOffLaw t := by
  intro n hk
  rw [← not_or]
  intro hst
  obtain ⟨hk0, hs0⟩ := h.free n hk hst
  obtain ⟨hq, hg⟩ := hs n hk0
  rcases hs0 with h | h
  · exact hq h
  · exact hg h

/-! ### One record -/

/-- What an operation on load `n` alone may make of its record. -/
structure GuardedAt (s t : State) (n : Nat) : Prop where
  paced : ∀ r', t.load n = some r' → r'.state = .stopping →
    (∃ r, s.load n = some r ∧ r.state = .stopping ∧ r'.provides = r.provides) ∨ s.SoleStopping n r'
  free : t.keepOff n = true → (t.stateOf n = some .queued ∨ t.stateOf n = some .starting) →
    s.keepOff n = true ∧ (s.stateOf n = some .queued ∨ s.stateOf n = some .starting)

/-- An operation that touches one record, and the holds on that load alone. -/
theorem Guarded.one (hl : ∀ m, m ≠ n → t.load m = s.load m)
    (hh : ∀ e ∈ t.holds, e.2.load ≠ n → e.2.sense = .keepOff → ∃ e' ∈ s.holds, e'.2.load = e.2.load ∧ e'.2.sense = .keepOff)
    (hn : GuardedAt s t n) : Guarded s t := by
  have hst : ∀ m, m ≠ n → t.stateOf m = s.stateOf m := fun m hm => by unfold State.stateOf; rw [hl m hm]
  refine ⟨fun m r' hm hs => ?_, fun m hk hs => ?_⟩
  · by_cases he : m = n
    · subst he
      refine (hn.paced r' hm hs).imp_right fun hsole p j rj pj hp hj hlj => ?_
      exact hsole p j rj pj hp hj (hl j hj ▸ hlj)
    · exact .inl ⟨r', hl m he ▸ hm, hs, rfl⟩
  · by_cases he : m = n
    · subst he; exact hn.free hk hs
    · refine ⟨keepOff_mono (fun e he' hem => ?_) (fun r' hr hi => ⟨r', hl m he ▸ hr, hi⟩) hk, hst m he ▸ hs⟩
      obtain rfl := hem
      exact fun hsense => hh e he' he hsense

/-- An operation that leaves the records and the holds. -/
theorem Guarded.of_same (hl : t.loads = s.loads) (hh : t.holds = s.holds) : Guarded s t := by
  have hload : ∀ m, t.load m = s.load m := fun m => by unfold State.load; rw [hl]
  have hst : ∀ m, t.stateOf m = s.stateOf m := fun m => by unfold State.stateOf; rw [hload]
  refine ⟨fun m r' hm hs => .inl ⟨r', hload m ▸ hm, hs, rfl⟩, fun m hk hs => ⟨?_, hst m ▸ hs⟩⟩
  exact keepOff_mono (fun e he hn hs => ⟨e, hh ▸ he, hn, hs⟩) (fun r' hr hi => ⟨r', hload m ▸ hr, hi⟩) hk

/-- An operation that rewrites the record of load `n` and leaves the others and the holds. -/
theorem Guarded.written (hn : s.load n = some r) (ht : t.load n = some r') (hl : ∀ m, m ≠ n → t.load m = s.load m)
    (hh : t.holds = s.holds)
    (hp : r'.state = .stopping → (r.state = .stopping ∧ r'.provides = r.provides) ∨ s.SoleStopping n r')
    (hk : r'.state = .queued ∨ r'.state = .starting →
      (r'.isolatorHold = r.isolatorHold ∧ (s.keepOff n = false ∨ r.state = .queued ∨ r.state = .starting))) : Guarded s t := by
  refine .one hl (fun e he _ hs => ⟨e, hh ▸ he, rfl, hs⟩) ⟨fun x hx hs => ?_, fun hko hs => ?_⟩
  · obtain rfl : r' = x := Option.some.inj (ht.symm.trans hx)
    exact (hp hs).imp_left fun ⟨h1, h2⟩ => ⟨r, hn, h1, h2⟩
  · simp only [State.stateOf, ht, Option.map_some, Option.some.injEq] at hs
    obtain ⟨hi, hfree⟩ := hk hs
    have hko' : s.keepOff n = true := keepOff_mono (fun e he hem hse => ⟨e, hh ▸ he, hem, hse⟩)
      (fun x hx hxi => by obtain rfl : r' = x := Option.some.inj (ht.symm.trans hx); exact ⟨r, hn, hi ▸ hxi⟩) hko
    refine ⟨hko', ?_⟩
    simp only [State.stateOf, hn, Option.map_some, Option.some.injEq]
    simpa [hko'] using hfree

/-- A write that leaves the state, the provides link and the isolator hold of its record. -/
theorem Guarded.setLoad (hl : s.load n = some r) (h1 : r'.state = r.state) (h2 : r'.provides = r.provides)
    (h3 : r'.isolatorHold = r.isolatorHold) : Guarded s (s.setLoad n r') :=
  .written hl (by simp) (fun m hm => by simp [hm]) rfl (fun hs => .inl ⟨h1 ▸ hs, h2⟩) (fun hs => ⟨h3, .inr (h1 ▸ hs)⟩)

theorem Guarded.modifyLoad (f : LoadRecord → LoadRecord) (h1 : ∀ r, (f r).state = r.state) (h2 : ∀ r, (f r).provides = r.provides)
    (h3 : ∀ r, (f r).isolatorHold = r.isolatorHold) : Guarded s (s.modifyLoad n f) := by
  unfold State.modifyLoad
  split
  · exact .refl s
  · rename_i r hl; exact .setLoad hl (h1 r) (h2 r) (h3 r)

theorem movedRecord_kept (s : State) (r : LoadRecord) (new : LoadState) (out : Option (Operation × OpResult)) :
    (s.movedRecord r new out).provides = r.provides ∧ (s.movedRecord r new out).isolatorHold = r.isolatorHold := by
  obtain ⟨o, ho⟩ := movedRecord_eq s r new out
  rw [ho]
  exact ⟨rfl, rfl⟩

/-- A change of a record's state under the guards of R64, R112 and R123. -/
theorem Guarded.moveTo (hl : s.load n = some r) (hp : new = .stopping → s.SoleStopping n r)
    (hk : new = .queued ∨ new = .starting → s.keepOff n = false ∨ r.state = .queued ∨ r.state = .starting) :
    Guarded s (s.moveTo n new out) := by
  obtain ⟨hprov, hiso⟩ := movedRecord_kept s r new out
  refine .written hl (moveTo_load_self hl) (fun m hm => moveTo_load_ne hm) moveTo_holds (fun hs => .inr ?_) (fun hs => ⟨hiso, ?_⟩)
  · unfold State.SoleStopping
    rw [hprov]
    exact hp (movedRecord_state s r new out ▸ hs)
  · exact hk (movedRecord_state s r new out ▸ hs)

/-- A change to any state that neither law names. -/
theorem Guarded.leave (h1 : new ≠ .stopping) (h2 : new ≠ .queued) (h3 : new ≠ .starting) : Guarded s (s.moveTo n new out) := by
  cases hl : s.load n with
  | none => rw [moveTo_vacant hl]; exact .refl s
  | some r => exact .moveTo hl (fun h => absurd h h1) (fun h => by rcases h with h | h <;> contradiction)

theorem Guarded.removeLoad (o : Operation × OpResult) : Guarded s (s.removeLoad n o) := by
  cases hl : s.load n with
  | none => unfold State.removeLoad; rw [hl]; exact .refl s
  | some r =>
    have hnone : (s.removeLoad n o).load n = none := by simp [removeLoad_load]
    refine .one (fun m hm => removeLoad_load_ne o hm) (fun e he _ hs => ⟨e, ?_, rfl, hs⟩)
      ⟨fun r' hr => by simp [hnone] at hr, fun _ hs => by simp [State.stateOf, hnone] at hs⟩
    rwa [(removeLoad_rest hl o).2.2.2.1] at he

theorem Guarded.writeOutcome (o : Operation) (x : OpResult) : Guarded s (s.writeOutcome n o x) := by
  unfold State.writeOutcome
  split
  · exact .refl s
  · rename_i r hl
    exact Guarded.trans (.setLoad (r' := { r with lastOutcome := some { operation := o, result := x, time := s.stamp } }) hl rfl rfl rfl)
      (.of_same rfl rfl)

/-! ### Hand-offs -/

/-- R56: the five conditions of stop permission in their order. -/
theorem permission_by_condition (s : State) (n : Nat) (r : LoadRecord) :
    (s.effectiveAuthority r = 0 → s.permission n r = .authority)
    ∧ (0 < s.effectiveAuthority r → (∃ l ∈ s.keepRunLevels n, s.effectiveAuthority r ≤ l) → s.permission n r = .hold)
    ∧ (0 < s.effectiveAuthority r → (∀ l ∈ s.keepRunLevels n, l < s.effectiveAuthority r) →
      (s.timeBase < r.runSince + r.tuning.minimumRun * 60 → s.permission n r = .minRun)
      ∧ (r.runSince + r.tuning.minimumRun * 60 ≤ s.timeBase →
        (s.spared r = false → s.permission n r = .supply)
        ∧ (s.spared r = true → s.otherStopping n r = true → s.permission n r = .pacing)
        ∧ (s.spared r = true → s.otherStopping n r = false → s.permission n r = .none))) := by
  unfold State.permission
  refine ⟨fun h => by rw [if_pos h], fun h hl => ?_, fun h hl => ⟨fun hm => ?_, fun hm => ⟨fun hs => ?_, fun hs ho => ?_, fun hs ho => ?_⟩⟩⟩
  · obtain ⟨l, hl, hle⟩ := hl
    rw [if_neg h.ne', if_pos (List.all_eq_false.mpr ⟨l, hl, by simpa using hle⟩)]
  all_goals
    have hall : ¬ (s.keepRunLevels n).all (fun l => l < s.effectiveAuthority r) = false := by
      rw [Bool.not_eq_false, List.all_eq_true]
      exact fun l hm => decide_eq_true (hl l hm)
    rw [if_neg h.ne', if_neg hall]
  · rw [if_pos hm]
  all_goals rw [if_neg (Nat.not_lt.mpr hm)]
  · rw [if_pos hs]
  · rw [if_neg (by simp [hs]), if_pos ho]
  · rw [if_neg (by simp [hs]), if_neg (by simp [ho])]

/-- R56: stop permission holds where all five conditions do. -/
theorem permission_none (h : s.permission n r = .none) :
    0 < s.effectiveAuthority r ∧ (∀ l ∈ s.keepRunLevels n, l < s.effectiveAuthority r)
      ∧ r.runSince + r.tuning.minimumRun * 60 ≤ s.timeBase ∧ s.spared r = true ∧ s.otherStopping n r = false := by
  obtain ⟨h0, h1, h2⟩ := permission_by_condition s n r
  have hE : 0 < s.effectiveAuthority r := Nat.pos_of_ne_zero fun he => by simp [h0 he] at h
  have hl : ∀ l ∈ s.keepRunLevels n, l < s.effectiveAuthority r := fun l hl => by
    by_contra hc
    simp [h1 hE ⟨l, hl, Nat.not_lt.mp hc⟩] at h
  obtain ⟨h3, h4⟩ := h2 hE hl
  have hm : r.runSince + r.tuning.minimumRun * 60 ≤ s.timeBase := by
    by_contra hc
    simp [h3 (Nat.not_le.mp hc)] at h
  obtain ⟨h5, h6, -⟩ := h4 hm
  have hs : s.spared r = true := by
    by_contra hc
    simp [h5 (Bool.not_eq_true _ ▸ hc)] at h
  refine ⟨hE, hl, hm, hs, ?_⟩
  by_contra hc
  simp [h6 hs (Bool.not_eq_false _ ▸ hc)] at h

theorem Guarded.evaluate : Guarded s (s.evaluate n) := by
  unfold State.evaluate
  split
  · exact .refl s
  · rename_i r hl
    split
    · split
      · rename_i hperm
        exact .moveTo hl (fun _ => soleStopping_of_otherStopping (permission_none hperm).2.2.2.2) (by simp)
      · exact .setLoad hl rfl rfl rfl
    · exact .refl s

theorem Guarded.enqueue (c : StartClass) (h : s.startOffer n = .entered) : Guarded s (s.enqueue n c) := by
  obtain ⟨hst, hk, -⟩ := startOffer_entered h
  obtain ⟨r, hl, -⟩ := stateOf_eq.mp hst
  unfold State.enqueue
  exact Guarded.trans (t := { s with queue := placeEntry (s.newEntry n c) s.queue, arrivals := s.arrivals + 1 }) (.of_same rfl rfl)
    (.moveTo (r := r) hl (by simp) (fun _ => .inl hk))

theorem modifyGroup_holds (s : State) (g : Nat) (f : Group → Group) :
    (s.modifyGroup g f).loads = s.loads ∧ (s.modifyGroup g f).holds = s.holds := by
  unfold State.modifyGroup; split <;> exact ⟨rfl, rfl⟩

theorem Guarded.modifyGroup (g : Nat) (f : Group → Group) : Guarded s (s.modifyGroup g f) :=
  .of_same (modifyGroup_holds s g f).1 (modifyGroup_holds s g f).2

theorem Guarded.testGroup (g : Nat) : Guarded s (s.testGroup g) := by
  unfold State.testGroup
  split
  · exact .refl s
  · split
    · exact .refl s
    all_goals
      split
      · split
        · exact .modifyGroup g _
        · split
          · rename_i ho; exact (Guarded.enqueue .supply ho).trans (.modifyGroup g _)
          all_goals exact .modifyGroup g _
      · exact .modifyGroup g _

theorem Guarded.examineEntry (e : Entry) : Guarded s (s.examineEntry e) := by
  rcases examineEntry_cases s e with h | ⟨r, hl, hq, h⟩ | ⟨w, h⟩
  · rw [h]; exact .refl s
  · rw [h]; exact .moveTo hl (by simp) (fun _ => .inr (.inl hq))
  · rw [h]; exact .of_same rfl rfl

theorem Guarded.foldl {α : Type} {f : State → α → State} (hf : ∀ s x, Guarded s (f s x)) (q : List α) (s : State) :
    Guarded s (q.foldl f s) := by
  induction q generalizing s with
  | nil => exact .refl s
  | cons x rest ih => exact (hf s x).trans (ih _)

theorem Guarded.offerWake : Guarded s (s.offerWake n) := by
  unfold State.offerWake
  split
  · rename_i h; exact .enqueue .wake h
  · exact .refl s
  · exact .writeOutcome _ _

/-- A period end leaves a record in its state, or moves it among RUN, IDLE and DUE (R35 to R39). -/
theorem periodEnded_guard (r : LoadRecord) (period now : Nat) :
    (r.periodEnded period now).provides = r.provides ∧ (r.periodEnded period now).isolatorHold = r.isolatorHold
      ∧ ((r.periodEnded period now).state = r.state ∨ (r.periodEnded period now).state = .run
        ∨ (r.periodEnded period now).state = .idle ∨ (r.periodEnded period now).state = .due) := by
  unfold LoadRecord.periodEnded
  split
  · exact ⟨rfl, rfl, .inl rfl⟩
  · split
    · split
      · exact ⟨rfl, rfl, .inr (.inr (.inl rfl))⟩
      · exact ⟨rfl, rfl, .inl rfl⟩
    · split
      · split
        · exact ⟨rfl, rfl, .inr (.inl rfl)⟩
        · split
          · exact ⟨rfl, rfl, .inr (.inr (.inr rfl))⟩
          · exact ⟨rfl, rfl, .inl rfl⟩
      · split
        · exact ⟨rfl, rfl, .inr (.inl rfl)⟩
        · exact ⟨rfl, rfl, .inl rfl⟩

theorem periodEndOf_holds (s : State) (n : Nat) : (s.periodEndOf n).holds = s.holds := by
  cases hl : s.load n with
  | none => unfold State.periodEndOf; rw [hl]
  | some r =>
    rcases periodEndOf_cases hl with h | ⟨r1, new, h, -⟩
    · rw [h]; rfl
    · rw [h, moveTo_holds]; rfl

theorem Guarded.periodEndOf : Guarded s (s.periodEndOf n) := by
  cases hl : s.load n with
  | none => unfold State.periodEndOf; rw [hl]; exact .refl s
  | some r =>
    obtain ⟨hp, hi, hs⟩ := periodEnded_guard r s.period s.timeBase
    refine .written hl (periodEndOf_load hl) (fun m hm => periodEndOf_load_ne hm) (periodEndOf_holds s n) (fun h => ?_) (fun h => ?_)
    · rcases hs with hs | hs | hs | hs
      · exact .inl ⟨hs ▸ h, hp⟩
      all_goals rw [hs] at h; contradiction
    · rcases hs with hs | hs | hs | hs
      · exact ⟨hi, .inr (hs ▸ h)⟩
      all_goals rw [hs] at h; simp at h

theorem activate_holds (s : State) (p : Nat) : (s.activate p).1.loads = s.loads ∧ (s.activate p).1.holds = s.holds := by
  unfold State.activate
  split
  · exact ⟨rfl, rfl⟩
  · dsimp only [State.fallSlot]
    split <;> exact ⟨rfl, rfl⟩

theorem Guarded.run (w : Work) : Guarded s (w.run s).1 := by
  cases w with
  | evaluate n => exact .evaluate
  | testGroup g => exact .testGroup g
  | examine => exact .foldl (fun _ e => .examineEntry e) s.queue s
  | recompute => exact .of_same rfl rfl
  | periodEnd n => exact .periodEndOf
  | activate p => exact .of_same (activate_holds s p).1 (activate_holds s p).2
  | offer members =>
    cases members with
    | nil => exact .refl s
    | cons n rest =>
      simp only [Work.run]
      split
      · exact .offerWake
      · exact .foldl (fun _ _ => .offerWake) (n :: rest) s

/-- Every hand-off of a step keeps the guards. -/
theorem Guarded.settle (s0 s1 : State) (work : List Work) : Guarded s1 (s0.settle s1 work) :=
  settle_keeps (P := Guarded s1) (fun _ _ h => h.trans (.of_same rfl rfl)) (fun w _ h => h.trans (.run w)) (.refl s1)

end Sys2Proof.Machine
end

section
/-! SUPPORT. Reports, losses and the rules of a line under the guards of `Guarded`. -/

namespace Sys2Proof.Machine

variable {s t u : State} {n m : Nat} {r r' : LoadRecord} {new : LoadState} {out : Option (Operation × OpResult)} {l : Fin 4}

/-! ### Holds that appear or leave -/

theorem overtake_cases (s : State) (n level : Nat) :
    s.overtake n level = s ∨ s.overtake n level = s.moveTo n .run (some (.stop, .overtaken)) := by
  unfold State.overtake
  split
  · exact .inl rfl
  · split
    · exact .inr rfl
    · exact .inl rfl

theorem Guarded.overtake (level : Nat) : Guarded s (s.overtake n level) := by
  rcases overtake_cases s n level with h | h <;> rw [h]
  · exact .refl s
  · exact .leave (by simp) (by simp) (by simp)

/-- R62, R64, R83: what a KEEP-OFF hold that appears does, by the state of its load. -/
theorem keepOffAppears_cases (hl : s.load n = some r) :
    (r.state = .queued ∧ s.keepOffAppears n = s.moveTo n .stopped (some (.start, .cancelled)))
      ∨ (r.state = .starting ∧ s.otherStopping n r = true ∧ s.keepOffAppears n = s.moveTo n .fault (some (.start, .cancelled)))
      ∨ (r.state = .starting ∧ s.otherStopping n r = false ∧ s.keepOffAppears n = s.moveTo n .stopping (some (.start, .cancelled)))
      ∨ (r.state ≠ .queued ∧ r.state ≠ .starting ∧ s.keepOffAppears n = s) := by
  by_cases hq : r.state = .queued
  · exact .inl ⟨hq, by simp [State.keepOffAppears, hl, hq]⟩
  · by_cases hs : r.state = .starting
    · cases ho : s.otherStopping n r with
      | true => exact .inr (.inl ⟨hs, rfl, by simp [State.keepOffAppears, hl, hs, ho]⟩)
      | false => exact .inr (.inr (.inl ⟨hs, rfl, by simp [State.keepOffAppears, hl, hs, ho]⟩))
    · exact .inr (.inr (.inr ⟨hq, hs, keepOffAppears_calm hl hq hs⟩))

theorem keepOffAppears_holds (s : State) (n : Nat) : (s.keepOffAppears n).holds = s.holds := by
  cases hl : s.load n with
  | none => unfold State.keepOffAppears; rw [hl]
  | some r =>
    rcases keepOffAppears_cases hl with ⟨-, h⟩ | ⟨-, -, h⟩ | ⟨-, -, h⟩ | ⟨-, -, h⟩ <;> rw [h]
    all_goals exact moveTo_holds

/-- R62, R64, R83: under a hold that has just appeared the load is in neither QUEUED nor STARTING, and enters STOPPING alone. `s` is the
state before the hold. -/
theorem Guarded.appearing (hs : s.load n = some r) (ht : t.load n = some r') (h1 : r'.state = r.state) (h2 : r'.provides = r.provides)
    (hl : ∀ m, m ≠ n → t.load m = s.load m)
    (hh : ∀ e ∈ t.holds, e.2.load ≠ n → e.2.sense = .keepOff → ∃ e' ∈ s.holds, e'.2.load = e.2.load ∧ e'.2.sense = .keepOff) :
    Guarded s (t.keepOffAppears n) := by
  refine .one (fun m hm => (keepOffAppears_load_ne hm).trans (hl m hm)) ((keepOffAppears_holds t n).symm ▸ hh) ⟨fun x hx hst => ?_, fun hk hst => ?_⟩
  · rcases keepOffAppears_cases ht with ⟨-, h⟩ | ⟨-, -, h⟩ | ⟨-, ho, h⟩ | ⟨-, -, h⟩ <;> rw [h] at hx
    · rw [moveTo_load_self ht] at hx; obtain rfl := Option.some.inj hx; simp at hst
    · rw [moveTo_load_self ht] at hx; obtain rfl := Option.some.inj hx; simp at hst
    · rw [moveTo_load_self ht] at hx; obtain rfl := Option.some.inj hx
      refine .inr fun p m rm pm hp hm hlm => ?_
      exact soleStopping_of_otherStopping ho p m rm pm ((movedRecord_kept t r' .stopping _).1 ▸ hp) hm (hl m hm ▸ hlm)
    · obtain rfl : r' = x := Option.some.inj (ht.symm.trans hx)
      exact .inl ⟨r, hs, h1 ▸ hst, h2⟩
  · exfalso
    rcases keepOffAppears_cases ht with ⟨-, h⟩ | ⟨-, -, h⟩ | ⟨-, -, h⟩ | ⟨hq, hg, h⟩ <;> rw [h] at hst
    · simp [State.stateOf, moveTo_load_self ht] at hst
    · simp [State.stateOf, moveTo_load_self ht] at hst
    · simp [State.stateOf, moveTo_load_self ht] at hst
    · simp [State.stateOf, ht, hq, hg] at hst

/-- With a KEEP-OFF hold gone, a load carries one only where it did (R84). -/
theorem Guarded.keepOffLeft : Guarded s (s.keepOffLeft n) := by
  unfold State.keepOffLeft
  split
  · exact .refl s
  · exact .of_same rfl rfl

theorem Guarded.mark (n : Nat) : Guarded s (s.mark n) := .of_same rfl rfl

theorem Guarded.setLine (x : Line) : Guarded s (s.setLine l x) := .of_same rfl rfl

/-! ### Reports -/

theorem Guarded.followIsolator (b : Bool) : Guarded s (s.followIsolator n b) := by
  unfold State.followIsolator
  split
  · exact .refl s
  · rename_i r hl
    split
    · exact .refl s
    · dsimp only
      split
      · exact .appearing (r' := { r with isolatorHold := b }) hl (by simp) rfl rfl (fun m hm => by simp [hm])
          (fun e he _ hs => ⟨e, he, rfl, hs⟩)
      · rename_i hb
        refine Guarded.trans (Guarded.trans (t := s.setLoad n { r with isolatorHold := b }) ?_ (.mark n)) .keepOffLeft
        refine .one (n := n) (fun m hm => by simp [hm]) (fun e he _ hs => ⟨e, he, rfl, hs⟩) ⟨fun x hx hs => ?_, fun hk hs => ⟨?_, ?_⟩⟩
        · simp only [load_setLoad, if_true, Option.some.injEq] at hx
          subst hx
          exact .inl ⟨r, hl, hs, rfl⟩
        · refine keepOff_mono (s := s) ?_ (fun x hx hi => ?_) hk
          · exact fun e he hn hs => ⟨e, he, hn, hs⟩
          simp only [load_setLoad, if_true, Option.some.injEq] at hx
          subst hx
          exact absurd hi hb
        · simpa [State.stateOf, hl] using hs

theorem Guarded.flagged (f : LoadRecord → LoadRecord) (h1 : ∀ r, (f r).state = r.state) (h2 : ∀ r, (f r).provides = r.provides)
    (h3 : ∀ r, (f r).isolatorHold = r.isolatorHold) (b : Bool) : Guarded s ((s.modifyLoad n f).followIsolator n b) :=
  (Guarded.modifyLoad f h1 h2 h3).trans (.followIsolator b)

theorem Guarded.firstReport (rep : Report) : Guarded s (s.firstReport n rep) := by
  unfold State.firstReport
  refine Guarded.trans (.flagged (n := n) (fun r => { r with buttonTaken := rep.button, lastRun := some rep.run }) (fun _ => rfl) (fun _ => rfl)
    (fun _ => rfl) rep.isolatorOpen) ?_
  have hfirst : firstState rep = .inLocal ∨ firstState rep = .stopped ∨ firstState rep = .run := by
    unfold firstState
    split
    · exact .inl rfl
    · split
      · exact .inr (.inl rfl)
      · exact .inr (.inr rfl)
  rcases hfirst with h | h | h <;> rw [h] <;> exact .leave (by simp) (by simp) (by simp)

theorem Guarded.localStep (rep : Report) : Guarded s (s.localStep n rep) := by
  unfold State.localStep
  split
  · exact .refl s
  · split
    · exact .refl s
    · split <;> exact .leave (by simp) (by simp) (by simp)
  · exact .refl s
  · exact .refl s
  · split
    · exact .leave (by simp) (by simp) (by simp)
    · exact .refl s

theorem Guarded.placeButtonHold : Guarded s (s.placeButtonHold n) :=
  (Guarded.modifyLoad (fun r => { r with buttonHold := some r.tuning.buttonTime }) (fun _ => rfl) (fun _ => rfl) (fun _ => rfl)).trans
    (.mark n)

theorem Guarded.offerButton : Guarded s (s.offerButton n) := by
  unfold State.offerButton
  split
  · rename_i h; exact .enqueue .call h
  · exact .writeOutcome _ _
  · exact .writeOutcome _ _

theorem Guarded.press (b : Bool) : Guarded s (s.press n b) := by
  unfold State.press
  split
  · exact .placeButtonHold
  · exact .placeButtonHold
  · split
    · exact .placeButtonHold
    · exact Guarded.trans .placeButtonHold .evaluate
  · split
    · exact .placeButtonHold
    · exact Guarded.trans .placeButtonHold (.overtake 1)
  · split
    · exact .refl s
    · exact .offerButton
  · exact .refl s

theorem Guarded.buttonStep (rep : Report) (b : Bool) : Guarded s (s.buttonStep n rep b) := by
  unfold State.buttonStep
  split
  · exact .refl s
  · rename_i r hl
    split
    · exact .refl s
    · exact Guarded.trans (.setLoad (r' := { r with buttonTaken := rep.button }) hl rfl rfl rfl) (.press b)

theorem Guarded.retireStep (hl : s.load n = some r) (rep : Report) (sent : Commanded) : Guarded s (s.retireStep n r rep sent) := by
  unfold State.retireStep
  split
  · exact .removeLoad _
  · split
    · exact .removeLoad _
    · exact .setLoad hl rfl rfl rfl

theorem Guarded.runStep (rep : Report) (sent : Commanded) : Guarded s (s.runStep n rep sent) := by
  have leave : ∀ {c : Prop} [Decidable c] {new out}, new ≠ .stopping → new ≠ .queued → new ≠ .starting →
      Guarded s (if c then s.moveTo n new out else s) := fun h1 h2 h3 => by
    split
    · exact .leave h1 h2 h3
    · exact .refl s
  unfold State.runStep
  split
  · exact .refl s
  · rename_i r hl
    split
    case h_5 =>
      split
      · exact .leave (by simp) (by simp) (by simp)
      · exact leave (by simp) (by simp) (by simp)
    case h_7 =>
      split
      · exact Guarded.trans (.leave (new := .run) (by simp) (by simp) (by simp)) (.modifyLoad _ (fun _ => rfl) (fun _ => rfl) (fun _ => rfl))
      · exact .refl s
    case h_8 => exact .retireStep hl rep sent
    case h_1 | h_2 | h_3 | h_4 | h_6 => exact leave (by simp) (by simp) (by simp)
    all_goals exact .refl s

theorem Guarded.laterReport (old : LoadState) (rep : Report) (sent : Commanded) : Guarded s (s.laterReport n old rep sent) := by
  unfold State.laterReport
  dsimp only
  have h2 : Guarded s ((s.modifyLoad n (fun r => { r with lastRun := some rep.run })).followIsolator n rep.isolatorOpen) :=
    .flagged (fun r => { r with lastRun := some rep.run }) (fun _ => rfl) (fun _ => rfl) (fun _ => rfl) rep.isolatorOpen
  generalize (s.modifyLoad n (fun r => { r with lastRun := some rep.run })).followIsolator n rep.isolatorOpen = s2 at h2 ⊢
  have h3 : Guarded s (if s2.stateOf n = some old then s2.localStep n rep else s2) := by
    split
    · exact h2.trans (.localStep rep)
    · exact h2
  generalize (if s2.stateOf n = some old then s2.localStep n rep else s2) = s3 at h3 ⊢
  have h4 : Guarded s (s3.buttonStep n rep (s3.stateOf n != some old)) := h3.trans (.buttonStep rep _)
  split
  · exact h4.trans (.runStep rep sent)
  · exact h4

theorem Guarded.report (rep : Report) (sent : Commanded) : Guarded s (s.report n rep sent) := by
  have hran : ∀ (v : State) (old : LoadState), Guarded v (v.ranByReport n old) := fun v old => by
    unfold State.ranByReport
    split
    · exact .of_same rfl rfl
    · exact .refl v
  unfold State.report
  split
  · exact .refl s
  · rename_i r hl
    refine Guarded.trans ?_ (hran _ _)
    split
    · exact Guarded.trans (.setLoad (r' := r.gathered rep.strokes rep.current) hl rfl rfl rfl) (.firstReport rep)
    · exact Guarded.trans (.setLoad (r' := r.gathered rep.strokes rep.current) hl rfl rfl rfl) (.laterReport _ rep sent)

/-! ### Loss, disabling and the end of an exchange -/

theorem Guarded.loseLoad : Guarded s (s.loseLoad n) := by
  unfold State.loseLoad
  split
  · exact .refl s
  · rename_i r hl
    split
    case h_9 => exact .setLoad hl rfl rfl rfl
    case h_10 => exact .setLoad hl rfl rfl rfl
    case h_11 => exact .removeLoad _
    all_goals exact .leave (by simp) (by simp) (by simp)

theorem Guarded.abandonLoad : Guarded s (s.abandonLoad n) := by
  unfold State.abandonLoad
  split
  · exact .refl s
  · rename_i r hl
    have h0 : Guarded s (s.setLoad n { r with missCount := 0 }) := .setLoad hl rfl rfl rfl
    dsimp only
    split
    case h_1 => exact h0
    case h_2 => exact h0.trans (.removeLoad _)
    all_goals exact h0.trans (.leave (by simp) (by simp) (by simp))

theorem Guarded.declareLost (a : Nat) : Guarded s (s.declareLost l n a) := Guarded.trans (.setLine _) .loseLoad

theorem Guarded.failDrop : Guarded s (s.failDrop l n) := by
  unfold State.failDrop
  split
  · exact .refl s
  · rename_i r hl
    dsimp only
    generalize (if r.missCount = (s.lineAt l).lossCount then r.missCount else r.missCount + 1) = misses
    have h0 : Guarded s (s.setLoad n { r with missCount := misses }) := .setLoad hl rfl rfl rfl
    split
    · split
      · exact h0.trans (.removeLoad _)
      · exact h0
    · split
      · exact h0.trans (.declareLost _)
      · exact h0

theorem Guarded.validDrop (a : Nat) (rep : Report) (sent : Commanded) : Guarded s (s.validDrop l n a rep sent) := by
  unfold State.validDrop
  refine Guarded.trans (Guarded.trans ?_ (.setLine _)) (.report rep sent)
  exact .modifyLoad _ (fun _ => rfl) (fun _ => rfl) (fun _ => rfl)

theorem Guarded.endExchange (chars : List RxChar) : Guarded s (s.endExchange l chars) := by
  unfold State.endExchange
  split
  · exact .refl s
  · dsimp only
    split
    · exact .setLine _
    · split
      · exact Guarded.trans (.setLine _) (.validDrop _ _ _)
      all_goals exact Guarded.trans (.setLine _) .failDrop

theorem Guarded.applyLossCount (loss : Nat) : Guarded s (State.applyLossCount l loss s n) := by
  unfold State.applyLossCount
  split
  · exact .refl s
  · rename_i r hl
    have h0 : Guarded s (s.setLoad n { r with missCount := loss }) := .setLoad hl rfl rfl rfl
    split
    · exact h0
    · split
      · exact h0.trans (.declareLost _)
      · exact .refl s

theorem Guarded.writeLine (e : Bool) (d w c : Nat) : Guarded s (s.writeLine l e d w c) := by
  unfold State.writeLine
  dsimp only
  split
  · exact Guarded.trans (.setLine _) (.foldl (fun _ _ => .applyLossCount c) _ _)
  · split
    · exact Guarded.trans (.setLine _) (.foldl (fun _ _ => .abandonLoad) _ _)
    · exact .setLine _

theorem Guarded.startExchange : Guarded s (s.startExchange l) := by
  unfold State.startExchange
  split
  · split
    · exact .refl s
    · split <;> exact .setLine _
  · exact .refl s

end Sys2Proof.Machine
end

section
/-! SUPPORT. Every row of the table under the guards of `Guarded`, and the two laws they keep (R62, R83, R112). -/

namespace Sys2Proof

/-- The rows that are commands of the port taken by `runCommand`, with the code and the meaning of each. -/
def Instr.command (i : Instr) : Option (Byte × (List Byte → Machine.State → Machine.Reply)) :=
  match i with
  | .identify => some (0x02, Machine.identify)
  | .readAttention => some (0x03, Machine.readAttention)
  | .setAttentionMask => some (0x04, Machine.setAttentionMask)
  | .setPlant => some (0x06, Machine.setPlant)
  | .enrolLoad => some (0x10, Machine.enrolLoad)
  | .tuneLoad => some (0x11, Machine.tuneLoad)
  | .linkLoad => some (0x12, Machine.linkLoad)
  | .planLoad => some (0x13, Machine.planLoad)
  | .readLoad => some (0x14, Machine.readLoad)
  | .findLoad => some (0x15, Machine.findLoad)
  | .retireLoad => some (0x16, Machine.retireLoad)
  | .listChanged => some (0x17, Machine.listChanged)
  | .startLoad => some (0x18, Machine.onLoad Machine.startLoadBody)
  | .stopLoad => some (0x19, Machine.stopLoad)
  | .cancelStop => some (0x1A, Machine.onLoad Machine.cancelStopBody)
  | .clearFault => some (0x1B, Machine.onLoad Machine.clearFaultBody)
  | .cancelStart => some (0x1C, Machine.onLoad Machine.cancelStartBody)
  | .readQueue => some (0x1D, Machine.readQueue)
  | .placeHold => some (0x20, Machine.placeHold)
  | .releaseHold => some (0x21, Machine.releaseHold)
  | .releaseButtonHold => some (0x22, Machine.onLoad Machine.releaseButtonHoldBody)
  | .readHolds => some (0x23, Machine.onLoad Machine.readHoldsBody)
  | .defineGroup => some (0x28, Machine.defineGroup)
  | .removeGroup => some (0x29, Machine.removeGroup)
  | .readGroup => some (0x2A, Machine.readGroup)
  | .readClock => some (0x31, Machine.readClock)
  | .setDayMap => some (0x32, Machine.setDayMap)
  | .overrideToday => some (0x33, Machine.overrideToday)
  | .setWindow => some (0x34, Machine.setWindow)
  | .readAuthority => some (0x35, Machine.readAuthority)
  | .setWakePlan => some (0x38, Machine.setWakePlan)
  | .readWakePlan => some (0x39, Machine.readWakePlan)
  | .setLine => some (0x40, Machine.setLine)
  | .readLine => some (0x41, Machine.readLine)
  | _ => none

end Sys2Proof

namespace Sys2Proof.Machine

variable {s t u : State} {n m : Nat} {r r' : LoadRecord} {i : Instr} {code : Byte} {body : List Byte → State → Reply}

theorem exec_command (h : i.command = some (code, body)) : exec i s = .next (s.runCommand code body) := by
  cases i <;> simp only [Instr.command, reduceCtorEq, Option.some.injEq, Prod.mk.injEq] at h
  all_goals
    obtain ⟨rfl, rfl⟩ := h
    rfl

/-! ### The commands -/

/-- What a command's meaning makes keeps the guards. -/
def Reply.Guards (s : State) (p : Reply) : Prop := Guarded s p.state

theorem guards_refuse (c : Completion) : (refuse s c).Guards s := Guarded.refl s

theorem guards_same {c : Completion} {d : List Byte} {work : List Work} (hl : t.loads = s.loads) (hh : t.holds = s.holds) :
    (Reply.mk t c d work).Guards s := Guarded.of_same hl hh

theorem Reads.guards (h : Reads body) (params : List Byte) : (body params s).Guards s := by
  rcases h params s with ⟨c, hc⟩ | ⟨d, hd⟩
  · rw [hc]; exact guards_refuse c
  · rw [hd]; exact guards_same rfl rfl

theorem onLoad_guards {f : Nat → LoadRecord → State → Reply} (hf : ∀ n r, s.load n = some r → (f n r s).Guards s) (params : List Byte) :
    (onLoad f params s).Guards s := by
  unfold onLoad
  split
  · split
    · exact guards_refuse _
    · split
      · exact guards_refuse _
      · exact hf _ _ ‹_›
  · exact guards_refuse _

theorem enrolLoad_guards (params : List Byte) : (enrolLoad params s).Guards s := by
  unfold enrolLoad
  split
  · split
    · exact guards_refuse _
    · split
      · exact guards_refuse _
      · exact guards_refuse _
      · split
        · exact guards_refuse _
        · rename_i n line address feeder weight _ _ _ _
          have hn : (s.enrol n.toNat (lineOf line) address.toNat (feederOf feeder) weight.toNat).load n.toNat
              = some (newRecord (lineOf line) address.toNat (feederOf feeder) weight.toNat s.timeBase) := by simp [State.enrol]
          refine Guarded.one (n := n.toNat) (fun m hm => ?_) (fun e he _ hs => ⟨e, he, rfl, hs⟩) ⟨fun r' hr hs => ?_, fun _ hs => ?_⟩
          · exact (load_setLoad _ _ _ _).trans (if_neg hm)
          · obtain rfl := Option.some.inj (hn.symm.trans hr)
            simp [newRecord] at hs
          · simp [State.stateOf, taken, hn, newRecord] at hs
  · exact guards_refuse _

theorem tuneLoad_guards (params : List Byte) : (tuneLoad params s).Guards s := by
  unfold tuneLoad
  split
  · split
    · exact guards_refuse _
    · split
      · exact guards_refuse _
      · rename_i r hl
        split
        · exact guards_refuse _
        · exact Guarded.setLoad hl rfl rfl rfl
  · exact guards_refuse _

/-- R13 step 5: the links of a STOPPING record stay. -/
theorem linkRefusal_none (h : s.linkRefusal n r r' = none) :
    r.state ≠ .stopping ∧ r.state ≠ .queued ∧ r.state ≠ .starting ∧ r.state ≠ .retiring := by
  unfold State.linkRefusal at h
  split at h
  · contradiction
  · rename_i hs; simpa only [not_or] using hs

theorem linkLoad_guards (params : List Byte) : (linkLoad params s).Guards s := by
  unfold linkLoad
  split
  · split
    · exact guards_refuse _
    · split
      · exact guards_refuse _
      · rename_i r hl
        dsimp only
        split
        · exact guards_refuse _
        · split
          · exact guards_refuse _
          · rename_i hr
            obtain ⟨h1, h2, h3, -⟩ := linkRefusal_none hr
            refine Guarded.written hl ((writeLinks_load s _ r _ _).trans (if_pos rfl)) (fun m hm => (writeLinks_load s _ r _ m).trans (if_neg hm))
              ?_ (fun hs => absurd hs h1) (fun hs => ?_)
            · simp only [taken, State.writeLinks]
              split <;> rfl
            · rcases hs with hs | hs <;> contradiction
  · exact guards_refuse _

theorem planLoad_guards (params : List Byte) : (planLoad params s).Guards s := by
  unfold planLoad
  split
  · split
    · exact guards_refuse _
    · split
      · exact guards_refuse _
      · rename_i r hl
        split
        · exact guards_refuse _
        · exact Guarded.setLoad hl rfl rfl rfl
  · exact guards_refuse _

/-- R21: a RETIRE LOAD that is taken strips a record that is in none of STOPPING, QUEUED and STARTING. -/
theorem stripLoad_guarded (h1 : r.state ≠ .stopping) (h2 : r.state ≠ .queued) (h3 : r.state ≠ .starting) :
    Guarded s (s.stripLoad n r) := by
  refine .one (n := n) (fun m hm => ?_) (fun e he _ hs => ⟨e, List.mem_of_mem_filter he, rfl, hs⟩) ⟨fun x hx hs => ?_, fun _ hs => ?_⟩
  · exact (load_setLoad _ _ _ _).trans (if_neg hm)
  · obtain rfl := Option.some.inj ((stripLoad_load s n r).symm.trans hx)
    exact absurd hs h1
  · simp only [State.stateOf, stripLoad_load, Option.map_some, Option.some.injEq] at hs
    rcases hs with hs | hs
    · exact absurd hs h2
    · exact absurd hs h3

theorem retireLoad_guards (params : List Byte) : (retireLoad params s).Guards s := by
  unfold retireLoad
  split
  · split
    · exact guards_refuse _
    · split
      · exact guards_refuse _
      · rename_i r hl
        split
        · exact guards_refuse _
        · rename_i hs
          simp only [not_or] at hs
          obtain ⟨h1, h2, h3, -⟩ := hs
          have h0 := fun n => stripLoad_guarded (s := s) (n := n) h1 h2 h3
          show Guarded s (s.retire _ r)
          unfold State.retire
          split
          · exact (h0 _).trans (.leave (by simp) (by simp) (by simp))
          · exact (h0 _).trans (.removeLoad _)
  · exact guards_refuse _

theorem startLoad_guards (n : Nat) (r : LoadRecord) : (startLoadBody n r s).Guards s := by
  unfold startLoadBody
  split
  · split
    · exact Guarded.enqueue .call ‹_›
    · exact guards_refuse _
    · exact guards_refuse _
  case h_2 => exact guards_same rfl rfl
  case h_3 => exact guards_same rfl rfl
  case h_4 => exact guards_same rfl rfl
  case h_5 => exact guards_same rfl rfl
  case h_6 => exact guards_same rfl rfl
  all_goals exact guards_refuse _

theorem stopLoadBody_guards (hl : s.load n = some r) (a : Nat) : (stopLoadBody n a r s).Guards s := by
  have h0 : Guarded s (s.setLoad n { r with portStop := some a }) := .setLoad hl rfl rfl rfl
  unfold stopLoadBody
  split
  case h_1 => exact h0.trans (.leave (new := .due) (by simp) (by simp) (by simp))
  case h_2 => exact h0.trans (.leave (new := .due) (by simp) (by simp) (by simp))
  case h_3 => exact h0
  case h_4 => exact guards_same rfl rfl
  case h_5 => exact guards_same rfl rfl
  all_goals exact guards_refuse _

theorem stopLoad_guards (params : List Byte) : (stopLoad params s).Guards s := by
  unfold stopLoad
  split
  · split
    · exact guards_refuse _
    · split
      · exact guards_refuse _
      · exact stopLoadBody_guards ‹_› _
  · exact guards_refuse _

theorem cancelStop_guards (hl : s.load n = some r) : (cancelStopBody n r s).Guards s := by
  have h0 : Guarded s (s.setLoad n { r with portStop := none }) := .setLoad hl rfl rfl rfl
  unfold cancelStopBody
  split
  · exact guards_same rfl rfl
  · dsimp only
    split
    · split
      · exact h0
      · split
        · exact h0.trans (.leave (new := .run) (by simp) (by simp) (by simp))
        · exact h0.trans (.leave (new := .idle) (by simp) (by simp) (by simp))
    · exact h0

theorem clearFault_guards (n : Nat) (r : LoadRecord) : (clearFaultBody n r s).Guards s := by
  unfold clearFaultBody
  split
  · exact Guarded.leave (by simp) (by simp) (by simp)
  · exact guards_refuse _

theorem cancelStart_guards (n : Nat) (r : LoadRecord) : (cancelStartBody n r s).Guards s := by
  unfold cancelStartBody
  split
  · exact Guarded.leave (by simp) (by simp) (by simp)
  · exact guards_refuse _

/-! ### Holds -/

/-- A change of the holds that brings no KEEP-OFF hold. -/
theorem Guarded.barsNone (hl : t.loads = s.loads)
    (hh : ∀ e ∈ t.holds, e.2.sense = .keepOff → ∃ e' ∈ s.holds, e'.2.load = e.2.load ∧ e'.2.sense = .keepOff) : Guarded s t := by
  have hload : ∀ m, t.load m = s.load m := fun m => by unfold State.load; rw [hl]
  refine ⟨fun m x hx hs => .inl ⟨x, hload m ▸ hx, hs, rfl⟩, fun m hk hs => ⟨?_, by unfold State.stateOf at hs ⊢; rwa [hload m] at hs⟩⟩
  refine keepOff_mono (t := t) (fun e he hem hse => ?_) (fun x hx hi => ⟨x, hload m ▸ hx, hi⟩) hk
  obtain ⟨e', he', hl', hs'⟩ := hh e he hse
  exact ⟨e', he', hl'.trans hem, hs'⟩

theorem holdActs_guarded {h : PortHold} (hl : s.load h.load = some r) (k : Nat) : Guarded s (s.placePortHold k h).state := by
  have hload : ∀ m, ({ s with holds := Table.put s.holds k h } : State).load m = s.load m := fun _ => rfl
  unfold State.placePortHold State.holdActs
  split
  · refine .appearing hl hl rfl rfl (fun m _ => hload m) (fun e he hne hs => ?_)
    rcases Table.mem_put he with rfl | he
    · exact absurd rfl hne
    · exact ⟨e, he, rfl, hs⟩
  · rename_i l hsense
    refine Guarded.trans (t := (({ s with holds := Table.put s.holds k h } : State).mark h.load)) ?_ (.overtake _)
    refine .barsNone rfl (fun e he hse => ?_)
    rcases Table.mem_put he with rfl | he
    · simp [hsense] at hse
    · exact ⟨e, he, rfl, hse⟩

theorem placeHold_guards (params : List Byte) : (placeHold params s).Guards s := by
  unfold placeHold
  split
  · split
    · exact guards_refuse _
    · split
      · exact guards_refuse _
      · rename_i r hl
        split
        · exact guards_refuse _
        · split
          · exact guards_refuse _
          · split
            · exact guards_refuse _
            · exact holdActs_guarded (h := ⟨_, _, _, _⟩) hl _
  · exact guards_refuse _

theorem removePortHold_guarded (k : Nat) (h : PortHold) : Guarded s (s.removePortHold k h).state := by
  have h0 : Guarded s (({ s with holds := Table.drop s.holds k } : State).mark h.load) :=
    .barsNone rfl (fun e he hse => ⟨e, List.mem_of_mem_filter he, rfl, hse⟩)
  unfold State.removePortHold State.holdLeft
  split
  · exact h0.trans .keepOffLeft
  · exact h0

theorem releaseHold_guards (params : List Byte) : (releaseHold params s).Guards s := by
  unfold releaseHold
  split
  · split
    · exact guards_refuse _
    · split
      · exact guards_refuse _
      · exact removePortHold_guarded _ _
  · exact guards_refuse _

theorem removeButtonHold_guarded (hl : s.load n = some r) : Guarded s (s.removeButtonHold n r).state :=
  Guarded.trans (.setLoad (r' := { r with buttonHold := none }) hl rfl rfl rfl) (.mark n)

theorem releaseButtonHold_guards (hl : s.load n = some r) : (releaseButtonHoldBody n r s).Guards s := by
  unfold releaseButtonHoldBody
  split
  · exact guards_refuse _
  · exact removeButtonHold_guarded hl

theorem holdMinute_guarded (s : State) : Guarded s
    { s with
      nextHoldMinute := s.nextHoldMinute + 60
      holds := Table.mapEach (fun _ h => h.countDown) s.holds
      loads := Table.mapEach (fun _ r => r.countDown) s.loads } := by
  have hload : ∀ m x, (Table.find (Table.mapEach (fun _ r => LoadRecord.countDown r) s.loads) m) = some x →
      ∃ r, s.load m = some r ∧ x = r.countDown := fun m x hx => by
    rw [Table.find_mapEach, Option.map_eq_some_iff] at hx
    obtain ⟨r, hr, rfl⟩ := hx
    exact ⟨r, hr, rfl⟩
  refine ⟨fun m x hx hs => ?_, fun m hk hs => ⟨keepOff_mono (s := s) (fun e he hem hse => ?_) (fun x hx hi => ?_) hk, ?_⟩⟩
  · obtain ⟨r, hr, rfl⟩ := hload m x hx
    exact .inl ⟨r, hr, hs, rfl⟩
  · obtain ⟨e', he', rfl⟩ := List.mem_map.mp he
    exact ⟨e', he', hem, hse⟩
  · obtain ⟨r, hr, rfl⟩ := hload m x hx
    exact ⟨r, hr, hi⟩
  · simpa [State.stateOf, State.load, Option.map_map, Function.comp_def, LoadRecord.countDown] using hs

/-! ### The other rows -/

theorem other_guards {p : Reply} (h : p.state.loads = s.loads ∧ p.state.holds = s.holds) : p.Guards s := Guarded.of_same h.1 h.2

theorem setLine_guards (params : List Byte) : (setLine params s).Guards s := by
  unfold setLine
  split
  · split
    · exact guards_refuse _
    · exact Guarded.writeLine _ _ _ _
  · exact guards_refuse _

/-- The commands of the clock, the windows, the plans, the groups and the port touch no record and no hold by themselves. -/
theorem command_guards (h : i.command = some (code, body)) (params : List Byte) : (body params s).Guards s := by
  cases i <;> simp only [Instr.command, reduceCtorEq, Option.some.injEq, Prod.mk.injEq] at h
  all_goals obtain ⟨rfl, rfl⟩ := h
  case identify => exact identify_reads.guards params
  case findLoad => exact findLoad_reads.guards params
  case readQueue => exact readQueue_reads.guards params
  case readHolds => exact readHolds_reads.guards params
  case readGroup => exact readGroup_reads.guards params
  case readClock => exact readClock_reads.guards params
  case readAuthority => exact readAuthority_reads.guards params
  case readWakePlan => exact readWakePlan_reads.guards params
  case enrolLoad => exact enrolLoad_guards params
  case tuneLoad => exact tuneLoad_guards params
  case linkLoad => exact linkLoad_guards params
  case planLoad => exact planLoad_guards params
  case retireLoad => exact retireLoad_guards params
  case startLoad => exact onLoad_guards (fun n r _ => startLoad_guards n r) params
  case stopLoad => exact stopLoad_guards params
  case cancelStop => exact onLoad_guards (fun _ _ hl => cancelStop_guards hl) params
  case clearFault => exact onLoad_guards (fun n r _ => clearFault_guards n r) params
  case cancelStart => exact onLoad_guards (fun n r _ => cancelStart_guards n r) params
  case placeHold => exact placeHold_guards params
  case releaseHold => exact releaseHold_guards params
  case releaseButtonHold => exact onLoad_guards (fun _ _ hl => releaseButtonHold_guards hl) params
  case setLine => exact setLine_guards params
  case readAttention => unfold readAttention; split <;> exact other_guards ⟨rfl, rfl⟩
  case setAttentionMask => unfold setAttentionMask; repeat' split
                           all_goals exact other_guards ⟨rfl, rfl⟩
  case setPlant => unfold setPlant; repeat' split
                   all_goals exact other_guards ⟨rfl, rfl⟩
  case readLoad => unfold readLoad; repeat' split
                   all_goals exact other_guards ⟨rfl, rfl⟩
  case listChanged => unfold listChanged; split <;> exact other_guards ⟨rfl, rfl⟩
  case defineGroup => unfold defineGroup; repeat' split
                      all_goals exact other_guards ⟨rfl, rfl⟩
  case removeGroup => unfold removeGroup; repeat' split
                      all_goals exact other_guards ⟨rfl, rfl⟩
  case setDayMap => unfold setDayMap; repeat' split
                    all_goals exact other_guards ⟨rfl, rfl⟩
  case overrideToday => unfold overrideToday; repeat' split
                        all_goals exact other_guards ⟨rfl, rfl⟩
  case setWindow => unfold setWindow; repeat' split
                    all_goals exact other_guards ⟨rfl, rfl⟩
  case setWakePlan => unfold setWakePlan State.setWakePlan; repeat' split
                      all_goals exact other_guards ⟨rfl, rfl⟩
  case readLine => unfold readLine; repeat' split
                   all_goals exact other_guards ⟨rfl, rfl⟩

theorem runCommand_guarded (hb : ∀ params, (body params s).Guards s) : Guarded s (s.runCommand code body) := by
  unfold State.runCommand
  split
  · exact .refl s
  · exact Guarded.trans (Guarded.trans (hb _) (.settle s _ _)) (.of_same rfl rfl)

theorem runEvent_guarded {e : Effect} (h : Guarded s e.state) : Guarded s (s.runEvent e) := h.trans (.settle s _ _)

theorem carry_holds (s : State) (c : PlantClock) : (s.carry c).loads = s.loads ∧ (s.carry c).holds = s.holds := by
  unfold State.carry
  split <;> exact ⟨rfl, rfl⟩

theorem newMinute_guarded (c : PlantClock) : Guarded s (s.newMinute c) :=
  runEvent_guarded (.of_same (carry_holds s c).1 (carry_holds s c).2)

theorem minutesTaken_guarded (k : Nat) (s : State) : Guarded s (State.minutesTaken k s) := by
  induction k generalizing s with
  | zero => exact .refl s
  | succ k ih =>
    unfold State.minutesTaken
    split
    · exact .refl s
    · exact (newMinute_guarded _).trans (ih _)

theorem setClock_guards (params : List Byte) : (setClock params s).Guards s := by
  unfold setClock
  split
  · split
    · exact guards_refuse _
    · unfold State.setTheClock State.clockSet
      refine other_guards ?_
      dsimp only [taken]
      split
      · exact ⟨rfl, rfl⟩
      · split <;> exact ⟨rfl, rfl⟩
  · exact guards_refuse _

theorem controlReset_guarded (s : State) : Guarded s s.controlReset := by
  have hload : ∀ m x, s.controlReset.load m = some x → x.state = .unknown := fun m x hx => by
    simp only [State.controlReset, State.load, State.recompute, Table.find_mapEach, Option.map_eq_some_iff] at hx
    obtain ⟨r, -, rfl⟩ := hx
    rfl
  refine ⟨fun m x hx hs => by simp [hload m x hx] at hs, fun m _ hs => ?_⟩
  exfalso
  rcases hs with hs | hs <;>
  · obtain ⟨x, hx, hst⟩ := stateOf_eq.mp hs
    simp [hload m x hx] at hst

theorem transaction_holds (s : State) (b : List Byte) : (s.transaction b).loads = s.loads ∧ (s.transaction b).holds = s.holds := by
  obtain ⟨h1, -, -, -, h2, -⟩ := (Elsewhere.transaction s b).same
  exact ⟨h1, h2⟩

theorem atReset_guarded (p : List Instr) (c : Nat) : Guarded s (State.atReset p c) :=
  ⟨fun m x hx _ => by simp [load_atReset] at hx, fun m _ hs => by simp [stateOf_atReset] at hs⟩

/-- Every row keeps the guards. -/
theorem exec_guarded (h : exec i s = .next t) : Guarded s t := by
  cases hc : i.command with
  | some c =>
    rw [exec_command hc] at h
    cases h
    exact runCommand_guarded (fun params => command_guards hc params)
  | none =>
    cases i with
    | commandFrame mosi => cases h; exact .of_same (transaction_holds s _).1 (transaction_holds s _).2
    | fetch clocks =>
      simp only [exec, execFetch] at h
      split at h <;> cases h
      · exact .refl s
      · exact .of_same rfl rfl
    | unknownCommand =>
      simp only [exec, execUnknownCommand] at h
      split at h
      · cases h; exact .refl s
      · split at h <;> cases h
        · exact .refl s
        · exact .of_same rfl rfl
    | hardwareReset => rw [execHardwareReset_eq] at h; cases h; exact atReset_guarded _ _
    | resetControl =>
      simp only [exec, execResetControl] at h
      split at h <;> cases h
      · exact .refl s
      · unfold resetControl
        split
        · exact Guarded.trans (controlReset_guarded s) (.of_same rfl rfl)
        · exact .of_same rfl rfl
    | setClock =>
      simp only [exec, execSetClock] at h
      split at h <;> cases h
      · exact .refl s
      · split
        · exact (minutesTaken_guarded _ s).trans (runCommand_guarded setClock_guards)
        · exact runCommand_guarded setClock_guards
    | timeBaseSecond => cases h; exact .of_same rfl rfl
    | plantClockMinute =>
      simp only [exec, execPlantClockMinute] at h
      split at h
      · cases h; exact .refl s
      · split at h <;> cases h
        · exact newMinute_guarded _
        · exact .refl s
    | midnight =>
      simp only [exec, execMidnight] at h
      split at h
      · cases h; exact .refl s
      · split at h <;> cases h
        · exact newMinute_guarded _
        · exact .refl s
    | activityPeriodEnd =>
      simp only [exec, execActivityPeriodEnd] at h
      split at h <;> cases h
      · exact runEvent_guarded (.of_same rfl rfl)
      · exact .refl s
    | minimumRunReached n =>
      simp only [exec, execMinimumRunReached] at h
      split at h
      · cases h; exact .refl s
      · split at h <;> cases h
        · exact runEvent_guarded (.refl s)
        · exact .refl s
    | portHoldExpiry n =>
      simp only [exec, execPortHoldExpiry] at h
      split at h
      · cases h; exact .refl s
      · split at h <;> cases h
        · exact runEvent_guarded (removePortHold_guarded _ _)
        · exact .refl s
    | buttonHoldExpiry n =>
      simp only [exec, execButtonHoldExpiry] at h
      split at h
      · cases h; exact .refl s
      · split at h <;> cases h
        · exact runEvent_guarded (removeButtonHold_guarded ‹_›)
        · exact .refl s
    | holdMinute =>
      simp only [exec, execHoldMinute] at h
      split at h <;> cases h
      · exact holdMinute_guarded s
      · exact .refl s
    | stopVerifyTimerExpiry n =>
      simp only [exec, execStopVerifyTimerExpiry] at h
      split at h
      · cases h; exact .refl s
      · split at h
        · cases h; exact runEvent_guarded (.leave (by simp) (by simp) (by simp))
        · cases h; exact .refl s
    | startVerifyTimerExpiry n =>
      simp only [exec, execStartVerifyTimerExpiry] at h
      split at h
      · cases h; exact .refl s
      · split at h
        · cases h; exact runEvent_guarded (.leave (by simp) (by simp) (by simp))
        · cases h; exact .refl s
    | restEnd n =>
      simp only [exec, execRestEnd] at h
      split at h
      · cases h; exact .refl s
      · split at h <;> cases h
        · exact runEvent_guarded (.refl s)
        · exact .refl s
    | settleEnd f =>
      simp only [exec, execSettleEnd] at h
      split at h
      · split at h <;> cases h
        · exact runEvent_guarded (.of_same rfl rfl)
        · exact .refl s
      · cases h; exact .refl s
      · cases h; exact .refl s
    | wakeSlot p =>
      simp only [exec, execWakeSlot] at h
      split at h
      · cases h; exact .refl s
      · split at h <;> cases h
        · exact runEvent_guarded (.of_same rfl rfl)
        · exact .refl s
    | guardEnd p =>
      simp only [exec, execGuardEnd] at h
      split at h
      · cases h; exact .refl s
      · split at h
        · cases h; exact .refl s
        · split at h <;> cases h
          · exact runEvent_guarded (.of_same rfl rfl)
          · exact .refl s
    | exchangeStart l => cases h; exact .startExchange
    | replyWindowExpiry l => cases h; exact runEvent_guarded (Guarded.endExchange (l := l) [])
    | replyEnd l samples => cases h; exact runEvent_guarded (Guarded.endExchange (l := l) (receivedChars samples))
    | _ => simp [Instr.command] at hc

/-- Every step keeps the guards; the command taken is no part of what they read. -/
theorem step_guarded (h : step s = .next t) : Guarded s t := by
  unfold step at h
  split at h
  · cases h; exact .refl s
  · rename_i rest _
    exact Guarded.trans (t := { s with pending := rest }) (.of_same rfl rfl) (exec_guarded h)

/-- Settles O51: no operation brings a provider into STOPPING beside another one of its group. -/
theorem pacingLawKept : Obligations.PacingLawKept := by
  unfold Obligations.PacingLawKept
  exact fun _ _ _ hp h => (step_guarded h).pacingLaw hp

/-- Settles O52: a load that a KEEP-OFF hold comes to leaves QUEUED and STARTING in the same operation, and none enters them under one. -/
theorem keepOffLawKept : Obligations.KeepOffLawKept := by
  unfold Obligations.KeepOffLawKept
  exact fun _ _ _ hk h => (step_guarded h).keepOffLaw hk

end Sys2Proof.Machine
end

section
/-! SUPPORT. A row of one load by itself touches the record of that load alone; every other record changes by the hand-offs of the step at
most (R57, R62, R63, R115). -/

namespace Sys2Proof.Machine

variable {A : Prop} {own hand : Kind → Prop} {s t u : State} {n m : Nat} {r r' : LoadRecord} {i : Instr} {code : Byte}
  {body : List Byte → State → Reply} {params rest : List Byte} {b : Byte} {work : List Work} {l : Fin 4}

/-! ### After the hand-offs -/

/-- What a step leaves of the record of load `m`: VACANT still, or the record as hand-offs may leave it. -/
def State.HandsTo (s t : State) (m : Nat) : Prop :=
  (s.load m = none → t.load m = none) ∧ ∀ r, s.load m = some r → ∃ r', t.load m = some r' ∧ HandedOn s.timeBase r r'

theorem State.HandsTo.refl (s : State) (m : Nat) : s.HandsTo s m := ⟨id, fun r h => ⟨r, h, .inl rfl⟩⟩

/-- A row's own change that touches neither the time base nor the record of load `m`, and its plain hand-offs. -/
theorem handsTo_settle {s0 : State} (hc : Table.Canonical 240 u.loads) (ht : u.timeBase = s.timeBase) (hm : u.load m = s.load m)
    (hw : ∀ w ∈ work, w.plain) : s.HandsTo (s0.settle u work) m := by
  have hq : Quiet u (s0.settle u work) := settle_quiet hw
  refine ⟨fun h => hq.vacant m (hm.trans h), fun r h => ?_⟩
  rw [← ht]
  exact hq.record hc m r (hm.trans h)

theorem Began.kept (h : Began A own s t) (ho : ¬ own .timeBase) : (Canonical s → Canonical t) ∧ t.timeBase = s.timeBase := by
  have chain : ∀ {K : Kind → Prop}, (∀ k, K k → own k) → Chain A K s t → (Canonical s → Canonical t) ∧ t.timeBase = s.timeBase :=
    fun hK hch => ⟨fun hc => hch.keeps (fun _ _ _ _ hx => hx.canonical) hc,
      hch.same (·.timeBase) (fun k _ _ hk hx => hx.kept.timeBase (fun he => ho (he ▸ hK k hk)))⟩
  rcases h with h | h
  · exact chain (fun _ hk => hk.1) h
  · exact chain (fun _ hk => hk.1) h

/-! ### The commands of one load -/

/-- A command's meaning that touches the record of load `n` alone and calls for plain hand-offs. -/
structure Reply.Within (n : Nat) (s : State) (p : Reply) : Prop where
  other : ∀ m, m ≠ n → p.state.load m = s.load m
  plain : ∀ w ∈ p.work, w.plain

theorem within_refuse (c : Completion) : (refuse s c).Within n s := ⟨fun _ _ => rfl, by simp [refuse]⟩

theorem within_taken (h : ∀ m, m ≠ n → u.load m = s.load m) (hw : ∀ w ∈ work, w.plain) : (taken u work).Within n s := ⟨h, hw⟩

theorem onLoad_within {f : Nat → LoadRecord → State → Reply} (hf : ∀ r, s.load b.toNat = some r → (f b.toNat r s).Within b.toNat s) :
    (onLoad f (b :: rest) s).Within b.toNat s := by
  unfold onLoad
  split
  · rename_i n hb
    obtain ⟨rfl, -⟩ := List.cons.inj hb
    split
    · exact within_refuse _
    · split
      · exact within_refuse _
      · exact hf _ ‹_›
  · exact within_refuse _

theorem setLoad_other (r : LoadRecord) : ∀ m, m ≠ n → (s.setLoad n r).load m = s.load m := fun m hm => by simp [hm]

theorem moveTo_other (h : ∀ m, m ≠ n → u.load m = s.load m) (new : LoadState) (out : Option (Operation × OpResult)) :
    ∀ m, m ≠ n → (u.moveTo n new out).load m = s.load m := fun m hm => (moveTo_load_ne hm).trans (h m hm)

theorem evaluate_plain : ∀ w ∈ [Work.evaluate n], w.plain := by simp [Work.plain]

theorem none_plain : ∀ w ∈ ([] : List Work), w.plain := by simp

theorem tuneLoad_within : (tuneLoad (b :: rest) s).Within b.toNat s := by
  unfold tuneLoad
  split
  · rename_i hb
    obtain ⟨rfl, -⟩ := List.cons.inj hb
    split
    · exact within_refuse _
    · split
      · exact within_refuse _
      · split
        · exact within_refuse _
        · exact within_taken (setLoad_other _) tuneWork_plain
  · exact within_refuse _

theorem linkLoad_within : (linkLoad (b :: rest) s).Within b.toNat s := by
  unfold linkLoad
  split
  · rename_i hb
    obtain ⟨rfl, -⟩ := List.cons.inj hb
    split
    · exact within_refuse _
    · split
      · exact within_refuse _
      · dsimp only
        split
        · exact within_refuse _
        · split
          · exact within_refuse _
          · exact within_taken (fun m hm => (writeLinks_load s _ _ _ m).trans (if_neg hm)) linkWork_plain
  · exact within_refuse _

theorem planLoad_within : (planLoad (b :: rest) s).Within b.toNat s := by
  unfold planLoad
  split
  · rename_i hb
    obtain ⟨rfl, -⟩ := List.cons.inj hb
    split
    · exact within_refuse _
    · split
      · exact within_refuse _
      · split
        · exact within_refuse _
        · exact within_taken (setLoad_other _) none_plain
  · exact within_refuse _

theorem retire_other (r : LoadRecord) : ∀ m, m ≠ n → (s.retire n r).load m = s.load m := by
  intro m hm
  have hstrip : (s.stripLoad n r).load m = s.load m := (load_setLoad _ _ _ _).trans (if_neg hm)
  unfold State.retire
  split
  · exact (moveTo_load_ne hm).trans hstrip
  · exact (removeLoad_load_ne _ hm).trans hstrip

theorem retireLoad_within : (retireLoad (b :: rest) s).Within b.toNat s := by
  unfold retireLoad
  split
  · rename_i hb
    obtain ⟨rfl, -⟩ := List.cons.inj hb
    split
    · exact within_refuse _
    · split
      · exact within_refuse _
      · split
        · exact within_refuse _
        · exact within_taken (retire_other _) none_plain
  · exact within_refuse _

theorem startLoad_within (n : Nat) (r : LoadRecord) : (startLoadBody n r s).Within n s := by
  unfold startLoadBody
  split
  · split
    · exact within_taken (fun m hm => enqueue_load_ne _ hm) none_plain
    · exact within_refuse _
    · exact within_refuse _
  case h_2 => exact within_taken (fun _ _ => rfl) none_plain
  case h_3 => exact within_taken (fun _ _ => rfl) none_plain
  case h_4 => exact within_taken (fun _ _ => rfl) none_plain
  case h_5 => exact within_taken (fun _ _ => rfl) none_plain
  case h_6 => exact within_taken (fun _ _ => rfl) none_plain
  all_goals exact within_refuse _

theorem stopLoad_within : (stopLoad (b :: rest) s).Within b.toNat s := by
  unfold stopLoad
  split
  · rename_i hb
    obtain ⟨rfl, -⟩ := List.cons.inj hb
    split
    · exact within_refuse _
    · split
      · exact within_refuse _
      · unfold stopLoadBody
        split
        case h_1 => exact within_taken (moveTo_other (setLoad_other _) _ _) evaluate_plain
        case h_2 => exact within_taken (moveTo_other (setLoad_other _) _ _) evaluate_plain
        case h_3 => exact within_taken (setLoad_other _) evaluate_plain
        case h_4 => exact within_taken (fun _ _ => rfl) none_plain
        case h_5 => exact within_taken (fun _ _ => rfl) none_plain
        all_goals exact within_refuse _
  · exact within_refuse _

theorem cancelStop_within (n : Nat) (r : LoadRecord) : (cancelStopBody n r s).Within n s := by
  unfold cancelStopBody
  split
  · exact within_taken (fun _ _ => rfl) none_plain
  · dsimp only
    split
    · split
      · exact within_taken (setLoad_other _) evaluate_plain
      · split
        · exact within_taken (moveTo_other (setLoad_other _) _ _) none_plain
        · exact within_taken (moveTo_other (setLoad_other _) _ _) none_plain
    · exact within_taken (setLoad_other _) none_plain

theorem clearFault_within (n : Nat) (r : LoadRecord) : (clearFaultBody n r s).Within n s := by
  unfold clearFaultBody
  split
  · exact within_taken (moveTo_other (fun _ _ => rfl) _ _) none_plain
  · exact within_refuse _

theorem cancelStart_within (n : Nat) (r : LoadRecord) : (cancelStartBody n r s).Within n s := by
  unfold cancelStartBody
  split
  · exact within_taken (moveTo_other (fun _ _ => rfl) _ _) none_plain
  · exact within_refuse _

theorem holdActs_plain (n : Nat) (sense : HoldSense) : ∀ w ∈ (s.holdActs n sense).work, w.plain := by
  unfold State.holdActs
  split <;> exact evaluate_plain

theorem holdLeft_plain (n : Nat) (sense : HoldSense) : ∀ w ∈ (s.holdLeft n sense).work, w.plain := by
  unfold State.holdLeft
  split <;> exact evaluate_plain

theorem placeHold_within : (placeHold (b :: rest) s).Within b.toNat s := by
  unfold placeHold
  split
  · rename_i hb
    obtain ⟨rfl, -⟩ := List.cons.inj hb
    split
    · exact within_refuse _
    · split
      · exact within_refuse _
      · split
        · exact within_refuse _
        · split
          · exact within_refuse _
          · split
            · exact within_refuse _
            · exact ⟨fun m hm => holdActs_load_ne _ hm, holdActs_plain _ _⟩
  · exact within_refuse _

theorem releaseButtonHold_within (n : Nat) (r : LoadRecord) : (releaseButtonHoldBody n r s).Within n s := by
  unfold releaseButtonHoldBody
  split
  · exact within_refuse _
  · exact ⟨setLoad_other _, evaluate_plain⟩

/-- The release of a port hold touches no record by itself (R82, R84). -/
theorem releaseHold_within (params : List Byte) (n : Nat) : (releaseHold params s).Within n s := by
  unfold releaseHold
  split
  · split
    · exact within_refuse _
    · split
      · exact within_refuse _
      · exact ⟨fun m _ => holdLeft_load _ m, holdLeft_plain _ _⟩
  · exact within_refuse _

/-- A command that touches one record alone hands on to every other. -/
theorem runCommand_handsTo (hc : Canonical s) (hf : ∀ p, (body p s).Fits True own hand s) (ho : ¬ own .timeBase)
    (hp : s.commandParams code = some params) (hw : (body params s).Within n s) (hm : m ≠ n) : s.HandsTo (s.runCommand code body) m := by
  obtain ⟨hcan, htb⟩ := (hf params).began.kept ho
  rw [runCommand_of hp]
  exact handsTo_settle (hcan hc).loads htb (hw.other m hm) hw.plain

theorem loadCommand_handsTo (hc : Canonical s) (hi : (i, code) ∈ loadCommandTable) (hr : rest.length ≤ 37)
    (hs : s.Sent code (b :: rest)) (h : exec i s = .next t) (hm : m ≠ b.toNat) : s.HandsTo t m := by
  have hlen : (b :: rest).length ≤ 38 := Nat.succ_le_succ hr
  simp only [loadCommandTable, List.mem_cons, Prod.mk.injEq, List.not_mem_nil, or_false] at hi
  rcases hi with ⟨rfl, rfl⟩ | ⟨rfl, rfl⟩ | ⟨rfl, rfl⟩ | ⟨rfl, rfl⟩ | ⟨rfl, rfl⟩ | ⟨rfl, rfl⟩ | ⟨rfl, rfl⟩ | ⟨rfl, rfl⟩ | ⟨rfl, rfl⟩
    | ⟨rfl, rfl⟩ | ⟨rfl, rfl⟩
  all_goals
    have hp := hs.commandParams rfl hlen
    cases h
  · exact runCommand_handsTo (hand := fun _ => True) hc tuneLoad_fits (by simp) hp tuneLoad_within hm
  · exact runCommand_handsTo (hand := fun _ => True) hc linkLoad_fits (by simp) hp linkLoad_within hm
  · exact runCommand_handsTo (hand := fun _ => True) hc planLoad_fits (by simp) hp planLoad_within hm
  · exact runCommand_handsTo (hand := fun _ => True) hc retireLoad_fits (by simp) hp retireLoad_within hm
  · exact runCommand_handsTo (hand := fun _ => True) hc (onLoad_fits (fun n r _ => startLoad_fits n r)) (by simp) hp
      (onLoad_within (fun r _ => startLoad_within _ r)) hm
  · exact runCommand_handsTo (hand := fun _ => True) hc stopLoad_fits (by simp) hp stopLoad_within hm
  · exact runCommand_handsTo (hand := fun _ => True) hc (onLoad_fits (fun _ _ hl => cancelStop_fits hl)) (by simp) hp
      (onLoad_within (fun r _ => cancelStop_within _ r)) hm
  · exact runCommand_handsTo (hand := fun _ => True) hc (onLoad_fits (fun _ _ hl => clearFault_fits hl)) (by simp) hp
      (onLoad_within (fun r _ => clearFault_within _ r)) hm
  · exact runCommand_handsTo (hand := fun _ => True) hc (onLoad_fits (fun _ _ hl => cancelStart_fits hl)) (by simp) hp
      (onLoad_within (fun r _ => cancelStart_within _ r)) hm
  · exact runCommand_handsTo (hand := fun _ => True) hc placeHold_fits (by simp) hp placeHold_within hm
  · exact runCommand_handsTo (hand := fun _ => True) hc (onLoad_fits (fun _ _ hl => releaseButtonHold_fits hl)) (by simp) hp
      (onLoad_within (fun r _ => releaseButtonHold_within _ r)) hm

/-! ### The events of one load -/

theorem runEvent_handsTo {e : Effect} (hc : Canonical s) (hb : Began True own s e.state) (ho : ¬ own .timeBase)
    (hm : e.state.load m = s.load m) (hw : ∀ w ∈ e.work, w.plain) : s.HandsTo (s.runEvent e) m := by
  obtain ⟨hcan, htb⟩ := hb.kept ho
  exact handsTo_settle (hcan hc).loads htb hm hw

theorem minimumRun_handsTo (hc : Canonical s) (h : exec (.minimumRunReached n) s = .next t) (m : Nat) : s.HandsTo t m := by
  simp only [exec, execMinimumRunReached] at h
  split at h
  · cases h; exact .refl s m
  · split at h <;> cases h
    · exact handsTo_settle hc.loads rfl rfl evaluate_plain
    · exact .refl s m

theorem restEnd_handsTo (hc : Canonical s) (h : exec (.restEnd n) s = .next t) (m : Nat) : s.HandsTo t m := by
  simp only [exec, execRestEnd] at h
  split at h
  · cases h; exact .refl s m
  · split at h <;> cases h
    · exact handsTo_settle hc.loads rfl rfl (by simp [Work.plain])
    · exact .refl s m

theorem buttonHoldExpiry_handsTo (hc : Canonical s) (h : exec (.buttonHoldExpiry n) s = .next t) (hm : m ≠ n) : s.HandsTo t m := by
  simp only [exec, execButtonHoldExpiry] at h
  split at h
  · cases h; exact .refl s m
  · rename_i r hl
    split at h <;> cases h
    · exact runEvent_handsTo hc (removeButtonHold_began hl) (by simp) (setLoad_other _ m hm) evaluate_plain
    · exact .refl s m

theorem portHoldExpiry_handsTo {k : Nat} (hc : Canonical s) (h : exec (.portHoldExpiry k) s = .next t) (m : Nat) : s.HandsTo t m := by
  simp only [exec, execPortHoldExpiry] at h
  split at h
  · cases h; exact .refl s m
  · rename_i x hf
    split at h <;> cases h
    · exact runEvent_handsTo hc (removePortHold_began hf) (by simp) (holdLeft_load _ m) (holdLeft_plain _ _)
    · exact .refl s m

/-- A verify timer that expires moves its own record alone. -/
theorem timer_handsTo (hc : Canonical s) (o : Operation × OpResult) (hm : m ≠ n) :
    s.HandsTo (s.runEvent { state := s.moveTo n .fault (some o), work := [] }) m :=
  handsTo_settle (moveTo_canonical hc.loads) (frozen_field (frozen_moveTo s n _ _)).1 (moveTo_load_ne hm) none_plain

theorem stopVerify_handsTo (hc : Canonical s) (h : exec (.stopVerifyTimerExpiry n) s = .next t) (hm : m ≠ n) : s.HandsTo t m := by
  simp only [exec, execStopVerifyTimerExpiry] at h
  split at h
  · cases h; exact .refl s m
  · split at h
    · cases h; exact timer_handsTo hc _ hm
    · cases h; exact .refl s m

theorem startVerify_handsTo (hc : Canonical s) (h : exec (.startVerifyTimerExpiry n) s = .next t) (hm : m ≠ n) : s.HandsTo t m := by
  simp only [exec, execStartVerifyTimerExpiry] at h
  split at h
  · cases h; exact .refl s m
  · split at h
    · cases h; exact timer_handsTo hc _ hm
    · cases h; exact .refl s m

/-- The end of an exchange acts on the record it polled alone. -/
theorem endExchange_handsTo {e : Exchange} (hc : Canonical s) (he : (s.lineAt l).exchange = some e) (hn : e.load = some n)
    (chars : List RxChar) (hi : i = .replyWindowExpiry l ∨ ∃ samples, i = .replyEnd l samples) (hm : m ≠ n) :
    s.HandsTo (s.runEvent { state := s.endExchange l chars, work := [] }) m := by
  have ho : ¬ i.owns .timeBase := by rcases hi with rfl | ⟨_, rfl⟩ <;> simp [Instr.owns, Kind.reported, Kind.released, Kind.ofLoss]
  obtain ⟨hcan, htb⟩ := (endExchange_began chars hi).kept ho
  refine handsTo_settle (hcan hc).loads htb (endExchange_load_ne l chars fun e' he' hl => hm ?_) none_plain
  obtain rfl := Option.some.inj (he.symm.trans he')
  exact Option.some.inj (hl.symm.trans hn)

/-- Settles O60: the row's own change leaves every other record, and its hand-offs are plain. -/
theorem otherRecordsTakeOnlyHandoffs : Obligations.OtherRecordsTakeOnlyHandoffs := by
  unfold Obligations.OtherRecordsTakeOnlyHandoffs
  intro i s t n hc h hi m hm
  show s.HandsTo t m
  rcases hi with ⟨c, b, rest, hi, hlen, hs, rfl⟩ | rfl | rfl | rfl | rfl | rfl | ⟨k, x, hf, rfl, hi⟩ | ⟨l, e, he, hn, hi⟩
  · exact loadCommand_handsTo hc hi hlen hs h hm
  · exact minimumRun_handsTo hc h m
  · exact buttonHoldExpiry_handsTo hc h hm
  · exact stopVerify_handsTo hc h hm
  · exact startVerify_handsTo hc h hm
  · exact restEnd_handsTo hc h m
  · rcases hi with rfl | ⟨rfl, b, hs, -⟩
    · exact portHoldExpiry_handsTo hc h m
    · cases h
      exact runCommand_handsTo (hand := fun _ => True) hc releaseHold_fits (by simp) (hs.commandParams rfl (by simp))
        (releaseHold_within _ x.load) hm
  · rcases hi with rfl | ⟨samples, rfl⟩
    · cases h; exact endExchange_handsTo hc he hn [] (.inl rfl) hm
    · cases h; exact endExchange_handsTo hc he hn _ (.inr ⟨samples, rfl⟩) hm

end Sys2Proof.Machine
end

section
/-! SUPPORT. MINIMUM_RUN_REACHED and CANCEL STOP: a step of one evaluation (R56 to R58, R71). -/

namespace Sys2Proof.Machine

variable {s t u : State} {n m : Nat} {r r' : LoadRecord} {b : Byte} {f : Nat → LoadRecord → State → Reply} {code : Byte}

/-! ### Stop permission by the records -/

/-- R112 in the terms of the records. -/
theorem otherStopping_eq_false_iff (hc : Table.Canonical 240 s.loads) : s.otherStopping n r = false ↔ s.SoleStopping n r := by
  refine ⟨soleStopping_of_otherStopping, fun h => ?_⟩
  unfold State.otherStopping
  split
  · rfl
  · rename_i p hp
    refine List.any_eq_false.mpr fun q hq => ?_
    obtain ⟨rm, pm, hl, hpm, hg, -, -, hs⟩ := provider_record hc hq
    intro hand
    simp only [Bool.and_eq_true, bne_iff_ne, beq_iff_eq] at hand
    exact h p q.load rm pm hp hand.1 hl hpm hg (hs ▸ hand.2)

theorem otherStopping_of_stopping {p pm : Provides} {rm : LoadRecord} (hp : r.provides = some p) (hm : m ≠ n) (hl : s.load m = some rm)
    (hpm : rm.provides = some pm) (hg : pm.group = p.group) (hs : rm.state = .stopping) : s.otherStopping n r = true := by
  by_contra hf
  exact soleStopping_of_otherStopping (Bool.not_eq_true _ ▸ hf) p m rm pm hp hm hl hpm hg hs

/-- R111 in the terms of the group's figures. -/
theorem spared_of_le (h : ∀ p, r.provides = some p → s.required p.group + p.capacity ≤ s.capacity p.group) : s.spared r = true := by
  unfold State.spared
  split
  · rfl
  · exact decide_eq_true (h _ ‹_›)

theorem not_spared_of_lt {p : Provides} (hp : r.provides = some p) (h : s.capacity p.group < s.required p.group + p.capacity) :
    s.spared r = false := by
  simp [State.spared, hp, h]

/-! ### A step of one evaluation -/

theorem entering_stopping (r : LoadRecord) (now : Nat) : r.entering .stopping now = { r with
    state := .stopping, commanded := .stop, blockReason := .none, idleClock := 0, verifyEnd := some (now + r.tuning.stopVerify) } := by
  simp [LoadRecord.entering, commandedOn]

/-- A step that evaluates one DUE record to no avail writes the block reason and nothing else. -/
theorem settle_evaluate_blocked {s0 : State} (hc : Table.Canonical 240 s.loads) (h : handoffs s0 s = []) (hl : s.load n = some r)
    (hd : r.state = .due) (hp : s.permission n r ≠ .none) :
    s0.settle s [.evaluate n] = s.setLoad n { r with blockReason := s.permission n r } := by
  have hi : Work.idle (.evaluate n) s = false := by simp [Work.idle, State.stateOf, hl, hd]
  have he : s.evaluate n = s.setLoad n { r with blockReason := s.permission n r } := by simp [State.evaluate, hl, hd, hp]
  have hw : handoffs s (s.evaluate n) = [] := he ▸ handoffs_setLoad hc hl rfl rfl rfl rfl rfl rfl
  rw [settle_single (w := .evaluate n) (by simp [h])]
  simp only [hi, Bool.false_eq_true, if_false, Work.run, List.nil_append, hw]
  exact he

/-- A step that evaluates a DUE record that has stop permission marks it and takes it to STOPPING. -/
theorem settle_evaluate_stops {s0 : State} (hc : Table.Canonical 240 s.loads) (h : handoffs s0 s = []) (hl : s.load n = some r)
    (hd : r.state = .due) (hp : s.permission n r = .none) :
    n ∈ (s0.settle s [.evaluate n]).marks
      ∧ (s0.settle s [.evaluate n]).load n = some (r.entering .stopping s.timeBase) := by
  constructor
  · have hi : Work.idle (.evaluate n) s = false := by simp [Work.idle, State.stateOf, hl, hd]
    have he : s.evaluate n = s.moveTo n .stopping none := by simp [State.evaluate, hl, hd, hp]
    rw [settle_single (w := .evaluate n) (by simp [h])]
    simp only [hi, Bool.false_eq_true, if_false, Work.run, List.nil_append]
    refine (settleLoop_quiet (s0 := s.evaluate n) _ (fun w hw => handoffs_plain _ _ w ((mem_addWork hw).resolve_left (by simp)))
      (Quiet.refl _)).marks n ?_
    rw [he]
    exact moveTo_marks_self hl
  · obtain ⟨r', hr', hev, -⟩ := settle_evaluate hc h hl hd
    rw [hr', hev.1 hp, entering_stopping]

theorem exec_minimumRunReached (hl : s.load n = some r) (hd : r.state = .due)
    (hm : r.runSince + r.tuning.minimumRun * 60 ≤ s.timeBase) : exec (.minimumRunReached n) s = .next (s.settle s [.evaluate n]) := by
  simp only [exec, execMinimumRunReached, hl, hd, hm, and_self, if_true]
  rfl

/-- Settles O23: the step is one evaluation, and permission is judged by the five conditions in their order. -/
theorem minimumRunEvaluatesStopPermission : Obligations.MinimumRunEvaluatesStopPermission := by
  unfold Obligations.MinimumRunEvaluatesStopPermission
  intro s n r hc hl
  refine ⟨fun hno => ?_, fun E hE hd hmin => ?_⟩
  · have hif : ¬ (r.state = .due ∧ r.runSince + r.tuning.minimumRun * 60 ≤ s.timeBase) := fun ⟨h1, h2⟩ => by
      rcases hno with h | h
      · exact h h1
      · omega
    simp only [exec, execMinimumRunReached, hl, hif, if_false]
  · obtain rfl : E = s.effectiveAuthority r := hE
    rw [exec_minimumRunReached hl hd hmin]
    have hh : handoffs s s = [] := handoffs_self hc.loads
    obtain ⟨hauth, hhold, hrest⟩ := permission_by_condition s n r
    have blocked : ∀ c : BlockReason, c ≠ .none → s.permission n r = c →
        (Host.Outcome.next (s.settle s [.evaluate n]) : Host.Outcome State Fault Refusal) = .next (s.setLoad n { r with blockReason := c }) :=
      fun c hne hp => by rw [settle_evaluate_blocked hc.loads hh hl hd (hp ▸ hne), hp]
    refine ⟨fun h0 => blocked _ (by simp) (hauth h0), fun h0 hk => blocked _ (by simp) (hhold h0 hk), fun h0 hk => ?_⟩
    obtain ⟨hsup, hpace, hnone⟩ := (hrest h0 hk).2 hmin
    refine ⟨fun p hp hlt => blocked _ (by simp) (hsup (not_spared_of_lt hp hlt)), fun hle => ⟨fun hother => ?_, fun hsole => ?_⟩⟩
    · obtain ⟨p, m, rm, pm, hp, hm, hlm, hpm, hg, hs⟩ := hother
      exact blocked _ (by simp) (hpace (spared_of_le hle) (otherStopping_of_stopping hp hm hlm hpm hg hs))
    · have hp := hnone (spared_of_le hle) ((otherStopping_eq_false_iff hc.loads).mpr hsole)
      obtain ⟨hmark, hload⟩ := settle_evaluate_stops hc.loads hh hl hd hp
      exact ⟨_, rfl, hmark, hload.trans (congrArg some (entering_stopping r s.timeBase))⟩

/-! ### Commands on one load -/

theorem onLoad_bad (h : 239 < b.toNat) : onLoad f [b] s = refuse s .badValue := by simp [onLoad, badLoad, h]

theorem onLoad_vacant (h : b.toNat ≤ 239) (hl : s.load b.toNat = none) : onLoad f [b] s = refuse s .noSuch := by
  simp [onLoad, (badLoad_eq_false b).mpr h, hl]

theorem onLoad_live (h : b.toNat ≤ 239) (hl : s.load b.toNat = some r) : onLoad f [b] s = f b.toNat r s := by
  simp [onLoad, (badLoad_eq_false b).mpr h, hl]

/-- A command that is taken with a change that hands nothing on. -/
theorem runCommand_written {body : List Byte → State → Reply} {params : List Byte} (hp : s.commandParams code = some params)
    (hb : body params s = taken t []) (hh : handoffs s t = []) : s.runCommand code body = t.respond .done [] := by
  rw [runCommand_taken hp hb, settle_nil hh]

/-- Settles O21: the request is cleared, which hands nothing on; a DUE record is then evaluated, or moved to RUN or IDLE. -/
theorem cancelStopByState : Obligations.CancelStopByState := by
  unfold Obligations.CancelStopByState
  intro s n hc hs
  have hp := hs.commandParams rfl (by simp)
  refine ⟨fun hn => ?_, fun hn hl => ?_, fun r hn hl => ⟨fun hport => ?_, fun hport hst => ?_, fun hport hd => ?_⟩⟩
  · exact congrArg Host.Outcome.next (runCommand_refused hp hc (onLoad_bad hn))
  · exact congrArg Host.Outcome.next (runCommand_refused hp hc (onLoad_vacant hn hl))
  · refine congrArg Host.Outcome.next (runCommand_written hp ((onLoad_live hn hl).trans ?_) (handoffs_self hc.loads))
    simp [cancelStopBody, hport]
  · have hh : handoffs s (s.setLoad n.toNat { r with portStop := none }) = [] := handoffs_setLoad hc.loads hl rfl rfl rfl rfl rfl rfl
    refine congrArg Host.Outcome.next (runCommand_written hp ((onLoad_live hn hl).trans ?_) hh)
    simp [cancelStopBody, hport, hst]
  · have hcu : Table.Canonical 240 (s.setLoad n.toNat { r with portStop := none }).loads :=
      Table.canonical_put hc.loads (Table.lt_of_find hc.loads hl) _
    have hlu : (s.setLoad n.toNat { r with portStop := none }).load n.toNat = some { r with portStop := none } := by simp
    -- the record moves, and no hand-off acts on it in RUN or IDLE
    have moved : ∀ new, new = .run ∨ new = .idle →
        n.toNat ∈ (s.settle ((s.setLoad n.toNat { r with portStop := none }).moveTo n.toNat new none) []).marks
        ∧ (s.settle ((s.setLoad n.toNat { r with portStop := none }).moveTo n.toNat new none) []).load n.toNat
          = some (({ r with portStop := none } : LoadRecord).entering new s.timeBase) := fun new hnew => by
      have hq := settle_quiet (s0 := s) (s1 := (s.setLoad n.toNat { r with portStop := none }).moveTo n.toNat new none) none_plain
      obtain ⟨r', hr', hh⟩ := hq.record (moveTo_canonical hcu) _ _ (moveTo_load_self hlu)
      refine ⟨hq.marks _ (moveTo_marks_self hlu), hr'.trans ?_⟩
      rcases hnew with rfl | rfl <;> exact congrArg some (hh.still (by simp) (by simp) (by simp))
    by_cases hidle : r.tuning.idleDelay * 60 ≤ r.idleClock * s.period
    · have hb : onLoad cancelStopBody [n] s = taken (s.setLoad n.toNat { r with portStop := none }) [.evaluate n.toNat] := by
        rw [onLoad_live hn hl]; simp [cancelStopBody, hport, hd, idleReached, hidle]
      have hh : handoffs s (s.setLoad n.toNat { r with portStop := none }) = [] := handoffs_setLoad hc.loads hl rfl rfl rfl rfl rfl rfl
      obtain ⟨r', hr', he, hj⟩ := settle_evaluate hcu hh hlu hd
      refine ⟨_, r', congrArg Host.Outcome.next (runCommand_taken hp hb), rfl, rfl, hr', ?_, ?_, by omega, by omega⟩
      · rcases Decidable.em ((s.setLoad n.toNat { r with portStop := none }).permission n.toNat { r with portStop := none } = .none) with h | h
        · rw [he.1 h]
        · rw [he.2 h]
      · rintro - g rfl
        exact ⟨judged_setLoad (r' := { r with portStop := none }) hl rfl hj, he⟩
    · have hnew : ∃ new, (new = .run ∧ r.tuning.idleLeave ≤ r.level ∨ new = .idle ∧ r.level < r.tuning.idleLeave)
          ∧ onLoad cancelStopBody [n] s = taken ((s.setLoad n.toNat { r with portStop := none }).moveTo n.toNat new none) [] := by
        rw [onLoad_live hn hl]
        by_cases hlev : r.tuning.idleLeave ≤ r.level
        · exact ⟨.run, .inl ⟨rfl, hlev⟩, by simp [cancelStopBody, hport, hd, idleReached, hidle, hlev]⟩
        · exact ⟨.idle, .inr ⟨rfl, by omega⟩, by simp [cancelStopBody, hport, hd, idleReached, hidle, hlev]⟩
      obtain ⟨new, hcase, hb⟩ := hnew
      obtain ⟨hmark, hload⟩ := moved new (hcase.imp And.left And.left)
      refine ⟨_, ({ r with portStop := none } : LoadRecord).entering new s.timeBase, congrArg Host.Outcome.next (runCommand_taken hp hb),
        rfl, rfl, hload, ?_, fun h => absurd h hidle, fun _ hlev => ⟨by rwa [State.respond_marks], ?_⟩,
        fun _ hlev => ⟨by rwa [State.respond_marks], ?_⟩⟩
      · rcases hcase with ⟨rfl, -⟩ | ⟨rfl, -⟩ <;> rfl
      · obtain rfl : new = .run := by rcases hcase with ⟨h, -⟩ | ⟨-, h⟩; exacts [h, absurd hlev (by omega)]
        simp [entering_run, writesRunSince, hd]
      · obtain rfl : new = .idle := by rcases hcase with ⟨-, h⟩ | ⟨h, -⟩; exacts [absurd hlev (by omega), h]
        simp [entering_idle]

end Sys2Proof.Machine
end

section
/-! SUPPORT. An examination as a walk over the queue (R127, R129): what a grant does to the queue, the feeders, the sums of the arbiter
and the figures of the groups. -/

namespace Sys2Proof.Machine

variable {s t : State} {n m g : Nat} {r r' : LoadRecord} {new : LoadState} {out : Option (Operation × OpResult)} {e : Entry}

/-! ### Sums over the table -/

/-- A sum over the records of a table changes with the one that is written. -/
theorem sum_put {α : Type} {b : Nat} {t : Table α} (hc : Table.Canonical b t) {a : α} (ha : Table.find t n = some a) (f : Nat × α → Nat) (a' : α) :
    ((Table.put t n a').map f).sum + f (n, a) = (t.map f).sum + f (n, a') := by
  obtain ⟨hp, -⟩ := hc
  induction t with
  | nil => simp [Table.find] at ha
  | cons e rest ih =>
    obtain ⟨k, x⟩ := e
    simp only [List.map_cons, List.pairwise_cons] at hp
    by_cases hk : k = n
    · subst hk
      obtain rfl : x = a := by simpa [Table.find] using ha
      simp only [Table.put, lt_irrefl, if_false, if_true, List.map_cons, List.sum_cons]
      omega
    · have hr : Table.find rest n = some a := by simpa [Table.find, hk] using ha
      have hlt : k < n := hp.1 n (List.mem_map_of_mem (f := Prod.fst) (Table.mem_of_find hr))
      have hrest := ih hr hp.2
      simp only [Table.put, hlt.not_gt, Ne.symm hk, if_false, List.map_cons, List.sum_cons]
      omega

theorem startingSum_eq_sum (s : State) :
    s.startingSum = (s.loads.map (fun e => if e.2.state = .starting then e.2.weight else 0)).sum := by
  unfold State.startingSum
  induction s.loads with
  | nil => rfl
  | cons e rest ih => by_cases h : e.2.state = .starting <;> simp [h, ih]

theorem startingCount_eq_sum (s : State) : s.startingCount = (s.loads.map (fun e => if e.2.state = .starting then 1 else 0)).sum := by
  unfold State.startingCount
  induction s.loads with
  | nil => rfl
  | cons e rest ih => by_cases h : e.2.state = .starting <;> simp [h, ih, Nat.add_comm]

/-! ### A move of one record -/

theorem moveTo_loads (hl : s.load n = some r) : (s.moveTo n new out).loads = Table.put s.loads n (s.movedRecord r new out) := by
  simp only [State.moveTo, hl]
  split <;> split <;> split <;> split <;> rfl

theorem moveTo_queue (hl : s.load n = some r) :
    (s.moveTo n new out).queue = if r.state = .queued then s.queue.filter (fun x => x.load != n) else s.queue := by
  by_cases hq : r.state = .queued <;> simp only [State.moveTo, hl, hq, if_true, if_false]
  all_goals split <;> split <;> split <;> simp [State.offerUrgent]

theorem moveTo_margin_eq (s : State) (n : Nat) (new : LoadState) (out : Option (Operation × OpResult)) (g : Nat) :
    (s.moveTo n new out).margin g = s.margin g := by
  have h := moveTo_margin s n new out g
  unfold State.margin
  cases h1 : (s.moveTo n new out).group g <;> cases h2 : s.group g <;> simp_all

/-- The figures of a group change with the record that moves. -/
theorem moveTo_capacity (hc : Table.Canonical 240 s.loads) (hl : s.load n = some r) (g : Nat) :
    (s.moveTo n new out).capacity g + r.capacityOf g = s.capacity g + (s.movedRecord r new out).capacityOf g := by
  rw [capacity_eq_sum, capacity_eq_sum, moveTo_loads hl]
  exact sum_put hc hl (fun e => e.2.capacityOf g) _

theorem moveTo_demand (hc : Table.Canonical 240 s.loads) (hl : s.load n = some r) (g : Nat) :
    (s.moveTo n new out).demand g + r.demandOf g = s.demand g + (s.movedRecord r new out).demandOf g := by
  rw [demand_eq_sum, demand_eq_sum, moveTo_loads hl]
  exact sum_put hc hl (fun e => e.2.demandOf g) _

/-! ### A grant -/

theorem entering_starting (r : LoadRecord) (now : Nat) : r.entering .starting now = { r with
    state := .starting, commanded := .run, startCount := r.startCount + 1, blockReason := .none, portStop := none, idleClock := 0
    verifyEnd := some (now + r.tuning.startVerify) } := by
  simp [LoadRecord.entering, commandedOn]

/-- A QUEUED record draws as a STARTING one does, and neither supplies: a grant changes the figures of no group (R107, R108). -/
theorem grant_figures (hc : Table.Canonical 240 s.loads) (hl : s.load n = some r) (hq : r.state = .queued) (g : Nat) :
    (s.grant n).capacity g = s.capacity g ∧ (s.grant n).required g = s.required g := by
  have hrec : s.movedRecord r .starting none = r.entering .starting s.timeBase := rfl
  have hcap := moveTo_capacity (new := .starting) (out := none) hc hl g
  have hdem := moveTo_demand (new := .starting) (out := none) hc hl g
  have h1 : (s.movedRecord r .starting none).capacityOf g = r.capacityOf g := by
    simp [hrec, entering_starting, LoadRecord.capacityOf, LoadRecord.supplies, hq]
  have h2 : (s.movedRecord r .starting none).demandOf g = r.demandOf g := by
    simp [hrec, entering_starting, LoadRecord.demandOf, LoadRecord.draws, LoadRecord.demandOn, hq]
  unfold State.grant State.required
  rw [moveTo_margin_eq]
  refine ⟨by omega, congrArg (fun d => raisedDemand d (s.margin g)) (by omega)⟩

theorem grant_starting (hc : Table.Canonical 240 s.loads) (hl : s.load n = some r) (hq : r.state = .queued) :
    (s.grant n).startingSum = s.startingSum + r.weight ∧ (s.grant n).startingCount = s.startingCount + 1 := by
  rw [startingSum_eq_sum, startingSum_eq_sum, startingCount_eq_sum, startingCount_eq_sum]
  unfold State.grant
  rw [moveTo_loads hl]
  have hsum := sum_put hc hl (fun e => if e.2.state = .starting then e.2.weight else 0) (s.movedRecord r .starting none)
  have hcount := sum_put hc hl (fun e => if e.2.state = .starting then 1 else 0) (s.movedRecord r .starting none)
  have hweight : (s.movedRecord r .starting none).weight = r.weight := rfl
  simp only [movedRecord_state, hweight, hq, reduceCtorEq, if_true, if_false, Nat.add_zero] at hsum hcount
  exact ⟨hsum, hcount⟩

theorem grant_feeders (hl : s.load n = some r) (hq : r.state = .queued) (f : Fin 8) :
    (s.grant n).feeders[f] = if f = r.feeder then .starting n else s.feeders[f] := by
  split
  · rename_i hf; subst hf; exact moveTo_feeder_granted hl
  · rename_i hf; exact moveTo_feeders hl f (.inl (by simp [hq])) (.inr hf)

/-! ### The tests of one entry -/

theorem examineEntry_of_queued (hl : s.load e.load = some r) (hq : r.state = .queued) :
    s.examineEntry e = if s.waitReason r = .none then s.grant e.load else s.setReason e.load (s.waitReason r) := by
  simp [State.examineEntry, hl, hq]

theorem examineEntry_of_not_queued (h : s.stateOf e.load ≠ some .queued) : s.examineEntry e = s := by
  unfold State.examineEntry
  split
  · rfl
  · rename_i r hl
    exact if_neg (fun hq => h (stateOf_eq.mpr ⟨r, hl, hq⟩))

/-- R113 in the terms of the groups' figures. -/
theorem supplied_iff : s.supplied r = true ↔ ∀ d, r.drawsA = some d ∨ r.drawsB = some d → s.required d.group ≤ s.capacity d.group := by
  unfold State.supplied LoadRecord.drawnGroups State.carries
  cases r.drawsA <;> cases r.drawsB <;> simp [or_imp, forall_and]

/-- R129: the four tests in their order. -/
theorem waitReason_by_test (s : State) (r : LoadRecord) :
    (s.timeBase < r.offSince + r.tuning.minimumOff * 60 → s.waitReason r = .rest)
    ∧ (r.offSince + r.tuning.minimumOff * 60 ≤ s.timeBase →
      (s.feeders[r.feeder] ≠ .free → s.waitReason r = .feeder)
      ∧ (s.feeders[r.feeder] = .free →
        (0 < s.startingCount → s.inrushLimit < s.startingSum + r.weight → s.waitReason r = .budget)
        ∧ (s.startingCount = 0 ∨ s.startingSum + r.weight ≤ s.inrushLimit →
          (s.supplied r = false → s.waitReason r = .supply) ∧ (s.supplied r = true → s.waitReason r = .none)))) := by
  unfold State.waitReason State.rested State.fitsBudget
  refine ⟨fun h => by simp [h], fun h1 => ⟨fun h2 => by rw [if_neg (by simpa using h1), if_pos h2], fun h2 => ⟨fun h3 h4 => ?_, fun h3 => ?_⟩⟩⟩
  · simp [h1, h2, h3.ne', h4]
  · have hfit : (s.startingCount == 0 || decide (s.startingSum + r.weight ≤ s.inrushLimit)) = true := by simpa using h3
    exact ⟨fun h4 => by simp [h1, h2, hfit, h4], fun h4 => by simp [h1, h2, hfit, h4]⟩

/-! ### The walk -/

/-- The state that entry number `i` of the walk finds. -/
def State.walked (s : State) (i : Nat) : State := (s.queue.take i).foldl State.examineEntry s

theorem walked_zero (s : State) : s.walked 0 = s := rfl

theorem walked_length (s : State) : s.walked s.queue.length = s.examine := by
  unfold State.walked State.examine
  rw [List.take_length]

theorem walked_succ {i : Nat} (h : s.queue[i]? = some e) : s.walked (i + 1) = (s.walked i).examineEntry e := by
  unfold State.walked
  rw [List.take_add_one, h, List.foldl_append]
  rfl

/-- What the walk keeps as it begins in `s`: the clock and the limit, the groups' figures, and the records of the entries to come. -/
structure Walking (s t : State) (visited : List Entry) : Prop where
  quiet : Quiet s t
  figures : ∀ g, t.capacity g = s.capacity g ∧ t.required g = s.required g
  ahead : ∀ m, m ∉ visited.map (·.load) → t.load m = s.load m

theorem Walking.entry {visited : List Entry} (h : Walking s t visited) (hc : Table.Canonical 240 s.loads) (e : Entry) :
    Walking s (t.examineEntry e) (visited ++ [e]) := by
  refine ⟨h.quiet.examineEntry e, fun g => ?_, fun m hm => ?_⟩
  · rcases examineEntry_cases t e with he | ⟨r, hl, hq, he⟩ | ⟨w, he⟩ <;> rw [he]
    · exact h.figures g
    · obtain ⟨h1, h2⟩ := grant_figures (h.quiet.canonical hc) hl hq g
      exact ⟨h1.trans (h.figures g).1, h2.trans (h.figures g).2⟩
    · exact h.figures g
  · obtain ⟨hne, hm⟩ : m ≠ e.load ∧ m ∉ visited.map (·.load) := by simpa [and_comm] using hm
    rw [← h.ahead m hm]
    rcases examineEntry_cases t e with he | ⟨r, hl, hq, he⟩ | ⟨w, he⟩ <;> rw [he]
    · exact moveTo_load_ne hne
    · rfl

theorem walking_walked (hc : Table.Canonical 240 s.loads) : ∀ i, i ≤ s.queue.length → Walking s (s.walked i) (s.queue.take i) := by
  intro i
  induction i with
  | zero => exact fun _ => ⟨Quiet.refl s, fun _ => ⟨rfl, rfl⟩, fun _ _ => rfl⟩
  | succ i ih =>
    intro hi
    have he : s.queue[i]? = some s.queue[i] := List.getElem?_eq_getElem hi
    rw [walked_succ he, List.take_add_one, he]
    exact (ih (Nat.le_of_succ_le hi)).entry hc _

theorem not_mem_take_of_nodup {i : Nat} (hn : (s.queue.map (·.load)).Nodup) (he : s.queue[i]? = some e) :
    e.load ∉ (s.queue.take i).map (·.load) := by
  intro hm
  obtain ⟨x, hx, hxe⟩ := List.mem_map.mp hm
  obtain ⟨j, hj, hxj⟩ := List.mem_take_iff_getElem.mp hx
  obtain ⟨hi, rfl⟩ := List.getElem?_eq_some_iff.mp he
  have h := (List.nodup_iff_injective_getElem.mp hn) (a₁ := ⟨j, by simp; omega⟩) (a₂ := ⟨i, by simpa using hi⟩) (by simpa [hxj] using hxe)
  simp only [Fin.mk.injEq] at h
  omega

/-- Settles O32: the walk keeps the figures and the records to come, so each entry meets the four tests at the state it finds. -/
theorem examinationWalksQueue : Obligations.ExaminationWalksQueue := by
  unfold Obligations.ExaminationWalksQueue
  intro s hc hn
  refine ⟨s.walked, walked_zero s, walked_length s, fun i hi => (walking_walked hc.loads i hi).figures, fun i e he => ?_⟩
  obtain ⟨hi, -⟩ := List.getElem?_eq_some_iff.mp he
  have hw := walking_walked hc.loads i hi.le
  have hrec := hw.ahead e.load (not_mem_take_of_nodup hn he)
  rw [walked_succ he]
  refine ⟨fun h => examineEntry_of_not_queued (by unfold State.stateOf at h ⊢; rwa [hrec]), fun r reasoned hl hq hreasoned => ?_⟩
  have hl' := hrec.trans hl
  have hlimit : (s.walked i).inrushLimit = s.inrushLimit := by
    obtain ⟨-, -, -, -, -, -, -, -, -, -, -, -, h, -⟩ := frozen_field hw.quiet.frozen
    exact h
  have hsupplied : (s.walked i).supplied r = true ↔ ∀ d, r.drawsA = some d ∨ r.drawsB = some d → s.required d.group ≤ s.capacity d.group := by
    simp only [supplied_iff, hw.figures]
  have reason : ∀ w, (s.walked i).waitReason r = w → w ≠ .none → (s.walked i).examineEntry e = reasoned w := fun w h hne => by
    rw [examineEntry_of_queued hl' hq, h, if_neg hne, hreasoned]
    rfl
  obtain ⟨hrest, htests⟩ := waitReason_by_test (s.walked i) r
  rw [hw.quiet.timeBase] at hrest htests
  rw [hlimit] at htests
  refine ⟨hl', fun h => reason _ (hrest h) (by simp), fun h => ?_⟩
  obtain ⟨hfeeder, hfree⟩ := htests h
  refine ⟨fun h => reason _ (hfeeder h) (by simp), fun h => ?_⟩
  obtain ⟨hbudget, hfits⟩ := hfree h
  refine ⟨fun h1 h2 => reason _ (hbudget h1 h2) (by simp), fun h => ?_⟩
  obtain ⟨hsupply, hpass⟩ := hfits h
  refine ⟨fun ⟨d, hd, hlt⟩ => reason _ (hsupply ?_) (by simp), fun hall => ?_⟩
  · exact Bool.eq_false_iff.mpr (fun h => absurd (hsupplied.mp h d hd) (by omega))
  · rw [examineEntry_of_queued hl' hq, if_pos (hpass (hsupplied.mpr hall))]
    obtain ⟨hsum, hcount⟩ := grant_starting (hw.quiet.canonical hc.loads) hl' hq
    refine ⟨?_, fun m hm => moveTo_load_ne hm, (moveTo_queue hl').trans (if_pos hq), grant_feeders hl' hq, hsum, hcount, moveTo_marks_self hl'⟩
    rw [State.grant, moveTo_load_self hl', ← hw.quiet.timeBase]
    exact congrArg some (entering_starting r _)

end Sys2Proof.Machine
end

section
/-! SUPPORT. A hand-off that waits is taken (`Takes`), the lack of supply of a group through the hand-offs of a step (R113, R114), and
the raise that has failed in such a step (R116, R117). -/

namespace Sys2Proof.Machine

variable {s t u v : State} {n m g p : Nat} {r r' : LoadRecord} {new : LoadState} {out : Option (Operation × OpResult)} {w w0 : Work}
  {x : Group} {W D P : State → Prop}

/-! ### A hand-off that waits is taken -/

/-- What evaluations, tests and examined entries keep, every plain hand-off keeps. -/
theorem run_keeps (he : ∀ s n, w = .evaluate n → P s → P (s.evaluate n)) (ht : ∀ s g, w = .testGroup g → P s → P (s.testGroup g))
    (hx : ∀ s e, P s → P (s.examineEntry e)) (hw : w.plain) (h : P s) : P (w.run s).1 := by
  cases w with
  | evaluate n => exact he s n rfl h
  | testGroup g => exact ht s g rfl h
  | examine =>
    show P (s.examine)
    unfold State.examine
    generalize s.queue = q
    induction q generalizing s with
    | nil => exact h
    | cons e rest ih => exact ih (hx s e h)
  | recompute => exact absurd hw (by simp [Work.plain])
  | periodEnd _ => exact absurd hw (by simp [Work.plain])
  | activate _ => exact absurd hw (by simp [Work.plain])
  | offer _ => exact absurd hw (by simp [Work.plain])

/-- Where the hand-off `w0` waits in a state of `W`, it takes it to one of `D`, which the hand-offs that may be waiting there keep: in state
`s` those of `ok s`, all of them plain. -/
structure TakesAmong (w0 : Work) (ok : State → Work → Prop) (W D : State → Prop) : Prop where
  choiceW : ∀ s k, W s → W { s with choices := k }
  choiceD : ∀ s k, D s → D { s with choices := k }
  choiceOk : ∀ s k w, ok s w → ok { s with choices := k } w
  plain : ∀ s w, ok s w → w.plain
  next : ∀ w s y, ok s w → D s ∨ W s → ok s y ∨ y ∈ handoffs s (w.run s).1 → ok (w.run s).1 y
  keepW : ∀ w s, ok s w → w ≠ w0 → W s → W (w.run s).1
  turn : ∀ s, W s → D (w0.run s).1
  keepD : ∀ w s, ok s w → D s → D (w.run s).1
  waits : ∀ s, W s → w0.idle s = false

variable {ok : State → Work → Prop} {ws : List Work}

theorem TakesAmong.either (h : TakesAmong w0 ok W D) (hw : ok s w) (hs : D s ∨ W s) : D (w.run s).1 ∨ (¬ D s ∧ w ≠ w0 ∧ W (w.run s).1) := by
  by_cases hD : D s
  · exact .inl (h.keepD w s hw hD)
  · have hW := hs.resolve_left hD
    by_cases hn : w = w0
    · subst hn; exact .inl (h.turn s hW)
    · exact .inr ⟨hD, hn, h.keepW w s hw hn hW⟩

/-- The hand-offs that may wait after `w` has been taken. -/
theorem TakesAmong.waiting (h : TakesAmong w0 ok W D) (hok : ∀ y ∈ w :: ws, ok s y) (hs : D s ∨ W s) :
    ∀ y, y ∈ ws ∨ y ∈ handoffs s (w.run s).1 → ok (w.run s).1 y := fun y hy =>
  h.next w s y (hok w List.mem_cons_self) hs (hy.imp_left (fun hy => hok y (List.mem_cons_of_mem _ hy)))

/-- A hand-off taken at the bound, with the evaluations it leaves (R57). -/
theorem TakesAmong.finish (h : TakesAmong w0 ok W D) (hok : ∀ y ∈ w :: ws, ok s y) (hs : D s ∨ W s) :
    (∀ y ∈ ws, ok (w.finish s) y) ∧ (D (w.finish s) ∨ (¬ D s ∧ w ≠ w0 ∧ W (w.finish s))) := by
  have hw := hok w List.mem_cons_self
  have hleft : ∀ y ∈ (w.run s).2 ++ dueHandoffs s (w.run s).1, ∃ m, y = .evaluate m := fun y hy => by
    rw [run_plain_work (h.plain s w hw), List.nil_append] at hy
    exact dueHandoffs_evaluate hy
  have hrest : ∀ y, y ∈ (w.run s).2 ++ dueHandoffs s (w.run s).1 ∨ y ∈ ws → ok (w.run s).1 y := fun y hy => by
    rw [run_plain_work (h.plain s w hw), List.nil_append] at hy
    exact h.waiting hok hs y (hy.symm.imp_right dueHandoffs_mem)
  have hP := h.either hw hs
  unfold Work.finish
  generalize (w.run s).1 = t at hP hleft hrest ⊢
  generalize (w.run s).2 ++ dueHandoffs s t = l at hleft hrest
  induction l generalizing t with
  | nil => exact ⟨fun y hy => hrest y (.inr hy), hP⟩
  | cons y rest ih =>
    obtain ⟨m, rfl⟩ := hleft y List.mem_cons_self
    have hy : ok t (.evaluate m) := hrest _ (.inl List.mem_cons_self)
    have hDW : D t ∨ W t := hP.imp_right (fun hP => hP.2.2)
    refine ih (t.evaluate m) ?_ (fun z hz => hleft z (List.mem_cons_of_mem _ hz)) (fun z hz => ?_)
    · rcases hP with hD | ⟨hnD, hne, hW⟩
      · exact .inl (h.keepD (.evaluate m) t hy hD)
      · exact (h.either hy (.inr hW)).imp_right (fun ⟨_, _, hW⟩ => ⟨hnD, hne, hW⟩)
    · exact h.next (.evaluate m) t z hy hDW (.inl (hrest z (hz.imp_left (List.mem_cons_of_mem _))))

theorem TakesAmong.settleLoop (h : TakesAmong w0 ok W D) (fuel : Nat) (ws : List Work) (s : State) (hok : ∀ w ∈ ws, ok s w)
    (hs : D s ∨ (W s ∧ w0 ∈ ws)) : D (settleLoop fuel ws s) := by
  -- a hand-off that is taken leaves `w0` waiting if it was another
  have still : ∀ {w : Work} {ws ws' : List Work} {s t : State}, D s ∨ (W s ∧ w0 ∈ w :: ws) → (∀ y ∈ ws, y ∈ ws') →
      D t ∨ (¬ D s ∧ w ≠ w0 ∧ W t) → D t ∨ (W t ∧ w0 ∈ ws') := fun hs hsub ht =>
    ht.imp_right (fun ⟨hnD, hne, hW⟩ => ⟨hW, hsub _ (List.mem_of_ne_of_mem (Ne.symm hne) (hs.resolve_left hnD).2)⟩)
  refine (settleLoop_waiting (I := fun ws s => (∀ w ∈ ws, ok s w) ∧ (D s ∨ (W s ∧ w0 ∈ ws))) (fun ws ws' s hp h => ?_)
    (fun ws s h1 => ?_) (fun ws s k h1 => ?_) (fun w ws s h1 => ?_) (fun w ws s h1 => ?_) fuel ws s ⟨hok, hs⟩).2.resolve_right (by simp)
  · exact ⟨fun w hw => h.1 w (hp.mem_iff.mpr hw), h.2.imp_right (fun h => ⟨h.1, hp.mem_iff.mp h.2⟩)⟩
  · exact ⟨fun w hw => h1.1 w (List.mem_of_mem_filter hw),
      h1.2.imp_right (fun h2 => ⟨h2.1, List.mem_filter.mpr ⟨h2.2, by simp [h.waits s h2.1]⟩⟩)⟩
  · exact ⟨fun w hw => h.choiceOk s k w (h1.1 w hw), h1.2.imp (h.choiceD s k) (fun h2 => ⟨h.choiceW s k h2.1, h2.2⟩)⟩
  · obtain ⟨hok, hs⟩ := h1
    have hDW := hs.imp_right And.left
    have hw := hok w List.mem_cons_self
    rw [run_plain_work (h.plain s w hw), List.nil_append]
    exact ⟨fun y hy => h.waiting hok hDW y (mem_addWork hy), still hs (fun y hy => mem_addWork_of (.inl hy)) (h.either hw hDW)⟩
  · obtain ⟨hok, hs⟩ := h1
    obtain ⟨hrest, hP⟩ := h.finish hok (hs.imp_right And.left)
    exact ⟨hrest, still hs (fun y hy => hy) hP⟩

theorem TakesAmong.settle (h : TakesAmong w0 ok W D) {s0 : State} {work : List Work} (hok : ∀ w ∈ work ++ handoffs s0 s, ok s w) (hs : W s)
    (hm : w0 ∈ work ++ handoffs s0 s) : D (s0.settle s work) :=
  h.settleLoop _ _ _ (fun y hy => hok y ((mem_addWork hy).resolve_left (by simp))) (.inr ⟨hs, mem_addWork_of (.inr hm)⟩)

/-- The same, where any plain hand-off may wait. -/
structure Takes (w0 : Work) (W D : State → Prop) : Prop where
  choiceW : ∀ s k, W s → W { s with choices := k }
  choiceD : ∀ s k, D s → D { s with choices := k }
  keepW : ∀ (w : Work) (s : State), w.plain → w ≠ w0 → W s → W (w.run s).1
  turn : ∀ s, W s → D (w0.run s).1
  keepD : ∀ (w : Work) (s : State), w.plain → D s → D (w.run s).1
  waits : ∀ s, W s → w0.idle s = false

theorem Takes.settle (h : Takes w0 W D) {s0 : State} {work : List Work} (hp : ∀ w ∈ work, w.plain) (hs : W s) (hm : w0 ∈ work ++ handoffs s0 s) :
    D (s0.settle s work) := by
  have hamong : TakesAmong w0 (fun _ w => w.plain) W D :=
    { choiceW := h.choiceW, choiceD := h.choiceD, choiceOk := fun _ _ _ h => h, plain := fun _ _ h => h
      next := fun w s y _ _ hy => hy.elim id (handoffs_plain _ _ y)
      keepW := h.keepW, turn := h.turn, keepD := h.keepD, waits := h.waits }
  exact hamong.settle (fun y hy => (List.mem_append.mp hy).elim (hp y) (handoffs_plain s0 s y)) hs hm

/-! ### What a group is judged by -/

/-- A group that is judged by the same view has the same figures and the same lack of supply (R107 to R109, R114). -/
theorem figures_of_view (h : t.groupView g = s.groupView g) :
    t.capacity g = s.capacity g ∧ t.required g = s.required g ∧ t.lacks g = s.lacks g := by
  obtain ⟨hm, hp, hc⟩ : t.margin g = s.margin g ∧ t.providersByLoad g = s.providersByLoad g ∧ t.consumers g = s.consumers g := by
    simpa [State.groupView] using h
  have hcap : t.capacity g = s.capacity g := by simp only [State.capacity, hp]
  have hreq : t.required g = s.required g := by simp only [State.required, State.demand, hm, hc]
  exact ⟨hcap, hreq, by simp only [State.lacks, State.carries, hcap, hreq, hc]⟩

theorem put_filterMap_congr {α β : Type} {t : Table α} {f : Nat × α → Option β} {a a' : α} (h : f (n, a) = f (n, a')) :
    (Table.put t n a).filterMap f = (Table.put t n a').filterMap f := by
  induction t with
  | nil => simp [Table.put, List.filterMap_cons, h]
  | cons e rest ih =>
    obtain ⟨k, x⟩ := e
    unfold Table.put
    split
    · rw [List.filterMap_cons, h, List.filterMap_cons (a := (n, a'))]
    · split
      · rw [List.filterMap_cons, h, List.filterMap_cons (a := (n, a'))]
      · rw [List.filterMap_cons, ih, List.filterMap_cons]

/-- A QUEUED load draws group `g`. -/
def State.Asked (s : State) (g : Nat) : Prop := ∃ m r, s.load m = some r ∧ r.state = .queued ∧ (r.demandOn g).isSome = true

/-- R114 in the terms of the records and the group's figures. -/
theorem lacks_iff (hc : Table.Canonical 240 s.loads) : s.lacks g = true ↔ s.Asked g ∧ s.capacity g < s.required g := by
  have hasked : (s.consumers g).any (fun c => c.state == .queued) = true ↔ s.Asked g := by
    simp only [State.consumers, List.any_filterMap, State.Asked]
    rw [List.any_eq_true]
    constructor
    · rintro ⟨e, he, hq⟩
      refine ⟨e.1, e.2, Table.find_of_mem hc he, ?_⟩
      cases hd : e.2.demandOn g <;> simp_all
    · rintro ⟨m, r, hl, hq, hd⟩
      obtain ⟨d, hd⟩ := Option.isSome_iff_exists.mp hd
      exact ⟨(m, r), Table.mem_of_find hl, by simp [hd, hq]⟩
  unfold State.lacks State.carries
  simp [hasked]

theorem drawnGroups_of_demandOn (h : (r.demandOn g).isSome = true) : g ∈ r.drawnGroups := by
  unfold LoadRecord.demandOn at h
  unfold LoadRecord.drawnGroups
  cases hA : r.drawsA <;> cases hB : r.drawsB <;> simp_all [Option.filter] <;> grind

/-! ### A lack of supply through hand-offs -/

/-- A group that lacks supply lacks it after every plain hand-off: the QUEUED consumer is not granted, and no hand-off raises the
headroom (R110, R113). -/
theorem lacks_run (hw : w.plain) (h : Table.Canonical 240 s.loads ∧ s.lacks g = true) :
    Table.Canonical 240 (w.run s).1.loads ∧ (w.run s).1.lacks g = true := by
  have key : ∀ s t : State, Quiet s t → (∀ m r, s.load m = some r → r.state = .queued → (r.demandOn g).isSome = true →
        s.capacity g < s.required g → t.load m = some r) →
      Table.Canonical 240 s.loads ∧ s.lacks g = true → Table.Canonical 240 t.loads ∧ t.lacks g = true := by
    intro s t hq hkeep ⟨hc, hl⟩
    obtain ⟨⟨m, r, hm, hst, hd⟩, hlt⟩ := (lacks_iff hc).mp hl
    obtain ⟨hreq, hcap⟩ := hq.supply hc g
    exact ⟨hq.canonical hc, (lacks_iff (hq.canonical hc)).mpr ⟨⟨m, r, hkeep m r hm hst hd hlt, hst, hd⟩, by omega⟩⟩
  refine run_keeps (P := fun s => Table.Canonical 240 s.loads ∧ s.lacks g = true) (fun s n _ => key s _ ((Quiet.refl s).evaluate n) ?_)
    (fun s k _ => key s _ ((Quiet.refl s).testGroup k) ?_) (fun s e => key s _ ((Quiet.refl s).examineEntry e) ?_) hw h
  · intro m r hm hst _ _
    rcases evaluate_cases s n with e | ⟨rn, hn, hd, e⟩
    · rwa [e]
    · exact (evaluate_load_ne (fun h => by subst h; cases hm.symm.trans hn; simp [hst] at hd)).trans hm
  · intro m r hm hst _ _
    rcases testGroup_cases s k with e | ⟨p, hp, e⟩ | e | e
    · rwa [e]
    · rw [e, modifyGroup_load, enqueue_load_ne _ (fun h => by subst h; simp [State.stateOf, hm, hst] at hp)]
      exact hm
    all_goals rw [e, modifyGroup_load]; exact hm
  · intro m r hm hst hd hlt
    by_cases he : e.load = m
    · subst he
      have hno : s.waitReason r ≠ .none := fun h => by
        obtain ⟨-, -, -, hs⟩ := waitReason_none h
        have := List.all_eq_true.mp hs g (drawnGroups_of_demandOn hd)
        simp [State.carries] at this
        omega
      rw [examineEntry_of_queued hm hst, if_neg hno]
      exact hm
    · rcases examineEntry_cases s e with h | ⟨r', hl, hq, h⟩ | ⟨c, h⟩ <;> rw [h]
      · exact hm
      · exact (moveTo_load_ne (Ne.symm he)).trans hm
      · exact hm

/-- Group `g` is the only one that is defined. -/
def State.OnlyGroup (s : State) (g : Nat) : Prop := ∀ k, k ≠ g → s.group k = none

/-- An evaluation writes its reason or, with permission, stops the load (R56, R57). -/
theorem evaluate_of_due (hl : s.load n = some r) (hd : r.state = .due) :
    s.evaluate n = if s.permission n r = .none then s.moveTo n .stopping none else s.setLoad n { r with blockReason := s.permission n r } := by
  simp [State.evaluate, hl, hd]

theorem groupView_modifyGroup (s : State) (g : Nat) (f : Group → Group) (hf : ∀ x, (f x).margin = x.margin) (k : Nat) :
    (s.modifyGroup g f).groupView k = s.groupView k := by
  have hm : (s.modifyGroup g f).margin k = s.margin k := by
    have h := modifyGroup_group s g f k
    unfold State.margin
    rw [h]
    by_cases hk : k = g
    · cases hx : s.group k <;> simp [hk, hf]
    · simp [hk]
  have hl : (s.modifyGroup g f).loads = s.loads := by unfold State.modifyGroup; split <;> rfl
  simp only [State.groupView, hm, State.providersByLoad, State.consumers, hl]

/-- A load that stops with permission leaves its group what it requires, and every other group what it has (R111). -/
theorem stop_keeps_supply (hc : Table.Canonical 240 s.loads) (hl : s.load n = some r) (hd : r.state = .due) (hs : s.spared r = true)
    (h : s.required g ≤ s.capacity g) :
    (s.moveTo n .stopping none).required g ≤ (s.moveTo n .stopping none).capacity g := by
  have hrec : s.movedRecord r .stopping none = r.entering .stopping s.timeBase := rfl
  have hcap := moveTo_capacity (new := .stopping) (out := none) hc hl g
  have hdem := moveTo_demand (new := .stopping) (out := none) hc hl g
  have h1 : (s.movedRecord r .stopping none).capacityOf g = 0 := by
    simp [hrec, entering_stopping, LoadRecord.capacityOf, LoadRecord.supplies]
  have h2 : (s.movedRecord r .stopping none).demandOf g = r.demandOf g := by
    simp [hrec, entering_stopping, LoadRecord.demandOf, LoadRecord.draws, LoadRecord.demandOn, hd]
  have h3 : s.required g + r.capacityOf g ≤ s.capacity g := by
    unfold LoadRecord.capacityOf LoadRecord.providesTo
    unfold State.spared at hs
    cases hp : r.provides with
    | none => simpa using h
    | some p =>
      by_cases hg : p.group = g
      · subst hg
        simpa [hp, hd, LoadRecord.supplies, Option.filter] using hs
      · simpa [Option.filter, hg] using h
  have hreq : (s.moveTo n .stopping none).required g = s.required g := by
    unfold State.required
    rw [moveTo_margin_eq]
    exact congrArg (fun d => raisedDemand d (s.margin g)) (by omega)
  omega

/-- In a part with this one group, a group that lacks no supply lacks none after any plain hand-off: a stop leaves it what it requires,
a grant changes no figures, and no other group raises a load that draws it. -/
theorem supplied_run (hw : w.plain) (h : Table.Canonical 240 s.loads ∧ s.OnlyGroup g ∧ s.lacks g = false) :
    Table.Canonical 240 (w.run s).1.loads ∧ (w.run s).1.OnlyGroup g ∧ (w.run s).1.lacks g = false := by
  have same : ∀ s t : State, Quiet s t → (∀ k, s.group k = none → t.group k = none) → t.groupView g = s.groupView g →
      Table.Canonical 240 s.loads ∧ s.OnlyGroup g ∧ s.lacks g = false → Table.Canonical 240 t.loads ∧ t.OnlyGroup g ∧ t.lacks g = false :=
    fun s t hq hg hv ⟨h1, h2, h3⟩ => ⟨hq.canonical h1, fun k hk => hg k (h2 k hk), (figures_of_view hv).2.2.trans h3⟩
  -- a move of a QUEUED or DUE record out of QUEUED leaves no new consumer asking
  have move : ∀ (s : State) m rm new, s.load m = some rm → new ≠ .queued →
      (s.required g ≤ s.capacity g → (s.moveTo m new none).required g ≤ (s.moveTo m new none).capacity g) →
      Table.Canonical 240 s.loads ∧ s.OnlyGroup g ∧ s.lacks g = false →
      Table.Canonical 240 (s.moveTo m new none).loads ∧ (s.moveTo m new none).OnlyGroup g ∧ (s.moveTo m new none).lacks g = false := by
    rintro s m rm new hm hnew hfig ⟨h1, h2, h3⟩
    have hc := moveTo_canonical (n := m) (new := new) (out := none) h1
    refine ⟨hc, fun k hk => by rw [moveTo_group hm, h2 k hk]; rfl, Bool.eq_false_iff.mpr (fun hlack => ?_)⟩
    obtain ⟨⟨j, rj, hj, hst, hd⟩, hlt⟩ := (lacks_iff hc).mp hlack
    have hne : j ≠ m := by
      rintro rfl
      rw [moveTo_load_self hm, Option.some.injEq] at hj
      exact hnew ((movedRecord_state s rm new none).symm.trans (hj ▸ hst))
    have hasked : s.Asked g := ⟨j, rj, (moveTo_load_ne hne).symm.trans hj, hst, hd⟩
    have := Bool.eq_false_iff.mp h3
    refine this ((lacks_iff h1).mpr ⟨hasked, ?_⟩)
    by_contra hle
    have := hfig (by omega)
    omega
  refine run_keeps (P := fun s => Table.Canonical 240 s.loads ∧ s.OnlyGroup g ∧ s.lacks g = false) (fun s n _ h => ?_) (fun s k _ h => ?_)
    (fun s e h => ?_) hw h
  · rcases evaluate_cases s n with e | ⟨rn, hn, hd, -⟩
    · rwa [e]
    · rw [evaluate_of_due hn hd]
      split
      · rename_i hp
        exact move s n rn _ hn (by simp) (stop_keeps_supply h.1 hn hd (permission_none hp).2.2.2.1) h
      · have hq := (Quiet.refl s).evaluate n
        rw [evaluate_of_due hn hd, if_neg ‹_›] at hq
        exact same s _ hq (fun k hk => hk) (groupView_setLoad (r' := { rn with blockReason := s.permission n rn }) h.1 hn rfl rfl rfl rfl rfl g) h
  · by_cases hk : k = g
    · subst hk
      unfold State.testGroup
      split
      · exact h
      · split
        · exact h
        all_goals
          rw [if_neg (by simp [h.2.2])]
          exact same s (s.modifyGroup k fun y => { y with state := .normal, failed := [] }) ((Quiet.refl s).modifyGroup k _ (fun _ => rfl))
            (fun j hj => by rw [modifyGroup_group]; split <;> simp [hj]) (groupView_modifyGroup s k (fun y => { y with state := .normal, failed := [] }) (fun _ => rfl) k) h
    · have : s.testGroup k = s := by simp [State.testGroup, h.2.1 k hk]
      rwa [this]
  · rcases examineEntry_cases s e with h' | ⟨r', hl, hq, h'⟩ | ⟨c, h'⟩ <;> rw [h']
    · exact h
    · obtain ⟨hcap, hreq⟩ := grant_figures h.1 hl hq g
      exact move s e.load r' _ hl (by simp) (fun hle => by unfold State.grant at hcap hreq; omega) h
    · exact same s _ ((Quiet.refl s).of_same rfl rfl rfl rfl rfl (fun _ => rfl) rfl) (fun k hk => hk) rfl h

/-! ### A group through hand-offs -/

/-- What group record `x` raises stands in QUEUED or STARTING. -/
def State.Raised (s : State) (x : Group) : Prop := ∀ p, x.state = .raising p → s.stateOf p = some .queued ∨ s.stateOf p = some .starting

theorem stateOf_moveTo (hl : s.load n = some r) (m : Nat) : (s.moveTo n new out).stateOf m = if m = n then some new else s.stateOf m := by
  unfold State.stateOf
  rw [moveTo_load hl]
  split <;> simp

/-- No hand-off but its own test changes a group whose raise stands in QUEUED or STARTING. -/
theorem group_run (hw : w.plain) (hne : w ≠ .testGroup g) (h : s.group g = some x ∧ s.Raised x) :
    (w.run s).1.group g = some x ∧ (w.run s).1.Raised x := by
  have move : ∀ (s : State) m rm new, s.load m = some rm →
      (rm.state = .due ∧ new = .stopping) ∨ (rm.state = .stopped ∧ new = .queued) ∨ (rm.state = .queued ∧ new = .starting) →
      s.group g = some x ∧ s.Raised x → (s.moveTo m new none).group g = some x ∧ (s.moveTo m new none).Raised x := by
    rintro s m rm new hm hmove ⟨hx, hr⟩
    have hst : s.stateOf m = some rm.state := stateOf_eq.mpr ⟨rm, hm, rfl⟩
    refine ⟨?_, fun p hp => ?_⟩
    · rw [moveTo_group hm, hx, Option.map_some]
      rcases follow_cases x hmove with e | ⟨hd, h3, -⟩
      · rw [e]
      · have := hr m h3
        simp [hst, hd] at this
    · rw [stateOf_moveTo hm]
      exact raised_move (S := s.stateOf) hst hmove (hr p hp)
  refine run_keeps (P := fun s => s.group g = some x ∧ s.Raised x) (fun s n _ h => ?_) (fun s k hk h => ?_) (fun s e h => ?_) hw h
  · rcases evaluate_cases s n with e | ⟨rn, hn, hd, e | e⟩ <;> rw [e]
    · exact h
    · exact move s n rn _ hn (.inl ⟨hd, rfl⟩) h
    · refine ⟨h.1, fun p hp => ?_⟩
      have : (s.setLoad n { rn with blockReason := s.permission n rn }).stateOf p = s.stateOf p := by
        unfold State.stateOf
        rw [load_setLoad]
        split
        · rename_i h; subst h; simp [hn]
        · rfl
      rw [this]
      exact h.2 p hp
  · have hkg : g ≠ k := fun h => hne (h ▸ hk)
    have modify : ∀ (u : State) f, u.group g = some x ∧ u.Raised x → (u.modifyGroup k f).group g = some x ∧ (u.modifyGroup k f).Raised x :=
      fun u f hu => ⟨by rw [modifyGroup_group, if_neg hkg, hu.1], fun p hp => by unfold State.stateOf; rw [modifyGroup_load]; exact hu.2 p hp⟩
    rcases testGroup_cases s k with e | ⟨p, hp, e⟩ | e | e <;> rw [e]
    · exact h
    · obtain ⟨rp, hl, hst⟩ := stateOf_eq.mp hp
      exact modify _ _ (move { s with queue := placeEntry (s.newEntry p .supply) s.queue, arrivals := s.arrivals + 1 } p rp _ hl
        (.inr (.inl ⟨hst, rfl⟩)) h)
    · exact modify _ _ h
    · exact modify _ _ h
  · rcases examineEntry_cases s e with h' | ⟨r', hl, hq, h'⟩ | ⟨c, h'⟩ <;> rw [h']
    · exact h
    · exact move s _ r' _ hl (.inr (.inr ⟨hq, rfl⟩)) h
    · exact h

/-- The test of a group with no raise outstanding, by its lack of supply (R114 to R117). -/
theorem testGroup_of (hx : s.group g = some x) (hn : ∀ p, x.state ≠ .raising p) :
    (s.lacks g = true → ∃ y, (s.testGroup g).group g = some y ∧ y.failed = x.failed ∧ y.state ≠ .normal ∧ (s.testGroup g).Raised y)
      ∧ (s.lacks g = false → (s.testGroup g).group g = some { x with state := .normal, failed := [] }) := by
  have short : ∀ u : State, u.group g = some x → (u.modifyGroup g (fun y => { y with state := .short })).group g = some { x with state := .short } :=
    fun u hu => by rw [modifyGroup_group, if_pos rfl, hu]; rfl
  unfold State.testGroup
  rw [hx]
  dsimp only
  split
  · rename_i p hp; exact absurd hp (hn p)
  all_goals
    refine ⟨fun hl => ?_, fun hl => ?_⟩
    · rw [if_pos hl]
      split
      · exact ⟨_, short s hx, rfl, by simp, fun p hp => by simp at hp⟩
      · rename_i p hp
        split
        · rename_i ho
          obtain ⟨rp, hl, hst⟩ := stateOf_eq.mp (startOffer_entered ho).1
          have hg : (s.enqueue p .supply).group g = some x := by
            have hm := moveTo_group (s := { s with queue := placeEntry (s.newEntry p .supply) s.queue, arrivals := s.arrivals + 1 })
              (r := rp) hl .queued none g
            refine hm.trans ?_
            show (s.group g).map _ = _
            simp [hx, Group.follow]
          refine ⟨{ x with state := .raising p }, by rw [modifyGroup_group, if_pos rfl, hg]; rfl, rfl, by simp, fun q hq => ?_⟩
          cases hq
          left
          unfold State.stateOf
          rw [modifyGroup_load, enqueue_load hl, if_pos rfl]
          rfl
        · exact ⟨_, short s hx, rfl, by simp, fun p hp => by simp at hp⟩
        · exact ⟨_, short s hx, rfl, by simp, fun p hp => by simp at hp⟩
    · rw [if_neg (by simp [hl]), modifyGroup_group, if_pos rfl, hx]
      rfl

/-! ### A raise that has failed -/

/-- Load `n` is in the failed-raise set of group `g`, whose raise has ended and which has not tested yet. -/
def State.Untested (n g : Nat) (v : State) : Prop := ∃ y, v.group g = some y ∧ n ∈ y.failed ∧ y.state = .normal

/-- Group `g` has tested since: it is RAISING or SHORT with load `n` in its failed-raise set, or the set is empty. -/
def State.Tested (n g : Nat) (v : State) : Prop :=
  ∃ y, v.group g = some y ∧ ((n ∈ y.failed ∧ y.state ≠ .normal) ∨ y.failed = []) ∧ v.Raised y

/-- Group `g` has tested with a lack of supply. -/
def State.TestedLacking (n g : Nat) (v : State) : Prop := ∃ y, v.group g = some y ∧ (n ∈ y.failed ∧ y.state ≠ .normal) ∧ v.Raised y

/-- Group `g` has tested with no lack of supply. -/
def State.TestedSupplied (g : Nat) (v : State) : Prop := ∃ y, v.group g = some y ∧ y.state = .normal ∧ y.failed = []

/-- A group with no raise outstanding, or with a test that leaves it as it is, tests to what its lack of supply says. -/
theorem testGroup_failed (hx : s.group g = some x) (hr : s.Raised x) (hn : n ∈ x.failed) :
    s.lacks g = true → x.state ≠ .normal ∨ (∀ p, x.state ≠ .raising p) → (s.testGroup g).TestedLacking n g := by
  intro hl hor
  by_cases hra : ∃ p, x.state = .raising p
  · obtain ⟨p, hp⟩ := hra
    have : s.testGroup g = s := by simp [State.testGroup, hx, hp]
    rw [this]
    exact ⟨x, hx, ⟨hn, by simp [hp]⟩, hr⟩
  · obtain ⟨y, hy, hf, hs, hyr⟩ := (testGroup_of hx (fun p hp => hra ⟨p, hp⟩)).1 hl
    exact ⟨y, hy, ⟨hf ▸ hn, hs⟩, hyr⟩

theorem untested_run (hw : w.plain) (hne : w ≠ .testGroup g) (h : State.Untested n g s) : State.Untested n g (w.run s).1 := by
  obtain ⟨y, hy, hn, hs⟩ := h
  obtain ⟨h1, -⟩ := group_run hw hne ⟨hy, fun p hp => by simp [hs] at hp⟩
  exact ⟨y, h1, hn, hs⟩

theorem untested_waits (h : State.Untested n g s) : Work.idle (.testGroup g) s = false := by
  obtain ⟨y, hy, hn, hs⟩ := h
  have hne : y.failed ≠ [] := List.ne_nil_of_mem hn
  simp [Work.idle, hy, hs, hne]

theorem tested_run (hw : w.plain) (h : State.Tested n g s) : State.Tested n g (w.run s).1 := by
  obtain ⟨y, hy, hf, hr⟩ := h
  by_cases hne : w = .testGroup g
  · subst hne
    show State.Tested n g (s.testGroup g)
    by_cases hra : ∃ p, y.state = .raising p
    · obtain ⟨p, hp⟩ := hra
      have : s.testGroup g = s := by simp [State.testGroup, hy, hp]
      rw [this]
      exact ⟨y, hy, hf, hr⟩
    · obtain ⟨h1, h2⟩ := testGroup_of hy (fun p hp => hra ⟨p, hp⟩)
      cases hl : s.lacks g with
      | false => exact ⟨_, h2 hl, .inr rfl, fun p hp => by simp at hp⟩
      | true =>
        obtain ⟨z, hz, hzf, hzs, hzr⟩ := h1 hl
        exact ⟨z, hz, hzf ▸ hf.imp_left (fun h => ⟨h.1, hzs⟩), hzr⟩
  · obtain ⟨h1, h2⟩ := group_run hw hne ⟨hy, hr⟩
    exact ⟨y, h1, hf, h2⟩

theorem untested_tests (h : State.Untested n g s) :
    State.Tested n g (s.testGroup g) ∧ (s.lacks g = true → State.TestedLacking n g (s.testGroup g))
      ∧ (s.lacks g = false → State.TestedSupplied g (s.testGroup g)) := by
  obtain ⟨y, hy, hn, hs⟩ := h
  obtain ⟨h1, h2⟩ := testGroup_of hy (fun p hp => by simp [hs] at hp)
  have lack : s.lacks g = true → State.TestedLacking n g (s.testGroup g) := fun hl => by
    obtain ⟨z, hz, hzf, hzs, hzr⟩ := h1 hl
    exact ⟨z, hz, ⟨hzf ▸ hn, hzs⟩, hzr⟩
  refine ⟨?_, lack, fun hl => ⟨_, h2 hl, rfl, rfl⟩⟩
  cases hl : s.lacks g with
  | false => exact ⟨_, h2 hl, .inr rfl, fun p hp => by simp at hp⟩
  | true =>
    obtain ⟨z, hz, hzf, hzr⟩ := lack hl
    exact ⟨z, hz, .inl hzf, hzr⟩

theorem takes_test (n g : Nat) : Takes (.testGroup g) (State.Untested n g) (State.Tested n g) where
  choiceW _ _ h := h
  choiceD _ _ h := h
  keepW _ _ hw hne h := untested_run hw hne h
  turn _ h := (untested_tests h).1
  keepD _ _ hw h := tested_run hw h
  waits _ h := untested_waits h

/-- A test that meets a lack of supply, which stays through the step. -/
theorem takes_test_lacking (n g : Nat) :
    Takes (.testGroup g) (fun v => State.Untested n g v ∧ Table.Canonical 240 v.loads ∧ v.lacks g = true)
      (fun v => State.TestedLacking n g v ∧ Table.Canonical 240 v.loads ∧ v.lacks g = true) where
  choiceW _ _ h := h
  choiceD _ _ h := h
  keepW _ _ hw hne h := ⟨untested_run hw hne h.1, lacks_run hw h.2⟩
  turn _ h := ⟨(untested_tests h.1).2.1 h.2.2, lacks_run (w := .testGroup g) trivial h.2⟩
  keepD w s hw h := by
    refine ⟨?_, lacks_run hw h.2⟩
    obtain ⟨⟨y, hy, hf, hr⟩, -, hl⟩ := h
    by_cases hne : w = .testGroup g
    · subst hne
      exact testGroup_failed hy hr hf.1 hl (.inl hf.2)
    · obtain ⟨h1, h2⟩ := group_run hw hne ⟨hy, hr⟩
      exact ⟨y, h1, hf, h2⟩
  waits _ h := untested_waits h.1

/-- A test that meets no lack of supply, in a part with this one group. -/
theorem takes_test_supplied (n g : Nat) :
    Takes (.testGroup g) (fun v => State.Untested n g v ∧ Table.Canonical 240 v.loads ∧ v.OnlyGroup g ∧ v.lacks g = false)
      (fun v => State.TestedSupplied g v ∧ Table.Canonical 240 v.loads ∧ v.OnlyGroup g ∧ v.lacks g = false) where
  choiceW _ _ h := h
  choiceD _ _ h := h
  keepW _ _ hw hne h := ⟨untested_run hw hne h.1, supplied_run hw h.2⟩
  turn _ h := ⟨(untested_tests h.1).2.2 h.2.2.2, supplied_run (w := .testGroup g) trivial h.2⟩
  keepD w s hw h := by
    refine ⟨?_, supplied_run hw h.2⟩
    obtain ⟨⟨y, hy, hs, hf⟩, -, -, hl⟩ := h
    by_cases hne : w = .testGroup g
    · subst hne
      exact ⟨_, (testGroup_of hy (fun p hp => by simp [hs] at hp)).2 hl, rfl, rfl⟩
    · obtain ⟨h1, -⟩ := group_run hw hne ⟨hy, fun p hp => by simp [hs] at hp⟩
      exact ⟨y, h1, hs, hf⟩
  waits _ h := untested_waits h.1

/-- Of the record that moves a group is judged by its state alone (R110). -/
theorem groupView_moveTo (hl : s.load n = some r) (h : new ≠ .unknown) (g : Nat) :
    (s.setLoad n { r with state := new }).groupView g = (s.moveTo n new out).groupView g := by
  obtain ⟨o, ho⟩ := movedRecord_eq s r new out
  have hloads := moveTo_loads (new := new) (out := out) hl
  rw [ho] at hloads
  simp only [State.groupView, moveTo_margin_eq, State.providersByLoad, State.consumers, hloads]
  congr 1
  · exact put_filterMap_congr (by simp [LoadRecord.entering, LoadRecord.providesTo, LoadRecord.supplies, h])
  · exact put_filterMap_congr (by simp [LoadRecord.entering, LoadRecord.demandOn, LoadRecord.draws, h])

/-- A provider that changes its state hands its group a test (R110). -/
theorem testGroup_of_moveTo {q : Provides} (hc : Table.Canonical 240 s.loads) (hl : s.load n = some r) (hp : r.provides = some q)
    (hx : s.group q.group = some x) (hst : r.state ≠ new) : .testGroup q.group ∈ handoffs s (s.moveTo n new out) := by
  have hview : s.groupView q.group ≠ (s.moveTo n new out).groupView q.group := fun h => by
    have hmem := mem_providersByLoad_of_load hl hp
    have hprov : s.providersByLoad q.group = (s.moveTo n new out).providersByLoad q.group := congrArg GroupView.providers h
    rw [hprov] at hmem
    obtain ⟨r', -, hl', -, -, -, -, hs⟩ := provider_record (moveTo_canonical hc) hmem
    rw [moveTo_load_self hl, Option.some.injEq] at hl'
    subst hl'
    exact hst (hs.trans (movedRecord_state s r new out))
  have hg : q.group ∈ (s.moveTo n new out).groups.map Prod.fst :=
    List.mem_map_of_mem (f := Prod.fst) (Table.mem_of_find (a := x.follow n new) ((moveTo_group hl new out _).trans (by rw [hx]; rfl)))
  have hgroup : .testGroup q.group ∈ groupHandoffs s (s.moveTo n new out) q.group := by
    unfold groupHandoffs
    rw [if_neg hview]
    simp
  unfold handoffs
  simp only [List.mem_append, List.mem_flatMap]
  exact .inl (.inl (.inl (.inr ⟨_, hg, hgroup⟩)))

/-- A raised load that leaves QUEUED and STARTING other than to RUN has failed its raise (R116, R117). -/
theorem raiseFailed_of_moveTo {q : Provides} (hc : Table.Canonical 240 s.loads) (hl : s.load n = some r) (hp : r.provides = some q)
    (hx : s.group q.group = some x) (hr : x.state = .raising n) (hst : r.state ≠ new) (h1 : new ≠ .queued) (h2 : new ≠ .starting)
    (h3 : new ≠ .run) (h4 : new ≠ .unknown) : s.RaiseFailed (s.settle (s.moveTo n new out) []) q.group n new := by
  have hm := testGroup_of_moveTo (new := new) (out := out) hc hl hp hx hst
  have hg : (s.moveTo n new out).group q.group = some { x with state := .normal, failed := NatSet.add x.failed n } := by
    rw [moveTo_group hl, hx]
    simp [Group.follow, hr, h1, h2, h3]
  have hW : State.Untested n q.group (s.moveTo n new out) := ⟨_, hg, by simp [NatSet.mem_add], rfl⟩
  have hcv : Table.Canonical 240 (s.moveTo n new out).loads := moveTo_canonical hc
  obtain ⟨y, hy, hf, -⟩ := (takes_test n q.group).settle (s0 := s) (work := []) (by simp) hW hm
  refine ⟨y, hy, hf, fun x' r' u hgs hl' hu => ?_⟩
  obtain rfl := Option.some.inj (hl.symm.trans hl')
  have hview : u.lacks q.group = (s.moveTo n new out).lacks q.group := by
    rw [hu]
    exact (figures_of_view (groupView_moveTo hl h4 _)).2.2
  rw [hview]
  constructor
  · intro hlack
    obtain ⟨⟨z, hz, hzf, -⟩, -⟩ := (takes_test_lacking n q.group).settle (s0 := s) (work := []) (by simp) ⟨hW, hcv, hlack⟩ hm
    obtain rfl := Option.some.inj (hy.symm.trans hz)
    exact hzf
  · intro hlack
    have honly : (s.moveTo n new out).OnlyGroup q.group := fun k hk => by
      rw [moveTo_group hl]
      simp [State.group, hgs, Table.find, Ne.symm hk]
    obtain ⟨⟨z, hz, hzf⟩, -⟩ := (takes_test_supplied n q.group).settle (s0 := s) (work := []) (by simp) ⟨hW, hcv, honly, hlack⟩ hm
    obtain rfl := Option.some.inj (hy.symm.trans hz)
    exact hzf

end Sys2Proof.Machine
end

section
/-! SUPPORT. CLEAR FAULT, CANCEL START and the verify timers: a step of one move (R61, R67, R116, R125, R131). -/

namespace Sys2Proof.Machine

variable {s t u v : State} {n m g p : Nat} {r r' : LoadRecord} {new : LoadState} {out : Option (Operation × OpResult)}

/-- What the hand-offs after a move leave: the mark is set, and the record has changed by a hand-off at most. -/
theorem settle_moveTo (hc : Table.Canonical 240 s.loads) (hl : s.load n = some r) :
    n ∈ (s.settle (s.moveTo n new out) []).marks
      ∧ ∃ r', (s.settle (s.moveTo n new out) []).load n = some r' ∧ HandedOn s.timeBase (s.movedRecord r new out) r' := by
  have hq := settle_quiet (s0 := s) (s1 := s.moveTo n new out) none_plain
  obtain ⟨r', hr', hh⟩ := hq.record (moveTo_canonical hc) n _ (moveTo_load_self hl)
  have ht : (s.moveTo n new out).timeBase = s.timeBase := (frozen_field (frozen_moveTo s n new out)).1
  exact ⟨hq.marks n (moveTo_marks_self hl), r', hr', ht ▸ hh⟩

/-- In a state in which no hand-off acts the moved record stays as it is. -/
theorem settle_moveTo_still (hc : Table.Canonical 240 s.loads) (hl : s.load n = some r) (h1 : new ≠ .due) (h2 : new ≠ .queued)
    (h3 : new ≠ .stopped) : (s.settle (s.moveTo n new out) []).load n = some (s.movedRecord r new out) := by
  obtain ⟨-, r', hr', hh⟩ := settle_moveTo (new := new) (out := out) hc hl
  rw [hr', hh.still (by simpa using h1) (by simpa using h2) (.inl (by simpa using h3))]

theorem faultFlag_of_load (hl : s.load n = some r) (hf : r.state = .fault) : s.faultFlag = true := by
  have h : (n, r) ∈ s.loads.filter (fun e => e.2.state == .fault) := List.mem_filter.mpr ⟨Table.mem_of_find hl, by simp [hf]⟩
  have := List.length_pos_of_mem h
  unfold State.faultFlag State.faultCount
  simp only [bne_iff_ne, ne_eq]
  omega

/-- The answer of a command touches no record. -/
theorem respond_load (s : State) (c : Completion) (d : List Byte) (m : Nat) : (s.respond c d).load m = s.load m := rfl

theorem raiseFailed_respond {st : LoadState} {c : Completion} {d : List Byte} :
    s.RaiseFailed (t.respond c d) g n st ↔ s.RaiseFailed t g n st := Iff.rfl

/-! ### The verify timers -/

theorem exec_stopVerify (hl : s.load n = some r) :
    exec (.stopVerifyTimerExpiry n) s = .next
      (if r.state = .stopping ∧ verifyExpired s r = true then s.settle (s.moveTo n .fault (some (.stop, .timedOut))) [] else s) := by
  simp only [exec, execStopVerifyTimerExpiry, hl]
  split <;> rfl

theorem exec_startVerify (hl : s.load n = some r) :
    exec (.startVerifyTimerExpiry n) s = .next
      (if r.state = .starting ∧ verifyExpired s r = true then s.settle (s.moveTo n .fault (some (.start, .timedOut))) [] else s) := by
  simp only [exec, execStartVerifyTimerExpiry, hl]
  split <;> rfl

theorem verifyExpired_iff : verifyExpired s r = true ↔ ∃ e, r.verifyEnd = some e ∧ e ≤ s.timeBase := by
  unfold verifyExpired
  cases r.verifyEnd <;> simp

theorem movedRecord_fault (s : State) (r : LoadRecord) (o : Operation × OpResult) :
    s.movedRecord r .fault (some o) = { r with
      state := .fault, commanded := if r.state = .starting then .stop else .run, blockReason := .none, portStop := none, idleClock := 0
      verifyEnd := none, lastOutcome := some { operation := o.1, result := o.2, time := s.stamp } } := by
  simp [State.movedRecord, LoadRecord.entering, commandedOn, State.outcomeOf]

/-- Settles O24: an expired timer moves its record to FAULT, where no hand-off of the step acts on it. -/
theorem verifyTimersEndInFault : Obligations.VerifyTimersEndInFault := by
  unfold Obligations.VerifyTimersEndInFault
  intro s n r hc hl
  rw [exec_stopVerify hl, exec_startVerify hl]
  refine ⟨fun hno => ?_, fun e he hle => ?_⟩
  · have hex : ¬ verifyExpired s r = true := fun h => by
      obtain ⟨e, he, hle⟩ := verifyExpired_iff.mp h
      have := hno e he
      omega
    simp [hex]
  · have hex : verifyExpired s r = true := verifyExpired_iff.mpr ⟨e, he, hle⟩
    have fault : ∀ o, n ∈ (s.settle (s.moveTo n .fault (some o)) []).marks
        ∧ (s.settle (s.moveTo n .fault (some o)) []).faultFlag = true
        ∧ (s.settle (s.moveTo n .fault (some o)) []).load n = some (s.movedRecord r .fault (some o)) := fun o => by
      have hload := settle_moveTo_still (new := .fault) (out := some o) hc.loads hl (by simp) (by simp) (by simp)
      exact ⟨(settle_moveTo hc.loads hl).1, faultFlag_of_load hload (movedRecord_state ..), hload⟩
    refine ⟨fun hs => by simp [hs], fun hs => by simp [hs], fun hs => ?_, fun hs => ?_⟩
    · obtain ⟨hmark, hflag, hload⟩ := fault (.stop, .timedOut)
      refine ⟨_, by rw [if_pos ⟨hs, hex⟩], hmark, hflag, hload.trans ?_⟩
      simp [movedRecord_fault, hs]
    · obtain ⟨hmark, hflag, hload⟩ := fault (.start, .timedOut)
      refine ⟨_, by rw [if_pos ⟨hs, hex⟩], hmark, hflag, released_settled (moveTo_feeder_self hl (by simp) hs), fun q x hq hx hr => ?_,
        hload.trans ?_⟩
      · exact raiseFailed_of_moveTo hc.loads hl hq hx hr (by simp [hs]) (by simp) (by simp) (by simp) (by simp)
      · simp [movedRecord_fault, hs]

/-! ### CLEAR FAULT and CANCEL START -/

theorem movedRecord_unknown (s : State) (r : LoadRecord) : s.movedRecord r .unknown none = { r with
    state := .unknown, blockReason := .none, portStop := none, lastRun := none, idleClock := 0, baseline := none, verifyEnd := none } := by
  simp [State.movedRecord, LoadRecord.entering, commandedOn]

/-- The record of a QUEUED load whose start is cancelled (R124, R131). -/
theorem movedRecord_cancelled (s : State) (r : LoadRecord) (o : Operation × OpResult) (hq : r.state = .queued) :
    s.movedRecord r .stopped (some o) = { r with
      state := .stopped, blockReason := .none, portStop := none, idleClock := 0, verifyEnd := none
      lastOutcome := some { operation := o.1, result := o.2, time := s.stamp } } := by
  simp [State.movedRecord, LoadRecord.entering, commandedOn, State.outcomeOf, writesOffSince, hq]

/-- What a hand-off leaves of a STOPPED record: its off-since and its outcome, and all of it unless its group has raised it. -/
theorem HandedOn.stopped {now : Nat} (h : HandedOn now r r') (hs : r.state = .stopped) :
    r'.offSince = r.offSince ∧ r'.lastOutcome = r.lastOutcome
      ∧ (r' = r ∨ (r.provides ≠ none ∧ (r'.state = .queued ∨ r'.state = .starting))) := by
  rcases h with rfl | ⟨h, -⟩ | ⟨-, hp, rfl | rfl⟩ | ⟨h, -⟩
  · exact ⟨rfl, rfl, .inl rfl⟩
  · simp [hs] at h
  · exact ⟨by simp [LoadRecord.entering], rfl, .inr ⟨Option.isSome_iff_ne_none.mp hp, .inl rfl⟩⟩
  · exact ⟨by simp [LoadRecord.entering], rfl, .inr ⟨Option.isSome_iff_ne_none.mp hp, .inr rfl⟩⟩
  · simp [hs] at h

/-- Settles O22: each command is one move of its record, to UNKNOWN or to STOPPED, and the group may raise the STOPPED provider again. -/
theorem clearFaultAndCancelStart : Obligations.ClearFaultAndCancelStart := by
  unfold Obligations.ClearFaultAndCancelStart
  refine ⟨fun s n hc hs => ?_, fun s n hc hs => ?_⟩
  · have hp := hs.commandParams rfl (by simp)
    refine ⟨fun hn => congrArg Host.Outcome.next (runCommand_refused hp hc (onLoad_bad hn)),
      fun hn hl => congrArg Host.Outcome.next (runCommand_refused hp hc (onLoad_vacant hn hl)), fun r hn hl => ⟨fun hf => ?_, fun hf => ?_⟩⟩
    · refine congrArg Host.Outcome.next (runCommand_refused hp hc ((onLoad_live hn hl).trans ?_))
      simp [clearFaultBody, hf]
    · have hb : onLoad clearFaultBody [n] s = taken (s.moveTo n.toNat .unknown none) [] := by
        rw [onLoad_live hn hl]; simp [clearFaultBody, hf]
      have hq := settle_quiet (s0 := s) (s1 := s.moveTo n.toNat .unknown none) none_plain
      have hholds : (s.settle (s.moveTo n.toNat .unknown none) []).holds = s.holds := by
        obtain ⟨-, -, -, -, -, -, -, -, -, -, -, hh, -⟩ := frozen_field hq.frozen
        exact hh.trans moveTo_holds
      have hload := settle_moveTo_still (new := .unknown) (out := none) hc.loads hl (by simp) (by simp) (by simp)
      refine ⟨_, congrArg Host.Outcome.next (runCommand_taken hp hb), rfl, rfl, ?_, hholds, hload.trans (by rw [movedRecord_unknown])⟩
      rw [State.respond_marks]
      exact (settle_moveTo hc.loads hl).1
  · have hp := hs.commandParams rfl (by simp)
    refine ⟨fun hn => congrArg Host.Outcome.next (runCommand_refused hp hc (onLoad_bad hn)),
      fun hn hl => congrArg Host.Outcome.next (runCommand_refused hp hc (onLoad_vacant hn hl)), fun r hn hl => ⟨fun hq => ?_, fun hq => ?_⟩⟩
    · refine congrArg Host.Outcome.next (runCommand_refused hp hc ((onLoad_live hn hl).trans ?_))
      simp [cancelStartBody, hq]
    · have hb : onLoad cancelStartBody [n] s = taken (s.moveTo n.toNat .stopped (some (.start, .cancelled))) [] := by
        rw [onLoad_live hn hl]; simp [cancelStartBody, hq]
      obtain ⟨hmark, r', hr', hh⟩ := settle_moveTo (new := .stopped) (out := some (.start, .cancelled)) hc.loads hl
      rw [movedRecord_cancelled s r _ hq] at hh
      obtain ⟨hoff, hout, hcase⟩ := hh.stopped rfl
      refine ⟨_, r', congrArg Host.Outcome.next (runCommand_taken hp hb), rfl, rfl, ?_, ?_, hoff, hout, ?_, ?_⟩
      · rwa [State.respond_marks]
      · rwa [respond_load]
      · exact hcase.imp (fun h => by rw [h]; exact ⟨rfl, rfl, rfl⟩) id
      · intro q x hq' hx hr
        exact raiseFailed_respond.mpr (raiseFailed_of_moveTo hc.loads hl hq' hx hr (by simp [hq]) (by simp) (by simp) (by simp) (by simp))

end Sys2Proof.Machine
end

section
/-! SUPPORT. A step that recomputes the authority: the DUE records after it (R57, R98), and the settings of the plant clock
(R93 to R95, R100). -/

namespace Sys2Proof.Machine

variable {s s1 t u v : State} {n m : Nat} {r r' : LoadRecord}

/-! ### DUE records at a new authority -/

/-- Stop permission reads the holds on the load, its button hold among them, and the time base. -/
theorem judged_congr {authority : Nat} {x : LoadRecord} (hk : u.keepRunLevels n = s.keepRunLevels n) (ht : u.timeBase = s.timeBase)
    (h : u.Judged authority n r x) : s.Judged authority n r x := by
  unfold State.Judged at h ⊢
  rwa [hk, ht] at h

/-- A recomputation that changes the authority hands every DUE record to its evaluation (R98). -/
theorem evaluate_of_recompute (ha : s.recompute.authority ≠ s.authority) (hl : s.load n = some r) (hd : r.state = .due) :
    .evaluate n ∈ handoffs s s.recompute := by
  have hmem : .evaluate n ∈ dueHandoffs s s.recompute :=
    List.mem_map.mpr ⟨(n, r), List.mem_filter.mpr ⟨Table.mem_of_find (show s.recompute.load n = some r from hl),
      by simp only [hd, beq_self_eq_true, Bool.true_and, Bool.or_eq_true, bne_iff_ne]; exact .inl (Ne.symm ha)⟩, rfl⟩
  unfold handoffs
  simp only [List.mem_append]
  exact .inl (.inl (.inl (.inl hmem)))

/-- What a step that recomputes the authority leaves of the state `s1` it begins with. -/
structure Recomputed (s s1 t : State) : Prop where
  frozen : t.frozen = s1.frozen
  plans : t.plans = s1.plans
  authority : t.authority = t.computedAuthority
  due : s.DueJudged t

/-- A change that touches neither the records, the holds, the groups, the queue, the feeders, the time base nor the authority, and
the recomputation it calls for. -/
theorem settle_recomputed (hc : Table.Canonical 240 s.loads) (hl : s1.loads = s.loads) (ha : s1.authority = s.authority)
    (hh : s1.holds = s.holds) (hg : s1.groups = s.groups) (hq : s1.queue = s.queue) (hf : s1.feeders = s.feeders)
    (ht : s1.timeBase = s.timeBase) : Recomputed s s1 (s.settle s1 [.recompute]) := by
  have hno : handoffs s s1 = [] := handoffs_elsewhere hc hl ha hh hg hq hf
  have hquiet := settle_recompute hno
  refine ⟨hquiet.frozen, hquiet.plans, settle_recompute_authority hno, fun hne n r hr hd => ?_⟩
  have hload : ∀ m, s1.load m = s.load m := fun m => by unfold State.load; rw [hl]
  have hlamps : s1.recompute.keepRunLevels n = s.keepRunLevels n := keepRunLevels_congr hh (congrArg _ (hload n))
  have hnew : s1.recompute.authority ≠ s1.authority := fun h => hne (hquiet.authority.trans (h.trans ha))
  have hi : Work.idle .recompute s1 = false := by
    simpa [Work.idle] using Ne.symm hnew
  have hE := (evaluates_due (n := n) (b := s1.recompute) (r1 := r) (hl ▸ hc) hd).settleLoop 999999
    (addWork [] (handoffs s1 s1.recompute)) s1.recompute
    (fun w hw => handoffs_plain _ _ w ((mem_addWork hw).resolve_left (by simp)))
    (.inr ⟨⟨Quiet.refl _, (hload n).trans hr⟩, mem_addWork_of (.inr (evaluate_of_recompute hnew ((hload n).trans hr) hd))⟩)
  have hsettle : s.settle s1 [.recompute] = settleLoop 999999 (addWork [] (handoffs s1 s1.recompute)) s1.recompute := by
    rw [settle_single (w := .recompute) (by simp [hno]), if_neg (by simp [hi])]
    rfl
  rw [hquiet.authority]
  rw [hsettle]
  obtain ⟨-, x, hx, -, hj, -⟩ := hE
  exact ⟨x, hx, judged_congr hlamps ht hj⟩

/-! ### The settings -/

theorem ofCode_of_le {k : Nat} (h : k ≤ 2) : ∃ T, DayType.ofCode k = some T ∧ T.code = k := by
  interval_cases k
  · exact ⟨.work, rfl, rfl⟩
  · exact ⟨.short, rfl, rfl⟩
  · exact ⟨.rest, rfl, rfl⟩

theorem ofCode_code (T : DayType) : DayType.ofCode T.code = some T := by cases T <;> rfl

theorem le_of_ofCode {k : Nat} {T : DayType} (h : DayType.ofCode k = some T) : k ≤ 2 := by
  unfold DayType.ofCode at h
  split at h <;> simp_all

/-- A command that makes a change and calls for the authority to be recomputed. -/
theorem runCommand_recomputes {code : Byte} {body : List Byte → State → Reply} {params : List Byte} (hc : Table.Canonical 240 s.loads)
    (hp : s.commandParams code = some params) (hb : body params s = taken s1 [.recompute]) (hl : s1.loads = s.loads)
    (ha : s1.authority = s.authority) (hh : s1.holds = s.holds) (hg : s1.groups = s.groups) (hq : s1.queue = s.queue)
    (hf : s1.feeders = s.feeders) (ht : s1.timeBase = s.timeBase) :
    ∃ t, s.runCommand code body = t.respond .done [] ∧ Recomputed s s1 t :=
  ⟨_, runCommand_taken hp hb, settle_recomputed hc hl ha hh hg hq hf ht⟩

theorem setDayMap_settles {p : List Byte} (hc : Canonical s) (hlen : p.length = 7) (hs : s.Sent 0x32 p) :
    ((∃ b ∈ p, 2 < b.toNat) → exec .setDayMap s = .next (s.respond .badValue []))
    ∧ ((∀ b ∈ p, b.toNat ≤ 2) → ∃ t, exec .setDayMap s = .next t ∧ t.answer = some { code := .done, data := [] }
        ∧ t.executing = none ∧ (∀ (d : Fin 7) (b : Byte), p[d.val]? = some b → (t.dayMap[d]).code = b.toNat)
        ∧ t.todayOverride = s.todayOverride ∧ t.yesterday = s.yesterday ∧ t.plans = s.plans
        ∧ t.authority = t.computedAuthority ∧ s.DueJudged t) := by
  have hp := hs.commandParams rfl (by omega)
  obtain ⟨b0, b1, b2, b3, b4, b5, b6, rfl⟩ : ∃ b0 b1 b2 b3 b4 b5 b6, p = [b0, b1, b2, b3, b4, b5, b6] := by
    match p, hlen with
    | [b0, b1, b2, b3, b4, b5, b6], _ => exact ⟨b0, b1, b2, b3, b4, b5, b6, rfl⟩
  constructor
  · rintro ⟨b, hb, hlt⟩
    refine congrArg Host.Outcome.next (runCommand_refused hp hc ?_)
    unfold setDayMap
    dsimp only
    split
    · rename_i h0 h1 h2 h3 h4 h5 h6
      have hle : ∀ b ∈ [b0, b1, b2, b3, b4, b5, b6], b.toNat ≤ 2 := by
        simp [le_of_ofCode h0, le_of_ofCode h1, le_of_ofCode h2, le_of_ofCode h3, le_of_ofCode h4, le_of_ofCode h5, le_of_ofCode h6]
      have := hle b hb
      omega
    · rfl
  · intro hle
    obtain ⟨t0, h0, c0⟩ := ofCode_of_le (hle b0 (by simp))
    obtain ⟨t1, h1, c1⟩ := ofCode_of_le (hle b1 (by simp))
    obtain ⟨t2, h2, c2⟩ := ofCode_of_le (hle b2 (by simp))
    obtain ⟨t3, h3, c3⟩ := ofCode_of_le (hle b3 (by simp))
    obtain ⟨t4, h4, c4⟩ := ofCode_of_le (hle b4 (by simp))
    obtain ⟨t5, h5, c5⟩ := ofCode_of_le (hle b5 (by simp))
    obtain ⟨t6, h6, c6⟩ := ofCode_of_le (hle b6 (by simp))
    have hb : setDayMap [b0, b1, b2, b3, b4, b5, b6] s = taken { s with dayMap := #v[t0, t1, t2, t3, t4, t5, t6] } [.recompute] := by
      simp only [setDayMap, h0, h1, h2, h3, h4, h5, h6]
    obtain ⟨t, ht, hr⟩ := runCommand_recomputes hc.loads hp hb rfl rfl rfl rfl rfl rfl rfl
    obtain ⟨-, -, -, hmap, hover, hyes, -⟩ := frozen_field hr.frozen
    refine ⟨_, congrArg Host.Outcome.next ht, rfl, rfl, fun d b hd => ?_, hover, hyes, hr.plans, hr.authority, hr.due⟩
    show (t.dayMap[d]).code = _
    simp only [Fin.getElem_fin, hmap]
    fin_cases d <;> simp at hd ⊢ <;> subst hd <;> assumption

theorem overrideToday_settles {b : Byte} (hc : Canonical s) (hs : s.Sent 0x33 [b]) :
    (2 < b.toNat → b ≠ 255 → exec .overrideToday s = .next (s.respond .badValue []))
    ∧ (b.toNat ≤ 2 ∨ b = 255 → s.clock = none → exec .overrideToday s = .next (s.respond .wrongState []))
    ∧ (b.toNat ≤ 2 ∨ b = 255 → s.clock ≠ none →
      ∃ t, exec .overrideToday s = .next t ∧ t.answer = some { code := .done, data := [] } ∧ t.executing = none
        ∧ t.todayOverride = (if b = 0 then some .work else if b = 1 then some .short else if b = 2 then some .rest else none)
        ∧ t.plans = s.plans ∧ t.authority = t.computedAuthority ∧ s.DueJudged t) := by
  have hp := hs.commandParams rfl (by simp)
  have good : b.toNat ≤ 2 ∨ b = 255 → ¬ (2 < b.toNat ∧ absent b = false) := fun h ⟨h1, h2⟩ => by
    rcases h with h | rfl
    · omega
    · simp [absent] at h2
  refine ⟨fun h1 h2 => ?_, fun h hclk => ?_, fun h hclk => ?_⟩
  · refine congrArg Host.Outcome.next (runCommand_refused hp hc ?_)
    have habs : absent b = false := by
      unfold absent
      exact beq_eq_false_iff_ne.mpr h2
    simp only [overrideToday, h1, habs, and_self, if_true]
  · refine congrArg Host.Outcome.next (runCommand_refused hp hc ?_)
    simp only [overrideToday, if_neg (good h), hclk, if_true]
  · have hb : overrideToday [b] s = taken { s with todayOverride := DayType.ofCode b.toNat } [.recompute] := by
      simp only [overrideToday, if_neg (good h), if_neg hclk]
    obtain ⟨t, ht, hr⟩ := runCommand_recomputes hc.loads hp hb rfl rfl rfl rfl rfl rfl rfl
    obtain ⟨-, -, -, -, hover, -⟩ := frozen_field hr.frozen
    refine ⟨_, congrArg Host.Outcome.next ht, rfl, rfl, hover.trans ?_, hr.plans, hr.authority, hr.due⟩
    show DayType.ofCode b.toNat = _
    rcases h with h | rfl
    · have h3 : b = 0 ∨ b = 1 ∨ b = 2 := by bv_omega
      rcases h3 with rfl | rfl | rfl <;> rfl
    · rfl

theorem setWindow_settles {ty w sh sl eh el a : Byte} (hc : Canonical s) (hs : s.Sent 0x34 [ty, w, sh, sl, eh, el, a]) :
    (2 < ty.toNat ∨ 5 < w.toNat ∨ 3 < a.toNat → exec .setWindow s = .next (s.respond .badValue []))
    ∧ ∀ T : DayType, T.code = ty.toNat → w.toNat ≤ 5 → a.toNat ≤ 3 →
      ∃ t, exec .setWindow s = .next t ∧ t.answer = some { code := .done, data := [] } ∧ t.executing = none
        ∧ (∀ U v, v < 6 → t.window U v =
            if U = T ∧ v = w.toNat then
              { start := min 1439 (sh.toNat * 256 + sl.toNat), stop := min 1439 (eh.toNat * 256 + el.toNat)
                authority := a.toNat }
            else s.window U v)
        ∧ t.authority = t.computedAuthority ∧ s.DueJudged t := by
  have hp := hs.commandParams rfl (by simp)
  constructor
  · intro hbad
    refine congrArg Host.Outcome.next (runCommand_refused hp hc ?_)
    unfold setWindow
    dsimp only
    split
    · rfl
    · rename_i T hT
      have := le_of_ofCode hT
      rw [if_pos (by omega)]
  · intro T hT hw ha
    have hcode : DayType.ofCode ty.toNat = some T := hT ▸ ofCode_code T
    have hb : setWindow [ty, w, sh, sl, eh, el, a] s = taken { s with
        windows := s.windows.set (windowIndex T w.toNat)
          { start := clamp 0 1439 (word16 sh sl), stop := clamp 0 1439 (word16 eh el), authority := a.toNat } } [.recompute] := by
      dsimp only [setWindow]
      rw [hcode]
      exact if_neg (by omega)
    obtain ⟨t, ht, hr⟩ := runCommand_recomputes hc.loads hp hb rfl rfl rfl rfl rfl rfl rfl
    obtain ⟨-, -, -, -, -, -, hwin, -⟩ := frozen_field hr.frozen
    refine ⟨_, congrArg Host.Outcome.next ht, rfl, rfl, fun U v hv => ?_, hr.authority, hr.due⟩
    show t.windows[windowIndex U v] = _
    have hindex : (windowIndex T w.toNat : Fin 18) = windowIndex U v ↔ U = T ∧ v = w.toNat := by
      simp only [windowIndex, Fin.ext_iff, Fin.val_ofNat]
      cases T <;> cases U <;> simp [DayType.code] <;> omega
    rw [Fin.getElem_fin, hwin]
    rw [Vector.getElem_set]
    simp only [Fin.val_inj, hindex, clamp, Nat.zero_max, word16, State.window, Fin.getElem_fin]

theorem guardEnd_settles {p : Nat} {x : WakePlan} (hc : Canonical s) (hx : s.plan p = some x) :
    ((∀ e, x.guardEnd = some e → s.timeBase < e) → exec (.guardEnd p) s = .next s)
    ∧ ∀ e, x.guardEnd = some e → e ≤ s.timeBase →
      ∃ t, exec (.guardEnd p) s = .next t ∧ t.plan p = some { x with guardEnd := none } ∧ (∀ q, q ≠ p → t.plan q = s.plan q)
        ∧ t.authority = t.computedAuthority ∧ s.DueJudged t := by
  refine ⟨fun hno => ?_, fun e he hle => ?_⟩
  · cases hg : x.guardEnd with
    | none => simp only [exec, execGuardEnd, hx, hg]
    | some e =>
      have hlt : ¬ e ≤ s.timeBase := Nat.not_le.mpr (hno e hg)
      simp only [exec, execGuardEnd, hx, hg, if_neg hlt]
  · have hr := settle_recomputed (s1 := s.setPlan p { x with guardEnd := none }) hc.loads rfl rfl rfl rfl rfl rfl rfl
    have hplan : ∀ q, (s.settle (s.setPlan p { x with guardEnd := none }) [.recompute]).plan q
        = if q = p then some { x with guardEnd := none } else s.plan q := fun q => by
      rw [← plan_setPlan]
      unfold State.plan
      rw [hr.plans]
    refine ⟨_, by simp only [exec, execGuardEnd, hx, he, if_pos hle]; rfl, by simp [hplan], fun q hq => by simp [hplan, hq], hr.authority, hr.due⟩

/-- Settles O36: each setting is a change of the clock's side alone, with the recomputation it calls for (`settle_recomputed`). -/
theorem settingsRecomputeAuthority : Obligations.SettingsRecomputeAuthority := by
  unfold Obligations.SettingsRecomputeAuthority
  exact ⟨fun s p hc hlen hs => setDayMap_settles hc hlen hs, fun s b hc hs => overrideToday_settles hc hs,
    fun s ty w sh sl eh el a hc hs => setWindow_settles hc hs, fun s p x hc hx => guardEnd_settles hc hx⟩

end Sys2Proof.Machine
end

section
/-! SUPPORT. A record whose evaluation stays what it is through the hand-offs of a step (`Calm`), and STOP LOAD (R56 to R58, R70). -/

namespace Sys2Proof.Machine

variable {s t u v : State} {n m g : Nat} {r r0 r' r1 : LoadRecord} {w : Work} {π : BlockReason} {now : Nat}

/-! ### Stop permission by what it reads -/

theorem permission_congr (ha : t.authority = s.authority) (hk : t.keepRunLevels n = s.keepRunLevels n) (ht : t.timeBase = s.timeBase)
    (hs : t.spared r = s.spared r) (ho : t.otherStopping n r = s.otherStopping n r) : t.permission n r = s.permission n r := by
  unfold State.permission State.effectiveAuthority
  rw [ha, hk, ht, hs, ho]

theorem permission_of_view (ha : t.authority = s.authority) (hk : t.keepRunLevels n = s.keepRunLevels n) (ht : t.timeBase = s.timeBase)
    (hv : ∀ g, t.groupView g = s.groupView g) : t.permission n r = s.permission n r := by
  refine permission_congr ha hk ht ?_ ?_
  · unfold State.spared
    cases r.provides with
    | none => rfl
    | some p =>
      obtain ⟨hcap, hreq, -⟩ := figures_of_view (hv p.group)
      simp only [hcap, hreq]
  · unfold State.otherStopping
    cases r.provides with
    | none => rfl
    | some p =>
      have hp : t.providersByLoad p.group = s.providersByLoad p.group := congrArg GroupView.providers (hv p.group)
      simp only [hp]

/-! ### An evaluation that nothing in its step changes -/

/-- The record after one evaluation with outcome `π`. -/
def LoadRecord.evaluatedAs (r : LoadRecord) (π : BlockReason) (now : Nat) : LoadRecord :=
  if π = .none then r.entering .stopping now else { r with blockReason := π }

/-- Through the hand-offs `allowed`, which are all that a state of `C` calls for, the evaluation of the DUE record `r1` of load `n` has the
outcome `π`. -/
structure Calm (n : Nat) (r1 : LoadRecord) (π : BlockReason) (now : Nat) (allowed : Work → Prop) (C : State → Prop) : Prop where
  due : r1.state = .due
  plain : ∀ w, allowed w → w.plain
  own : ∀ m, allowed (.evaluate m) → m = n
  choice : ∀ s k, C s → C { s with choices := k }
  canonical : ∀ s, C s → Table.Canonical 240 s.loads
  timeBase : ∀ s, C s → s.timeBase = now
  permission : ∀ s, C s → s.permission n r1 = π
  blocked : ∀ s c, C s → s.load n = some { r1 with blockReason := c } → π ≠ .none → C (s.evaluate n)
  keep : ∀ w s, allowed w → w ≠ .evaluate n → C s → C (w.run s).1 ∧ ∀ y ∈ handoffs s (w.run s).1, allowed y

/-- Load `n` is DUE and waits for its evaluation, or may be evaluated again. -/
def Awaits (C : State → Prop) (n : Nat) (r1 : LoadRecord) (s : State) : Prop := C s ∧ ∃ c, s.load n = some { r1 with blockReason := c }

/-- Load `n` has been evaluated with the outcome `π`: it has entered STOPPING, or carries its reason. -/
def Resolved (C : State → Prop) (n : Nat) (r1 : LoadRecord) (π : BlockReason) (now : Nat) (s : State) : Prop :=
  s.load n = some (r1.evaluatedAs π now) ∧ (π ≠ .none → C s)

/-- What may wait: anything plain once the load has entered STOPPING. -/
def MayWait (allowed : Work → Prop) (n : Nat) (s : State) (w : Work) : Prop := w.plain ∧ (allowed w ∨ s.stateOf n = some .stopping)

variable {allowed : Work → Prop} {C : State → Prop}

theorem Calm.awaits_due (h : Calm n r1 π now allowed C) (hs : Awaits C n r1 s) : s.stateOf n = some .due := by
  obtain ⟨-, c, hl⟩ := hs
  exact stateOf_eq.mpr ⟨_, hl, h.due⟩

theorem Resolved.stopping (hs : Resolved C n r1 π now s) (h : π = .none) : s.stateOf n = some .stopping := by
  refine stateOf_eq.mpr ⟨_, hs.1, ?_⟩
  unfold LoadRecord.evaluatedAs
  rw [if_pos h]
  rfl

theorem Resolved.awaits (hs : Resolved C n r1 π now s) (h : π ≠ .none) : Awaits C n r1 s := by
  refine ⟨hs.2 h, π, ?_⟩
  have hl := hs.1
  unfold LoadRecord.evaluatedAs at hl
  rwa [if_neg h] at hl

/-- No hand-off acts on a record in STOPPING. -/
theorem run_stopping (hw : w.plain) (hs : s.stateOf n = some .stopping) : (w.run s).1.load n = s.load n :=
  run_load_still hw (.inr (by simp [hs])) (by simp [hs]) (by simp [hs])

/-- One evaluation, which with a reason calls for nothing. -/
theorem Calm.turn (h : Calm n r1 π now allowed C) (hs : Awaits C n r1 s) :
    Resolved C n r1 π now (s.evaluate n) ∧ (π ≠ .none → handoffs s (s.evaluate n) = []) := by
  obtain ⟨hC, c, hl⟩ := hs
  have hperm : s.permission n { r1 with blockReason := c } = π := h.permission s hC
  have hev := evaluate_of_due hl h.due
  rw [hperm] at hev
  by_cases hp : π = .none
  · rw [hev, if_pos hp]
    refine ⟨⟨?_, fun h => absurd hp h⟩, fun h => absurd hp h⟩
    rw [moveTo_load_self hl]
    unfold LoadRecord.evaluatedAs
    rw [if_pos hp, ← h.timeBase s hC]
    exact congrArg some ((entering_stopping _ _).trans (entering_stopping r1 s.timeBase).symm)
  · have hC' := h.blocked s c hC hl hp
    rw [hev, if_neg hp] at hC' ⊢
    refine ⟨⟨?_, fun _ => hC'⟩, fun _ => handoffs_setLoad (h.canonical s hC) hl rfl rfl rfl rfl rfl rfl⟩
    unfold LoadRecord.evaluatedAs
    rw [if_neg hp]
    simp

theorem Calm.keepAwaits (h : Calm n r1 π now allowed C) (hw : allowed w) (hne : w ≠ .evaluate n) (hs : Awaits C n r1 s) :
    Awaits C n r1 (w.run s).1 := by
  have hd := h.awaits_due hs
  obtain ⟨hC, c, hl⟩ := hs
  refine ⟨(h.keep w s hw hne hC).1, c, (run_load_still (h.plain w hw) (.inl hne) ?_ ?_).trans hl⟩ <;> simp [hd]

theorem Calm.keepResolved (h : Calm n r1 π now allowed C) (hw : MayWait allowed n s w) (hs : Resolved C n r1 π now s) :
    Resolved C n r1 π now (w.run s).1 := by
  by_cases hp : π = .none
  · have hst := hs.stopping hp
    exact ⟨(run_stopping hw.1 hst).trans hs.1, fun h => absurd hp h⟩
  · have ha := hs.awaits hp
    have hw' := hw.2.resolve_right (by simp [h.awaits_due ha])
    by_cases hne : w = .evaluate n
    · subst hne
      exact (h.turn ha).1
    · have hl := (run_load_still hw.1 (.inl hne) (by simp [h.awaits_due ha]) (by simp [h.awaits_due ha])).trans hs.1
      exact ⟨hl, fun _ => (h.keep w s hw' hne ha.1).1⟩

theorem Calm.takes (h : Calm n r1 π now allowed C) :
    TakesAmong (.evaluate n) (MayWait allowed n) (Awaits C n r1) (Resolved C n r1 π now) where
  choiceW _ k hs := ⟨h.choice _ k hs.1, hs.2⟩
  choiceD _ k hs := ⟨hs.1, fun hp => h.choice _ k (hs.2 hp)⟩
  choiceOk _ _ _ hw := hw
  plain _ _ hw := hw.1
  next w s y hw hs hy := by
    refine ⟨hy.elim And.left (handoffs_plain _ _ y), ?_⟩
    by_cases hst : s.stateOf n = some .stopping
    · right
      have := run_stopping hw.1 hst
      unfold State.stateOf at hst ⊢
      rwa [this]
    · have hallowed := hw.2.resolve_right hst
      have hA : Awaits C n r1 s := hs.elim (fun hD => hD.awaits (fun hp => hst (hD.stopping hp))) id
      by_cases hne : w = .evaluate n
      · subst hne
        by_cases hp : π = .none
        · exact .inr ((h.turn hA).1.stopping hp)
        · refine .inl (hy.elim (fun hy => hy.2.resolve_right hst) (fun hy => ?_))
          have : y ∈ handoffs s (s.evaluate n) := hy
          rw [(h.turn hA).2 hp] at this
          simp at this
      · exact .inl (hy.elim (fun hy => hy.2.resolve_right hst) ((h.keep w s hallowed hne hA.1).2 y))
  keepW w s hw hne hs := h.keepAwaits (hw.2.resolve_right (by simp [h.awaits_due hs])) hne hs
  turn s hs := (h.turn hs).1
  keepD w s hw hs := h.keepResolved hw hs
  waits s hs := by simp [Work.idle, h.awaits_due hs]

/-- Such a step leaves the record evaluated with the outcome `π`. -/
theorem Calm.settle (h : Calm n r1 π now allowed C) {s0 : State} {work : List Work} {c : BlockReason} (hC : C s)
    (hl : s.load n = some { r1 with blockReason := c }) (hw : ∀ w ∈ work ++ handoffs s0 s, allowed w) (hm : .evaluate n ∈ work ++ handoffs s0 s) :
    (s0.settle s work).load n = some (r1.evaluatedAs π now) :=
  (h.takes.settle (fun w hx => ⟨h.plain w (hw w hx), .inl (hw w hx)⟩) ⟨hC, c, hl⟩ hm).1

/-! ### STOP LOAD -/

theorem put_put {α : Type} (t : Table α) (n : Nat) (a b : α) : Table.put (Table.put t n a) n b = Table.put t n b := by
  induction t with
  | nil => simp [Table.put]
  | cons e rest ih =>
    obtain ⟨k, x⟩ := e
    by_cases h1 : n < k
    · simp [Table.put, h1]
    · by_cases h2 : n = k
      · simp [Table.put, h2]
      · simp [Table.put, h1, h2, ih]


/-- The record that takes the request of a STOP LOAD: DUE, with its idle clock kept (R57, R70). -/
def LoadRecord.requested (r : LoadRecord) (a : Nat) : LoadRecord :=
  { r with
    state := .due
    commanded := if r.state = .due then r.commanded else .run
    portStop := some a
    verifyEnd := if r.state = .due then r.verifyEnd else none }

theorem stopLoad_live {b a : Byte} (h : b.toNat ≤ 239) (h0 : a ≠ 0) (h3 : a.toNat ≤ 3) (hl : s.load b.toNat = some r) :
    stopLoad [b, a] s = stopLoadBody b.toNat a.toNat r s := by
  have hb : badLoad b = false := (badLoad_eq_false b).mpr h
  have ha : (a == 0) = false := beq_eq_false_iff_ne.mpr h0
  have hd : decide (3 < a.toNat) = false := decide_eq_false (by omega)
  simp only [stopLoad, hb, ha, hd, Bool.or_self, Bool.false_eq_true, if_false, hl]

/-- The state with the request taken, from RUN or IDLE. -/
def State.requestStop (s : State) (n a : Nat) (r : LoadRecord) : State := (s.setLoad n { r with portStop := some a }).moveTo n .due none

theorem requested_load (hs : r.state = .run ∨ r.state = .idle) (a : Nat) :
    (s.requestStop n a r).load n = some { r.requested a with blockReason := .none } := by
  unfold State.requestStop
  rw [moveTo_load_self (r := { r with portStop := some a }) (by simp)]
  refine congrArg some ((entering_due _ _).trans ?_)
  rcases hs with hs | hs <;> simp [LoadRecord.requested, hs]

/-- In RUN and IDLE a record supplies and draws as it does in DUE (R107, R108): the request changes the figures of no group, and hands
nothing on but its own evaluation and what its groups' views call for. -/
theorem requested_quiet (hc : Table.Canonical 240 s.loads) (hl : s.load n = some r) (hs : r.state = .run ∨ r.state = .idle) (a : Nat) :
    Quiet (s.setLoad n (r.requested a)) (s.requestStop n a r) := by
  have hu : Table.Canonical 240 (s.setLoad n { r with portStop := some a }).loads :=
    Table.canonical_put hc (Table.lt_of_find hc hl) _
  have hload := requested_load (s := s) (n := n) hs a
  have hother : ∀ m, m ≠ n → (s.requestStop n a r).load m = s.load m := fun m hm => by
    rw [State.requestStop, moveTo_load_ne hm]; simp [hm]
  have hset := moveTo_settled (s.setLoad n { r with portStop := some a }) n .due none
  refine ⟨?_, hset.1, hset.2, fun _ => moveTo_canonical hu, fun _ m rm hm => ?_, fun m hm => ?_, fun k hk => moveTo_marks _ n .due none hk,
    fun g => (moveTo_margin _ n .due none g).trans rfl, fun f e hf => ?_⟩
  · exact frozen_moveTo (s.setLoad n { r with portStop := some a }) n .due none
  · by_cases h : m = n
    · subst h
      obtain rfl : r.requested a = rm := by simpa using hm
      exact ⟨_, hload, .inr (.inl ⟨rfl, .inl ⟨_, rfl⟩⟩)⟩
    · exact ⟨rm, (hother m h).trans (by simpa [h] using hm), .inl rfl⟩
  · by_cases h : m = n
    · subst h; simp at hm
    · exact (hother m h).trans (by simpa [h] using hm)
  · have h1 : r.state ≠ .starting := by rcases hs with hs | hs <;> simp [hs]
    rw [State.requestStop, moveTo_feeders (r := { r with portStop := some a }) (by simp) f (.inl h1) (.inl (by simp))]
    exact hf

theorem requested_view (hc : Table.Canonical 240 s.loads) (hl : s.load n = some r) (a g : Nat) :
    (s.requestStop n a r).groupView g = (s.setLoad n (r.requested a)).groupView g := by
  have hu : Table.Canonical 240 (s.setLoad n (r.requested a)).loads := Table.canonical_put hc (Table.lt_of_find hc hl) _
  have hlu : (s.setLoad n (r.requested a)).load n = some (r.requested a) := by simp
  rw [State.requestStop, ← groupView_moveTo (r := { r with portStop := some a }) (by simp) (by simp)]
  rw [← groupView_setLoad (r' := { r with portStop := some a, state := .due }) hu hlu rfl rfl rfl rfl rfl g]
  have hloads : ((s.setLoad n { r with portStop := some a }).setLoad n { r with portStop := some a, state := .due }).loads
      = ((s.setLoad n (r.requested a)).setLoad n { r with portStop := some a, state := .due }).loads := by
    simp only [State.setLoad, put_put]
  simp only [State.groupView, State.providersByLoad, State.consumers, hloads]
  rfl

/-- A record that counts as much in every group leaves the figures of the groups, and their lack of supply if it is QUEUED neither before
nor after. -/
theorem setLoad_figures (hc : Table.Canonical 240 s.loads) (hl : s.load n = some r) (hd : ∀ g, r'.demandOf g = r.demandOf g)
    (hk : ∀ g, r'.capacityOf g = r.capacityOf g) (h1 : r.state ≠ .queued) (h2 : r'.state ≠ .queued) (g : Nat) :
    (s.setLoad n r').headroom g = s.headroom g ∧ (s.setLoad n r').lacks g = s.lacks g := by
  have hcap : (s.setLoad n r').capacity g = s.capacity g := by
    have := sum_put hc hl (fun e => e.2.capacityOf g) r'
    rw [capacity_eq_sum, capacity_eq_sum]
    simp only [hk] at this
    exact Nat.add_right_cancel this
  have hdem : (s.setLoad n r').demand g = s.demand g := by
    have := sum_put hc hl (fun e => e.2.demandOf g) r'
    rw [demand_eq_sum, demand_eq_sum]
    simp only [hd] at this
    exact Nat.add_right_cancel this
  have hreq : (s.setLoad n r').required g = s.required g := by
    unfold State.required
    rw [hdem]
    rfl
  have hasked : (s.setLoad n r').Asked g ↔ s.Asked g := by
    refine exists_congr (fun m => exists_congr (fun rm => and_congr_left (fun hm => ?_)))
    by_cases h : m = n
    · subst h
      refine ⟨fun hx => ?_, fun hx => ?_⟩
      · obtain rfl : r' = rm := by simpa using hx
        exact absurd hm.1 h2
      · obtain rfl := Option.some.inj (hl.symm.trans hx)
        exact absurd hm.1 h1
    · simp [h]
  refine ⟨by simp only [State.headroom, hcap, hreq], ?_⟩
  rw [Bool.eq_iff_iff, lacks_iff (Table.canonical_put hc (Table.lt_of_find hc hl) r'), lacks_iff hc, hcap, hreq, hasked]

theorem keepOff_congr (hh : t.holds = s.holds) (hb : (t.load n).map (·.isolatorHold) = (s.load n).map (·.isolatorHold)) :
    t.keepOff n = s.keepOff n := by
  unfold State.keepOff State.holdsOn
  rw [hh]
  cases ht : t.load n <;> cases hs : s.load n <;> simp_all

/-! ### What the request calls for -/

/-- Where the queue, the feeders and the authority stay, a change is handed to the records that have entered DUE, to the groups whose view
has changed, and by the KEEP-OFF holds that have left (R57, R84, R110). -/
theorem mem_handoffs_of_views (ha : t.authority = s.authority) (hq : t.queue = s.queue) (hf : t.feeders = s.feeders)
    (hs : ∀ e ∈ s.loads, e.2.state = .starting → t.stateOf e.1 = some .starting) (hw : w ∈ handoffs s t) :
    (∃ e ∈ t.loads, w = .evaluate e.1 ∧ e.2.state = .due ∧ s.stateOf e.1 ≠ some .due) ∨ (∃ g, w ∈ groupHandoffs s t g)
      ∨ w ∈ barHandoffs s t := by
  have hdep : departed s t = [] := by
    simp only [departed, List.filter_eq_nil_iff, Bool.not_eq_true', Bool.not_eq_false]
    exact fun e he => hasEntry_of_mem (s := t) (hq ▸ he)
  have hex : examinationDue s t = false := by
    unfold examinationDue
    rw [hdep]
    simp only [List.any_nil, Bool.or_false, Bool.or_eq_false_iff, List.any_eq_false]
    refine ⟨⟨fun e he => by simp [hasEntry_of_mem (s := s) (hq ▸ he)], by simp [feederFreed, hf]⟩, fun e he => ?_⟩
    simp only [Bool.and_eq_true, beq_iff_eq, bne_iff_ne, not_and, not_not]
    exact hs e he
  simp only [handoffs, removalHandoffs, hdep, hex, List.isEmpty_nil, if_true, Bool.false_eq_true, if_false, List.append_nil,
    List.mem_append, List.mem_flatMap] at hw
  rcases hw with (hw | ⟨g, -, hw⟩) | hw
  · simp only [dueHandoffs, ha, bne_self_eq_false, Bool.false_or, List.mem_map, List.mem_filter, Bool.and_eq_true, beq_iff_eq, bne_iff_ne] at hw
    obtain ⟨e, ⟨he, hd, hne⟩, rfl⟩ := hw
    exact .inl ⟨e, he, rfl, hd, hne⟩
  · exact .inr (.inl ⟨g, hw⟩)
  · exact .inr (.inr hw)

/-- Only a KEEP-OFF hold that has left hands on for it (R84). -/
theorem barHandoffs_nil (h : ∀ e ∈ t.loads, s.keepOff e.1 = true → t.keepOff e.1 = true) : barHandoffs s t = [] := by
  simp only [barHandoffs, List.flatMap_eq_nil_iff, List.mem_filter, Bool.and_eq_true, Bool.not_eq_true']
  rintro e ⟨he, h1, h2⟩
  rw [h e he h1] at h2
  simp at h2

/-- A KEEP-OFF hold that has left is handed to the test of a group and to an examination (R84). -/
theorem mem_barHandoffs (hw : w ∈ barHandoffs s t) : (∃ g, w = .testGroup g) ∨ w = .examine := by
  simp only [barHandoffs, List.mem_flatMap, List.mem_append, Option.mem_toList, Option.map_eq_some_iff, List.mem_singleton] at hw
  obtain ⟨e, -, ⟨p, -, rfl⟩ | rfl⟩ := hw
  · exact .inl ⟨_, rfl⟩
  · exact .inr rfl

/-- A group whose view has changed with no growth of its headroom is handed to its DUE providers and to its test (R110). -/
theorem mem_groupHandoffs (hh : t.headroom g ≤ s.headroom g) (hw : w ∈ groupHandoffs s t g) :
    w = .testGroup g ∨ ∃ p ∈ t.providersByLoad g, p.state = .due ∧ w = .evaluate p.load := by
  unfold groupHandoffs at hw
  rw [if_neg (not_lt.mpr hh)] at hw
  split at hw
  · simp at hw
  · simp only [List.append_nil, List.mem_append, List.mem_map, List.mem_filter, beq_iff_eq, List.mem_singleton] at hw
    rcases hw with ⟨p, ⟨hp, hd⟩, rfl⟩ | rfl
    · exact .inr ⟨p, hp, hd, rfl⟩
    · exact .inl rfl

/-- In RUN and IDLE a record counts in every group as it does in DUE (R107, R108). -/
theorem requested_figures (hc : Table.Canonical 240 s.loads) (hl : s.load n = some r) (hs : r.state = .run ∨ r.state = .idle) (a g : Nat) :
    (s.requestStop n a r).headroom g = s.headroom g ∧ (s.requestStop n a r).lacks g = s.lacks g := by
  obtain ⟨h1, h2, h3⟩ := figures_of_view (requested_view hc hl a g)
  obtain ⟨h4, h5⟩ := setLoad_figures (r' := r.requested a) hc hl
    (fun g => by rcases hs with hs | hs <;> simp [LoadRecord.requested, LoadRecord.demandOf, LoadRecord.draws, LoadRecord.demandOn, hs])
    (fun g => by rcases hs with hs | hs <;> simp [LoadRecord.requested, LoadRecord.capacityOf, LoadRecord.supplies, LoadRecord.providesTo, hs])
    (by rcases hs with hs | hs <;> simp [hs]) (by simp [LoadRecord.requested]) g
  refine ⟨?_, h3.trans h5⟩
  unfold State.headroom
  rw [h1, h2]
  exact h4

/-- R57, R70, R110: the request from RUN or IDLE calls for the evaluation of its load, of other DUE providers, and for tests. -/
theorem requested_handoffs (hc : Table.Canonical 240 s.loads) (hl : s.load n = some r) (hs : r.state = .run ∨ r.state = .idle) (a : Nat)
    (hw : w ∈ handoffs s (s.requestStop n a r)) :
    w = .evaluate n ∨ (∃ g, w = .testGroup g)
      ∨ ∃ m rm, m ≠ n ∧ w = .evaluate m ∧ s.load m = some rm ∧ rm.state = .due ∧ rm.provides ≠ none := by
  have hx : (s.setLoad n { r with portStop := some a }).load n = some { r with portStop := some a } := by simp
  have hcv : Table.Canonical 240 (s.requestStop n a r).loads := moveTo_canonical (s := s.setLoad n { r with portStop := some a }) (n := n) (new := .due) (out := none)
    (Table.canonical_put hc (Table.lt_of_find hc hl) { r with portStop := some a })
  have hload : ∀ m, (s.requestStop n a r).load m
      = if m = n then some { r.requested a with blockReason := .none } else s.load m := fun m => by
    split
    · rename_i h; subst h; exact requested_load hs a
    · rename_i h; rw [State.requestStop, moveTo_load_ne h]; simp [h]
  have hq : (s.requestStop n a r).queue = s.queue := by
    rw [State.requestStop, moveTo_queue hx]; rcases hs with hs | hs <;> simp [hs]
  have hne : r.state ≠ .starting := by rcases hs with hs | hs <;> simp [hs]
  have ha : (s.requestStop n a r).authority = s.authority := (moveTo_settled (s.setLoad n { r with portStop := some a }) n .due none).2
  have hfeed : (s.requestStop n a r).feeders = s.feeders :=
    Vector.ext (fun i hi => moveTo_feeders hx ⟨i, hi⟩ (.inl hne) (.inl (by simp)))
  have hstart : ∀ e ∈ s.loads, e.2.state = .starting → (s.requestStop n a r).stateOf e.1 = some .starting := fun e he hst => by
    have hfe : s.load e.1 = some e.2 := Table.find_of_mem hc he
    have h : e.1 ≠ n := fun h => by
      rw [h, hl, Option.some.injEq] at hfe
      exact hne (hfe ▸ hst)
    exact stateOf_eq.mpr ⟨e.2, by rw [hload, if_neg h, hfe], hst⟩
  have hkeep : ∀ e ∈ (s.requestStop n a r).loads, s.keepOff e.1 = true → (s.requestStop n a r).keepOff e.1 = true := fun e he hk => by
    rw [← hk]
    refine keepOff_congr (moveTo_holds (s := s.setLoad n { r with portStop := some a })) ?_
    rw [hload]
    split
    · rename_i h; rw [h, hl]; rfl
    · rfl
  rcases mem_handoffs_of_views ha hq hfeed hstart hw with ⟨e, he, rfl, hd, hnew⟩ | ⟨g, hw⟩ | hw
  · have hfe := Table.find_of_mem hcv he
    by_cases h : e.1 = n
    · exact .inl (by rw [h])
    · have : s.load e.1 = some e.2 := by rw [← hfe]; exact ((hload e.1).trans (if_neg h)).symm
      exact absurd (stateOf_eq.mpr ⟨_, this, hd⟩) hnew
  · rcases mem_groupHandoffs (requested_figures hc hl hs a g).1.le hw with rfl | ⟨p, hp, hd, rfl⟩
    · exact .inr (.inl ⟨g, rfl⟩)
    · obtain ⟨rm, q, hlm, hpr, -, -, -, hst⟩ := provider_record hcv hp
      by_cases h : p.load = n
      · exact .inl (by rw [h])
      · rw [hload, if_neg h] at hlm
        exact .inr (.inr ⟨p.load, rm, h, rfl, hlm, hst ▸ hd, by simp [hpr]⟩)
  · rw [barHandoffs_nil hkeep] at hw
    simp at hw

/-! ### An evaluation beside the tests of groups that act on nothing -/

/-- No group would act on a lack of supply: each lacks none, or is RAISING (R114 to R116). The groups are judged as in `u`. -/
structure GroupsRest (u v : State) : Prop where
  quiet : Quiet u v
  view : ∀ g, v.groupView g = u.groupView g
  rest : ∀ g x, v.group g = some x → v.lacks g = false ∨ ∃ p, x.state = .raising p

/-- In such a state a test clears what it remembers at most, and calls for nothing. -/
theorem GroupsRest.testGroup (h : GroupsRest u s) (hc : Table.Canonical 240 u.loads) (g : Nat) :
    GroupsRest u (s.testGroup g) ∧ handoffs s (s.testGroup g) = [] := by
  have hcs := h.quiet.canonical hc
  have htest : s.testGroup g = s ∨ (s.lacks g = false ∧ s.testGroup g = s.modifyGroup g (fun y => { y with state := .normal, failed := [] })) := by
    cases hx : s.group g with
    | none => exact .inl (by simp [State.testGroup, hx])
    | some x =>
      by_cases hr : ∃ p, x.state = .raising p
      · obtain ⟨p, hp⟩ := hr
        exact .inl (by simp [State.testGroup, hx, hp])
      · have hlack := (h.rest g x hx).resolve_right hr
        refine .inr ⟨hlack, ?_⟩
        unfold State.testGroup
        rw [hx]
        dsimp only
        split
        · rename_i p hp; exact absurd ⟨p, hp⟩ hr
        all_goals rw [if_neg (by simp [hlack])]
  rcases htest with e | ⟨hlack, e⟩ <;> rw [e]
  · exact ⟨h, handoffs_self hcs⟩
  · have hview := groupView_modifyGroup s g (fun y => { y with state := .normal, failed := [] }) (fun _ => rfl)
    have hload := modifyGroup_load s g (fun y => { y with state := .normal, failed := [] })
    have hq := h.quiet.modifyGroup g (fun y => { y with state := .normal, failed := [] }) (fun _ => rfl)
    generalize hv : s.modifyGroup g (fun y => { y with state := .normal, failed := [] }) = v at hview hload hq
    have hsame : v.authority = s.authority ∧ v.queue = s.queue ∧ v.feeders = s.feeders ∧ v.holds = s.holds := by
      subst hv
      unfold State.modifyGroup
      split <;> exact ⟨rfl, rfl, rfl, rfl⟩
    obtain ⟨ha, hqueue, hf, hh⟩ := hsame
    have hst : ∀ m, v.stateOf m = s.stateOf m := fun m => by unfold State.stateOf; rw [hload]
    refine ⟨⟨hq, fun k => (hview k).trans (h.view k), fun k x hx => ?_⟩, ?_⟩
    · rw [(figures_of_view (hview k)).2.2]
      by_cases hk : k = g
      · exact .inl (hk ▸ hlack)
      · rw [← hv, modifyGroup_group, if_neg hk] at hx
        exact h.rest k x hx
    · exact handoffs_nil hcs (hq.canonical hc) ha hview (fun m => by unfold State.hasEntry; rw [hqueue]) hf
        (fun m hm => (hst m).symm.trans hm) (fun m hm => (hst m).trans hm)
        (fun m hm _ => (keepOff_congr hh (congrArg _ (hload m))).trans hm)

theorem groupsRest_calm (hc : Table.Canonical 240 u.loads) (hd : r1.state = .due) :
    Calm n r1 (u.permission n r1) u.timeBase (fun w => w = .evaluate n ∨ ∃ g, w = .testGroup g) (GroupsRest u) where
  due := hd
  plain w hw := by rcases hw with rfl | ⟨g, rfl⟩ <;> trivial
  own m hm := by rcases hm with hm | ⟨g, hm⟩ <;> simp at hm; exact hm
  choice s k h := ⟨h.quiet.of_same rfl rfl rfl rfl rfl (fun _ => rfl) rfl, h.view, h.rest⟩
  canonical s h := h.quiet.canonical hc
  timeBase s h := h.quiet.timeBase
  permission s h := permission_of_view h.quiet.authority (h.quiet.keepRunLevels hc n) h.quiet.timeBase h.view
  blocked s c h hl hp := by
    have hq := h.quiet.evaluate n
    have hperm : s.permission n { r1 with blockReason := c } = u.permission n r1 :=
      permission_of_view h.quiet.authority (h.quiet.keepRunLevels hc n) h.quiet.timeBase h.view
    have hev := evaluate_of_due hl hd
    rw [hperm, if_neg hp] at hev
    rw [hev] at hq ⊢
    have hview := groupView_setLoad (r' := { r1 with blockReason := u.permission n r1 }) (h.quiet.canonical hc) hl rfl rfl rfl rfl rfl
    exact ⟨hq, fun g => (hview g).trans (h.view g), fun g x hx => (figures_of_view (hview g)).2.2 ▸ h.rest g x hx⟩
  keep w s hw hne h := by
    rcases hw with hw | ⟨g, rfl⟩
    · exact absurd hw hne
    · obtain ⟨h1, h2⟩ := h.testGroup hc g
      refine ⟨h1, fun y hy => ?_⟩
      have : y ∈ handoffs s (s.testGroup g) := hy
      rw [h2] at this
      simp at this

/-! ### The step of a STOP LOAD -/

/-- An evaluation overwrites the block reason, so its outcome does not depend on the one before. -/
theorem evaluated_of_evaluatedAs (h : r' = r1.evaluatedAs (u.permission n r1) u.timeBase) : u.Evaluated n r1 r' := by
  subst h
  unfold LoadRecord.evaluatedAs
  refine ⟨fun hp => ?_, fun hp => if_neg hp⟩
  rw [if_pos hp, entering_stopping]

/-- R57, R58, R70, R110: what becomes of a record in RUN or IDLE that takes the request. -/
theorem settle_requested (hc : Table.Canonical 240 s.loads) (hl : s.load n = some r) (hs : r.state = .run ∨ r.state = .idle) (a : Nat) :
    n ∈ (s.settle (s.requestStop n a r) [.evaluate n]).marks
      ∧ ∃ r', (s.settle (s.requestStop n a r) [.evaluate n]).load n = some r'
        ∧ (s.setLoad n (r.requested a)).EvaluatedAmong n (r.requested a) r' ∧ s.Judged s.authority n (r.requested a) r'
        ∧ ((∀ m rm, m ≠ n → s.load m = some rm → rm.state = .due → rm.provides = none) →
          (∀ g x, s.group g = some x → s.lacks g = false ∨ ∃ p, p ≠ n ∧ x.state = .raising p) →
          (s.setLoad n (r.requested a)).Evaluated n (r.requested a) r') := by
  have hcu : Table.Canonical 240 (s.setLoad n (r.requested a)).loads := Table.canonical_put hc (Table.lt_of_find hc hl) _
  have hx : (s.setLoad n { r with portStop := some a }).load n = some { r with portStop := some a } := by simp
  have hq := requested_quiet hc hl hs a
  have hload := requested_load (s := s) (n := n) hs a
  have hplain : ∀ w ∈ [Work.evaluate n], w.plain := evaluate_plain
  have hE := (evaluates_due (n := n) (b := s.setLoad n (r.requested a)) (r1 := { r.requested a with blockReason := .none }) hcu rfl).settleLoop
    settleFuel (addWork [] ([.evaluate n] ++ handoffs s (s.requestStop n a r))) (s.requestStop n a r)
    (fun w hw => (List.mem_append.mp ((mem_addWork hw).resolve_left (by simp))).elim (hplain w) (handoffs_plain _ _ w))
    (.inr ⟨⟨hq, hload⟩, mem_addWork_of (.inr (by simp))⟩)
  have hmark : n ∈ (s.settle (s.requestStop n a r) [.evaluate n]).marks :=
    (settle_quiet (s0 := s) (s1 := s.requestStop n a r) hplain).marks n (moveTo_marks_self hx)
  obtain ⟨-, r', hr', hamong, hjudged, -⟩ := hE
  refine ⟨hmark, r', hr', hamong, ?_, fun hother hgroups => ?_⟩
  · exact judged_setLoad (r' := r.requested a) hl rfl hjudged
  · have hrest : GroupsRest (s.setLoad n (r.requested a)) (s.requestStop n a r) := by
      refine ⟨hq, requested_view hc hl a, fun g x hx' => ?_⟩
      rw [(requested_figures hc hl hs a g).2]
      rw [State.requestStop, moveTo_group hx] at hx'
      obtain ⟨y, hy, rfl⟩ := Option.map_eq_some_iff.mp hx'
      refine (hgroups g y hy).imp_right (fun ⟨p, hp, hr⟩ => ⟨p, ?_⟩)
      simp [Group.follow, hr, hp]
    have hw : ∀ w ∈ [Work.evaluate n] ++ handoffs s (s.requestStop n a r), w = .evaluate n ∨ ∃ g, w = .testGroup g := fun w hw => by
      rcases List.mem_append.mp hw with hw | hw
      · exact .inl (by simpa using hw)
      · rcases requested_handoffs hc hl hs a hw with h | h | ⟨m, rm, hm, -, hlm, hd, hp⟩
        · exact .inl h
        · exact .inr h
        · exact absurd (hother m rm hm hlm hd) hp
    have := (groupsRest_calm hcu (r1 := r.requested a) (n := n) rfl).settle hrest hload hw (by simp)
    exact evaluated_of_evaluatedAs (Option.some.inj (hr'.symm.trans this))

theorem requested_of_due (hd : r.state = .due) (a : Nat) : r.requested a = { r with portStop := some a } := by
  simp [LoadRecord.requested, hd]

/-- A STOP LOAD that is taken by a record in RUN, IDLE or DUE. -/
theorem stopLoad_taken {b a : Byte} (hc : Canonical s) (hs : s.Sent 0x19 [b, a]) (hb : b.toNat ≤ 239) (h0 : a ≠ 0) (h3 : a.toNat ≤ 3)
    (hl : s.load b.toNat = some r) (hst : r.state = .run ∨ r.state = .idle ∨ r.state = .due) :
    ∃ (t : State) (r' : LoadRecord), exec .stopLoad s = .next (t.respond .done []) ∧ t.load b.toNat = some r' ∧ (r.state ≠ .due → b.toNat ∈ t.marks)
      ∧ (s.setLoad b.toNat (r.requested a.toNat)).EvaluatedAmong b.toNat (r.requested a.toNat) r'
      ∧ s.Judged s.authority b.toNat (r.requested a.toNat) r'
      ∧ (r.state = .due
          ∨ ((∀ m rm, m ≠ b.toNat → s.load m = some rm → rm.state = .due → rm.provides = none)
            ∧ ∀ g x, s.group g = some x → s.lacks g = false ∨ ∃ p, p ≠ b.toNat ∧ x.state = .raising p) →
        (s.setLoad b.toNat (r.requested a.toNat)).Evaluated b.toNat (r.requested a.toNat) r') := by
  have hp := hs.commandParams rfl (by simp)
  have hlive := stopLoad_live hb h0 h3 hl
  by_cases hd : r.state = .due
  · have hbody : stopLoad [b, a] s = taken (s.setLoad b.toNat (r.requested a.toNat)) [.evaluate b.toNat] := by
      rw [hlive, requested_of_due hd]
      simp [stopLoadBody, hd]
    have hcu : Table.Canonical 240 (s.setLoad b.toNat (r.requested a.toNat)).loads :=
      Table.canonical_put hc.loads (Table.lt_of_find hc.loads hl) _
    have hh : handoffs s (s.setLoad b.toNat (r.requested a.toNat)) = [] := by
      rw [requested_of_due hd]
      exact handoffs_setLoad hc.loads hl rfl rfl rfl rfl rfl rfl
    obtain ⟨r', hr', he, hj⟩ := settle_evaluate (n := b.toNat) (r := r.requested a.toNat) hcu hh (by simp) rfl
    exact ⟨_, r', congrArg Host.Outcome.next (runCommand_taken hp hbody), hr', fun h => absurd hd h, .inl he,
      judged_setLoad (r' := r.requested a.toNat) hl rfl hj, fun _ => he⟩
  · have hri : r.state = .run ∨ r.state = .idle := by tauto
    have hbody : stopLoad [b, a] s = taken (s.requestStop b.toNat a.toNat r) [.evaluate b.toNat] := by
      rw [hlive]
      rcases hri with h | h <;> simp [stopLoadBody, h, State.requestStop]
    obtain ⟨hmark, r', hr', hamong, hjudged, hexact⟩ := settle_requested hc.loads hl hri a.toNat
    exact ⟨_, r', congrArg Host.Outcome.next (runCommand_taken hp hbody), hr', fun _ => hmark, hamong, hjudged,
      fun h => (h.resolve_left hd).elim hexact⟩

/-- What an evaluation among other hand-offs leaves of the record: DUE, or in STOPPING (R57, R58). -/
theorem State.EvaluatedAmong.cases (h : u.EvaluatedAmong n r1 r') : (∃ c, r' = { r1 with blockReason := c }) ∨ r' = { r1 with
    state := .stopping, commanded := .stop, blockReason := .none, idleClock := 0, verifyEnd := some (u.timeBase + r1.tuning.stopVerify) } := by
  rcases h with ⟨h1, h2⟩ | ⟨-, -, h | h⟩
  · by_cases hp : u.permission n r1 = .none
    · exact .inr (h1 hp)
    · exact .inl ⟨_, h2 hp⟩
  · exact .inl ⟨_, h⟩
  · exact .inl ⟨_, h⟩

/-- For a load that provides no group an evaluation among other hand-offs is one evaluation (R111, R112). -/
theorem State.EvaluatedAmong.exact (h : u.EvaluatedAmong n r1 r') (hp : r1.provides = none) : u.Evaluated n r1 r' :=
  h.resolve_right (fun h => h.2.1 hp)

/-- Settles O20: the request is taken with one evaluation, exact where no other hand-off of the step can touch what it reads. -/
theorem stopLoadByState : Obligations.StopLoadByState := by
  unfold Obligations.StopLoadByState
  intro s n a hc hs
  have hp := hs.commandParams rfl (by simp)
  refine ⟨fun hbad => ?_, fun hn h0 h3 hl => ?_, fun r hn h0 h3 hl => ⟨fun hst => ?_, fun hst => ?_, fun hst => ?_⟩⟩
  · refine congrArg Host.Outcome.next (runCommand_refused hp hc ?_)
    have : (badLoad n || a == 0 || decide (3 < a.toNat)) = true := by
      rcases hbad with h | rfl | h
      · simp [(badLoad_eq_true n).mpr h]
      · simp
      · simp [h]
    simp only [stopLoad, this, if_true]
  · refine congrArg Host.Outcome.next (runCommand_refused hp hc ?_)
    have : (badLoad n || a == 0 || decide (3 < a.toNat)) = false := by
      rw [(badLoad_eq_false n).mpr hn, beq_eq_false_iff_ne.mpr h0, decide_eq_false (by omega)]
      rfl
    simp only [stopLoad, this, Bool.false_eq_true, if_false, hl]
  · obtain ⟨t, r', ht, hr', hmark, hamong, hjudged, hexact⟩ := stopLoad_taken hc hs hn h0 h3 hl hst
    have h1 : 0 < a.toNat := Nat.pos_of_ne_zero (fun h => h0 (BitVec.eq_of_toNat_eq h))
    refine ⟨_, r', ht, rfl, rfl, hr', ?_, ?_, fun _ hprov => ?_, hmark, ?_⟩
    · rcases hamong.cases with ⟨c, rfl⟩ | rfl <;> rfl
    · exact hamong.cases.imp (fun ⟨c, h⟩ => by subst h; exact ⟨rfl, rfl⟩) (fun h => by subst h; exact ⟨rfl, rfl, rfl, rfl⟩)
    · obtain ⟨-, hhold, hrun⟩ := hjudged (max s.authority a.toNat) rfl
      refine ⟨fun h => ?_, fun h => ⟨fun hm => ?_, fun hm => ?_⟩⟩
      · rw [hhold (by omega) h]; exact ⟨rfl, rfl⟩
      · rw [(hrun (by omega) h).1 hm]; exact ⟨rfl, rfl⟩
      · rcases (hrun (by omega) h).2 hm with h | ⟨h, -⟩
        · rw [h]
        · exact absurd hprov h
    · rintro r1 u rfl rfl
      refine ⟨hjudged, hamong, fun h => ?_⟩
      rcases h with h | h | h
      · exact hexact (.inl h)
      · exact hamong.exact h
      · exact hexact (.inr h)
  · refine congrArg Host.Outcome.next (runCommand_written hp ((stopLoad_live hn h0 h3 hl).trans ?_) (handoffs_self hc.loads))
    rcases hst with h | h <;> simp [stopLoadBody, h]
  · refine congrArg Host.Outcome.next (runCommand_refused hp hc ((stopLoad_live hn h0 h3 hl).trans ?_))
    rcases hst with h | h | h | h | h | h <;> simp [stopLoadBody, h]

end Sys2Proof.Machine
end

section
/-! SUPPORT. Holds that count down and leave (R76, R78, R80, R82, R84). -/

namespace Sys2Proof.Machine

variable {s t u v : State} {n m g h : Nat} {r r0 r' r1 : LoadRecord} {w : Work} {π : BlockReason} {now : Nat} {x : PortHold}

/-! ### A step of one evaluation -/

/-- A step whose change hands nothing on and that calls for one evaluation leaves a record that is not DUE as it is. -/
theorem settle_evaluate_idle {s0 : State} (hh : handoffs s0 s = []) (hd : s.stateOf n ≠ some .due) : s0.settle s [.evaluate n] = s := by
  rw [settle_single (w := .evaluate n) (by simp [hh]), if_pos]
  simpa [Work.idle] using hd

/-! ### A port hold that has left -/

/-- The state without the hold, the load's mark set. -/
def State.unheld (s : State) (h n : Nat) : State := ({ s with holds := Table.drop s.holds h } : State).mark n

/-- R82, R84: a hold that leaves takes the load out of the failed-raise sets where it was the last KEEP-OFF hold, and calls for an
evaluation. -/
theorem removePortHold_eq (s : State) (h : Nat) (x : PortHold) :
    (s.removePortHold h x).work = [.evaluate x.load]
      ∧ (s.removePortHold h x).state = if x.sense = .keepOff ∧ (s.unheld h x.load).keepOff x.load = false
          then (s.unheld h x.load).forgetFailed x.load else s.unheld h x.load := by
  unfold State.removePortHold State.holdLeft
  cases x.sense with
  | keepRun l => exact ⟨rfl, by simp [State.unheld]⟩
  | keepOff =>
    refine ⟨rfl, ?_⟩
    show (if (s.unheld h x.load).keepOff x.load = true then s.unheld h x.load else (s.unheld h x.load).forgetFailed x.load) = _
    cases hk : (s.unheld h x.load).keepOff x.load <;> simp

theorem groupView_forgetFailed (s : State) (n g : Nat) : (s.forgetFailed n).groupView g = s.groupView g := by
  have hm : (s.forgetFailed n).margin g = s.margin g := by
    unfold State.margin State.group
    simp only [State.forgetFailed_groups, Table.find_mapEach]
    cases Table.find s.groups g <;> rfl
  simp only [State.groupView, hm]
  rfl

/-- What the removal of a port hold leaves of the state, and the KEEP-OFF holds that it leaves. -/
structure Unheld (s v : State) (h n : Nat) : Prop where
  loads : v.loads = s.loads
  holds : v.holds = Table.drop s.holds h
  marks : n ∈ v.marks
  frozen : v.frozen = (s.unheld h n).frozen
  authority : v.authority = s.authority
  queue : v.queue = s.queue
  feeders : v.feeders = s.feeders
  view : ∀ g, v.groupView g = s.groupView g
  undefined : s.groups = [] → v.groups = []

theorem removePortHold_unheld (s : State) (h : Nat) (x : PortHold) : Unheld s (s.removePortHold h x).state h x.load := by
  have base : Unheld s (s.unheld h x.load) h x.load :=
    ⟨rfl, rfl, by simp [State.unheld, NatSet.mem_add], rfl, rfl, rfl, rfl, fun _ => rfl, id⟩
  rw [(removePortHold_eq s h x).2]
  split
  · exact ⟨rfl, rfl, base.marks, rfl, rfl, rfl, rfl, fun g => (groupView_forgetFailed _ _ g).trans rfl,
      fun hg => by simp [State.unheld, hg, Table.mapEach]⟩
  · exact base

theorem Unheld.load (hu : Unheld s v h n) (m : Nat) : v.load m = s.load m := by unfold State.load; rw [hu.loads]

theorem Unheld.timeBase (hu : Unheld s v h n) : v.timeBase = s.timeBase := (frozen_field hu.frozen).1

/-- Stop permission reads the holds alone of what a removal changes. -/
theorem Unheld.permission (hu : Unheld s v h n) (hh : t.holds = v.holds) : v.permission m r = ({ s with holds := t.holds } : State).permission m r :=
  permission_of_view hu.authority (keepRunLevels_congr (s := ({ s with holds := t.holds } : State)) hh.symm (congrArg _ (hu.load m))) hu.timeBase hu.view

/-- The removal is handed on by the KEEP-OFF holds that have gone alone. -/
theorem Unheld.handoffs (hu : Unheld s v h n) (hc : Table.Canonical 240 s.loads) (hw : w ∈ handoffs s v) : w ∈ barHandoffs s v := by
  have hst : ∀ m, v.stateOf m = s.stateOf m := fun m => by unfold State.stateOf; rw [hu.load]
  have hfind : ∀ e ∈ v.loads, s.stateOf e.1 = some e.2.state := fun e he =>
    stateOf_eq.mpr ⟨e.2, Table.find_of_mem hc (hu.loads ▸ he), rfl⟩
  rcases mem_handoffs_of_views hu.authority hu.queue hu.feeders
    (fun e he hs => (hst e.1).trans (stateOf_eq.mpr ⟨e.2, Table.find_of_mem hc he, hs⟩)) hw with ⟨e, he, -, hd, hne⟩ | ⟨g, hw⟩ | hw
  · exact absurd ((hfind e he).trans (congrArg some hd)) hne
  · simp [groupHandoffs, hu.view g] at hw
  · exact hw

/-- A hold of another sense, or on another load, still bars the load. -/
theorem Unheld.keepOff (hu : Unheld s v h n) (hx : Table.find s.holds h = some x) (hxn : x.load = n) (hc : Table.Canonical 96 s.holds)
    (hor : x.sense ≠ .keepOff ∨ m ≠ n) (hk : s.keepOff m = true) : v.keepOff m = true := by
  rcases keepOff_iff.mp hk with ⟨e, he, hm, hs⟩ | ⟨r, hl, hi⟩
  · refine keepOff_iff.mpr (.inl ⟨e, ?_, hm, hs⟩)
    rw [hu.holds]
    refine Table.mem_of_find ((Table.find_drop _ _ _).trans ?_)
    have hf := Table.find_of_mem hc he
    rw [if_neg, hf]
    intro heh
    rw [heh, hx, Option.some.injEq] at hf
    subst hf
    exact hor.elim (fun h => h hs) (fun h => h (hm.symm.trans hxn))
  · exact keepOff_iff.mpr (.inr ⟨r, (hu.load m).trans hl, hi⟩)

/-- Where the load still carries a KEEP-OFF hold, or the hold was none, the removal calls for nothing. -/
theorem Unheld.handoffs_nil (hu : Unheld s v h n) (hc : Canonical s) (hx : Table.find s.holds h = some x) (hxn : x.load = n)
    (hor : x.sense ≠ .keepOff ∨ v.keepOff n = true) : Machine.handoffs s v = [] := by
  refine List.eq_nil_iff_forall_not_mem.mpr (fun w hw => ?_)
  have hw := hu.handoffs hc.loads hw
  rw [barHandoffs_nil (fun e _ hk => ?_)] at hw
  · simp at hw
  · by_cases he : e.1 = n
    · exact hor.elim (fun h => hu.keepOff hx hxn hc.holds (.inl h) hk) (fun h => he ▸ h)
    · exact hu.keepOff hx hxn hc.holds (.inr he) hk

/-! ### An evaluation beside an examination, in a part with no groups -/

theorem Quiet.provides (hq : Quiet s t) (hc : Table.Canonical 240 s.loads) (hl : t.load m = some r') :
    ∃ r, s.load m = some r ∧ r.provides = r'.provides ∧ HandedOn s.timeBase r r' := by
  cases hs : s.load m with
  | none => rw [hq.vacant m hs] at hl; simp at hl
  | some r =>
    obtain ⟨r2, hr2, hh⟩ := hq.record hc m r hs
    obtain rfl := Option.some.inj (hl.symm.trans hr2)
    obtain ⟨hlinks, -⟩ := hh.same
    exact ⟨r, rfl, (congrArg Prod.fst hlinks).symm, hh⟩

/-- An examination changes no figure and stops no load, so no stop permission (R56, R63, R113). -/
theorem permission_examine (hc : Table.Canonical 240 s.loads) : s.examine.permission n r = s.permission n r := by
  have hq : Quiet s s.examine := (Quiet.refl s).run (w := .examine) trivial
  have hw := walking_walked hc s.queue.length le_rfl
  rw [walked_length] at hw
  refine permission_congr hq.authority (hq.keepRunLevels hc n) hq.timeBase ?_ ?_
  · unfold State.spared
    cases r.provides with
    | none => rfl
    | some p => simp only [hw.figures p.group]
  · rw [Bool.eq_iff_iff]
    refine ⟨fun h => ?_, hq.otherStopping hc⟩
    by_contra hno
    have hsole := (otherStopping_eq_false_iff hc).mp (Bool.eq_false_iff.mpr hno)
    suffices hstill : s.examine.otherStopping n r = false by rw [h] at hstill; simp at hstill
    · refine (otherStopping_eq_false_iff (hq.canonical hc)).mpr (fun p m rm pm hp hm hlm hpm hg hs => ?_)
      obtain ⟨r0, hl0, hpr, -⟩ := hq.provides hc hlm
      refine hsole p m r0 pm hp hm hl0 (hpr.trans hpm) hg ?_
      rcases (examine_examining hc).state m with he | ⟨-, he⟩
      · have : s.examine.stateOf m = some .stopping := stateOf_eq.mpr ⟨rm, hlm, hs⟩
        rw [he] at this
        obtain ⟨r2, h2, h3⟩ := stateOf_eq.mp this
        cases hl0.symm.trans h2
        exact h3
      · rw [stateOf_eq.mpr ⟨rm, hlm, hs⟩] at he
        simp at he

/-- A part with no groups in which the evaluation of `r1` as load `n` has the outcome `π`. -/
structure Ungrouped (n : Nat) (r1 : LoadRecord) (π : BlockReason) (now : Nat) (v : State) : Prop where
  canonical : Table.Canonical 240 v.loads
  groups : v.groups = []
  timeBase : v.timeBase = now
  permission : v.permission n r1 = π

theorem ungrouped_calm (hd : r1.state = .due) :
    Calm n r1 π now (fun w => w = .evaluate n ∨ w = .examine ∨ ∃ g, w = .testGroup g) (Ungrouped n r1 π now) where
  due := hd
  plain w hw := by rcases hw with rfl | rfl | ⟨g, rfl⟩ <;> trivial
  own m hm := by rcases hm with hm | hm | ⟨g, hm⟩ <;> simp at hm; exact hm
  choice s k h := ⟨h.canonical, h.groups, h.timeBase, h.permission⟩
  canonical s h := h.canonical
  timeBase s h := h.timeBase
  permission s h := h.permission
  blocked s c h hl hp := by
    have hq := (Quiet.refl s).evaluate n
    have hperm : s.permission n { r1 with blockReason := c } = π := h.permission
    have hev := evaluate_of_due hl hd
    rw [hperm, if_neg hp] at hev
    have hview := groupView_setLoad (r' := { r1 with blockReason := π }) h.canonical hl rfl rfl rfl rfl rfl
    have hgroups : (s.evaluate n).groups = s.groups := by rw [hev]; rfl
    refine ⟨hq.canonical h.canonical, hgroups.trans h.groups, hq.timeBase.trans h.timeBase, ?_⟩
    refine (permission_of_view hq.authority (hq.keepRunLevels h.canonical n) hq.timeBase ?_).trans h.permission
    rw [hev]
    exact hview
  keep w s hw hne h := by
    rcases hw with hw | rfl | ⟨g, rfl⟩
    · exact absurd hw hne
    · have hq : Quiet s s.examine := (Quiet.refl s).run (w := .examine) trivial
      refine ⟨⟨hq.canonical h.canonical, (examine_examining h.canonical).undefined h.groups, hq.timeBase.trans h.timeBase,
        (permission_examine h.canonical).trans h.permission⟩, fun y hy => ?_⟩
      have : y ∈ handoffs s s.examine := hy
      rw [examine_handoffs h.canonical (.inl h.groups)] at this
      simp at this
    · have htest : (Work.run (.testGroup g) s).1 = s := by simp [Work.run, State.testGroup, State.group, h.groups]
      rw [htest]
      exact ⟨h, fun y hy => by rw [handoffs_self h.canonical] at hy; simp at hy⟩

/-! ### The step of a hold that leaves -/

/-- A KEEP-OFF hold that leaves takes no KEEP-RUN level with it (R81). -/
theorem Unheld.keepRunLevels (hu : Unheld s v h n) (hc : Table.Canonical 96 s.holds) (hx : Table.find s.holds h = some x)
    (hs : x.sense = .keepOff) (m : Nat) : v.keepRunLevels m = s.keepRunLevels m := by
  have hholds : ((Table.drop s.holds h).filter (fun e => e.2.load == m)).filterMap (fun e => e.2.keepRunLevel)
      = (s.holds.filter (fun e => e.2.load == m)).filterMap (fun e => e.2.keepRunLevel) := by
    have hgone : ∀ e ∈ s.holds, e.1 = h → e.2.keepRunLevel = none := fun e he heh => by
      have hf := Table.find_of_mem hc he
      rw [heh, hx, Option.some.injEq] at hf
      simp [PortHold.keepRunLevel, ← hf, hs]
    unfold Table.drop
    rw [List.filter_filter, List.filterMap_filter, List.filterMap_filter]
    refine List.filterMap_congr (fun e he => ?_)
    by_cases heh : e.1 = h
    · simp [heh, hgone e he heh]
    · simp [heh]
  simp only [State.keepRunLevels, State.holdsOn, hu.holds, hu.load, hholds]

/-- R57, R76, R80, R82, R84, R117: what becomes of the load that a port hold has left. -/
theorem settle_unheld (hc : Canonical s) (hx : Table.find s.holds h = some x) (hv : v = (s.removePortHold h x).state)
    (ht : t = s.settle v [.evaluate x.load]) :
    Quiet v t ∧ (∀ r, s.load x.load = some r → ∃ r', t.load x.load = some r' ∧ HandedOn s.timeBase r r'
        ∧ (r.state ≠ .due → x.sense ≠ .keepOff → r' = r)
        ∧ (r.state = .due → x.sense = .keepOff → s.Judged s.authority x.load r r')
        ∧ (r.state = .due → x.sense ≠ .keepOff ∨ r.provides = none ∨ s.groups = [] → v.Evaluated x.load r r')) := by
  have hu : Unheld s v h x.load := hv ▸ removePortHold_unheld s h x
  have hplain : ∀ w ∈ [Work.evaluate x.load], w.plain := evaluate_plain
  have hq : Quiet v t := ht ▸ settle_quiet hplain
  have hcv : Table.Canonical 240 v.loads := hu.loads ▸ hc.loads
  refine ⟨hq, fun r hl => ?_⟩
  have hlv : v.load x.load = some r := (hu.load _).trans hl
  obtain ⟨r', hr', hho⟩ := hq.record hcv _ r hlv
  rw [hu.timeBase] at hho
  have among : ∀ r', t.load x.load = some r' → v.load x.load = some r → r.state = .due →
      v.EvaluatedAmong x.load r r' ∧ v.Judged v.authority x.load r r' := fun r' hr' hlv hd => by
    have hE := (evaluates_due (n := x.load) (b := v) (r1 := r) hcv hd).settleLoop settleFuel
      (addWork [] ([.evaluate x.load] ++ handoffs s v)) v
      (fun w hw => (List.mem_append.mp ((mem_addWork hw).resolve_left (by simp))).elim (hplain w) (handoffs_plain _ _ w))
      (.inr ⟨⟨Quiet.refl v, hlv⟩, mem_addWork_of (.inr (by simp))⟩)
    obtain ⟨-, r2, hr2, h1, h2, -⟩ := hE
    rw [ht] at hr'
    obtain rfl := Option.some.inj (hr'.symm.trans hr2)
    exact ⟨h1, h2⟩
  refine ⟨r', hr', hho, fun hd hs => ?_, fun hd hs => ?_, fun hd hor => ?_⟩
  · rw [ht, settle_evaluate_idle (hu.handoffs_nil hc hx rfl (.inl hs)) (by simp [State.stateOf, hlv, hd]), hlv] at hr'
    exact (Option.some.inj hr').symm
  · obtain ⟨-, hjudged⟩ := among r' hr' hlv hd
    exact judged_congr (hu.keepRunLevels hc.holds hx hs x.load) hu.timeBase (hu.authority ▸ hjudged)
  · rcases hor with hs | hp | hg
    · obtain ⟨r2, hr2, he, -⟩ := settle_evaluate hcv (hu.handoffs_nil hc hx rfl (.inl hs)) hlv hd
      rw [← ht, hr', Option.some.injEq] at hr2
      exact hr2 ▸ he
    · exact (among r' hr' hlv hd).1.exact hp
    · have hw : ∀ w ∈ [Work.evaluate x.load] ++ handoffs s v, w = .evaluate x.load ∨ w = .examine ∨ ∃ g, w = .testGroup g := fun w hw => by
        rcases List.mem_append.mp hw with hw | hw
        · exact .inl (by simpa using hw)
        · exact .inr (mem_barHandoffs (hu.handoffs hc.loads hw)).symm
      have := (ungrouped_calm (n := x.load) (r1 := r) hd).settle (c := r.blockReason) ⟨hcv, hu.undefined hg, rfl, rfl⟩ hlv hw (by simp)
      rw [← ht, hr', Option.some.injEq] at this
      exact evaluated_of_evaluatedAs this

theorem State.Evaluated.stopping (h : u.Evaluated n r r') (hp : u.permission n r = .none) :
    r'.state = .stopping ∧ r'.commanded = .stop ∧ r'.verifyEnd = some (u.timeBase + r.tuning.stopVerify) ∧ r'.buttonHold = r.buttonHold := by
  rw [h.1 hp]
  exact ⟨rfl, rfl, rfl, rfl⟩

theorem drop_find (s : State) (h j : Nat) : Table.find (Table.drop s.holds h) j = if j = h then none else Table.find s.holds j :=
  Table.find_drop _ _ _

/-- The last KEEP-OFF hold that leaves takes the load out of the failed-raise sets (R117). -/
theorem removePortHold_untried (hs : x.sense = .keepOff)
    (hk : (s.unheld h x.load).keepOff x.load = false) (hraise : RaiseLaw s) :
    Untried x.load (s.removePortHold h x).state.stateOf (s.removePortHold h x).state.group := by
  rw [(removePortHold_eq s h x).2, if_pos ⟨hs, hk⟩]
  intro g y hy
  have hgroup : ((s.unheld h x.load).forgetFailed x.load).group g
      = (s.group g).map (fun z => { z with failed := NatSet.remove z.failed x.load }) := by
    simp [State.group, State.unheld]
  rw [hgroup] at hy
  obtain ⟨z, hz, rfl⟩ := Option.map_eq_some_iff.mp hy
  exact ⟨by simp [NatSet.mem_remove], fun hr => hraise g x.load z hz hr⟩

/-- What the removal of a port hold leaves after its hand-offs (R76, R80, R82, R84, R117). -/
theorem settle_removePortHold (hc : Canonical s) (hx : Table.find s.holds h = some x)
    (ht : t = s.settle (s.removePortHold h x).state (s.removePortHold h x).work) :
    x.load ∈ t.marks ∧ t.answer = s.answer
      ∧ (∀ j, Table.find t.holds j = if j = h then none else Table.find s.holds j)
      ∧ (∀ r, s.load x.load = some r → ∃ r', t.load x.load = some r' ∧ HandedOn s.timeBase r r'
          ∧ (r.state ≠ .due → x.sense ≠ .keepOff → r' = r)
          ∧ (r.state = .due → x.sense = .keepOff → s.Judged s.authority x.load r r')
          ∧ (r.state = .due → x.sense ≠ .keepOff ∨ r.provides = none ∨ s.groups = [] →
            (({ s with holds := t.holds } : State).permission x.load r = .none →
                r'.state = .stopping ∧ r'.commanded = .stop ∧ r'.verifyEnd = some (s.timeBase + r.tuning.stopVerify))
            ∧ (({ s with holds := t.holds } : State).permission x.load r ≠ .none →
                r' = { r with blockReason := ({ s with holds := t.holds } : State).permission x.load r })))
      ∧ (x.sense = .keepOff → ({ s with holds := t.holds } : State).keepOff x.load = false → RaiseLaw s →
          ∀ g y, t.group g = some y → x.load ∉ y.failed) := by
  have hu := removePortHold_unheld s h x
  rw [(removePortHold_eq s h x).1] at ht
  obtain ⟨hq, hrecord⟩ := settle_unheld hc hx rfl ht
  obtain ⟨-, -, -, -, -, -, -, -, -, -, -, hholds, -⟩ := frozen_field hq.frozen
  obtain ⟨-, -, -, -, -, -, -, -, -, -, -, -, -, -, -, hanswer, -⟩ := frozen_field (hq.frozen.trans hu.frozen)
  refine ⟨hq.marks _ hu.marks, hanswer, fun j => ?_, fun r hl => ?_, fun hs hk hraise g y hy => ?_⟩
  · rw [hholds, hu.holds, drop_find]
  · obtain ⟨r', hr', hho, h1, h2, h3⟩ := hrecord r hl
    refine ⟨r', hr', hho, h1, h2, fun hd hor => ?_⟩
    have he := h3 hd hor
    rw [← hu.permission hholds]
    refine ⟨fun hp => ?_, he.2⟩
    obtain ⟨hst, hcom, hver, -⟩ := he.stopping hp
    exact ⟨hst, hcom, hu.timeBase ▸ hver⟩
  · have hk' : (s.unheld h x.load).keepOff x.load = false := by
      rw [← hk]
      exact keepOff_congr (hu.holds.symm.trans hholds.symm) rfl
    rw [ht] at hy
    exact ((removePortHold_untried hs hk' hraise).settled (s0 := s) (work := [.evaluate x.load]) evaluate_plain g y hy).1

/-! ### A button hold that has left -/

/-- R57, R78, R80, R82: what becomes of the load that its button hold has left. -/
theorem settle_removeButtonHold (hc : Canonical s) (hl : s.load n = some r)
    (ht : t = s.settle (s.removeButtonHold n r).state (s.removeButtonHold n r).work) :
    n ∈ t.marks ∧ ∃ r', t.load n = some r' ∧ ∀ g u, g = { r with buttonHold := none } → u = s.setLoad n g →
      (r.state ≠ .due → r' = g)
      ∧ (r.state = .due →
        (u.permission n g = .none →
          r'.state = .stopping ∧ r'.commanded = .stop ∧ r'.verifyEnd = some (s.timeBase + r.tuning.stopVerify) ∧ r'.buttonHold = none)
        ∧ (u.permission n g ≠ .none → r' = { g with blockReason := u.permission n g })) := by
  have hh : handoffs s ((s.setLoad n { r with buttonHold := none }).mark n) = [] := by
    have := handoffs_setLoad (r' := { r with buttonHold := none }) hc.loads hl rfl rfl rfl rfl rfl rfl
    exact this
  have hcv : Table.Canonical 240 ((s.setLoad n { r with buttonHold := none }).mark n).loads :=
    Table.canonical_put hc.loads (Table.lt_of_find hc.loads hl) _
  have hlv : ((s.setLoad n { r with buttonHold := none }).mark n).load n = some { r with buttonHold := none } := by simp
  have hmark : n ∈ t.marks := by
    rw [ht]
    exact (settle_quiet removeButtonHold_plain).marks n (by simp [State.removeButtonHold, NatSet.mem_add])
  refine ⟨hmark, ?_⟩
  by_cases hd : r.state = .due
  · obtain ⟨r', hr', he, -⟩ := settle_evaluate hcv hh hlv hd
    refine ⟨r', ht ▸ hr', ?_⟩
    rintro g u rfl rfl
    exact ⟨fun h => absurd hd h, fun _ => ⟨fun hp => he.stopping hp, he.2⟩⟩
  · have hsettle := settle_evaluate_idle hh (n := n) (by simp [State.stateOf, hlv, hd])
    refine ⟨{ r with buttonHold := none }, ?_, ?_⟩
    · rw [ht]
      exact (congrArg (fun v => State.load v n) hsettle).trans hlv
    · rintro g u rfl rfl
      exact ⟨fun _ => rfl, fun h => absurd h hd⟩

/-! ### The rows -/

theorem holdMinute_counts (s : State) :
    (s.timeBase < s.nextHoldMinute → exec .holdMinute s = .next s)
    ∧ (s.nextHoldMinute ≤ s.timeBase → ∃ t, exec .holdMinute s = .next t
        ∧ (∀ h, Table.find t.holds h = (Table.find s.holds h).map (fun x => { x with remaining := x.remaining.map (fun k => k - 1) }))
        ∧ (∀ n, t.load n = (s.load n).map (fun r => { r with buttonHold := r.buttonHold.map (fun k => k - 1) }))
        ∧ t.nextHoldMinute = s.nextHoldMinute + 60
        ∧ t = { s with nextHoldMinute := t.nextHoldMinute, holds := t.holds, loads := t.loads }) := by
  refine ⟨fun hlt => ?_, fun hle => ?_⟩
  · simp only [exec, execHoldMinute, if_neg (Nat.not_le.mpr hlt)]
  · have hexec : exec .holdMinute s = .next { s with
        nextHoldMinute := s.nextHoldMinute + 60
        holds := Table.mapEach (fun _ h => h.countDown) s.holds
        loads := Table.mapEach (fun _ r => r.countDown) s.loads } := by simp only [exec, execHoldMinute, if_pos hle]
    exact ⟨_, hexec, fun h => Table.find_mapEach (fun _ h => PortHold.countDown h) s.holds h,
      fun n => Table.find_mapEach (fun _ r => LoadRecord.countDown r) s.loads n, rfl, rfl⟩

theorem releaseHold_taken {b : Byte} (hs : s.Sent 0x21 [b]) (hb : b.toNat ≤ 95) (hx : Table.find s.holds b.toNat = some x) :
    exec .releaseHold s
      = .next ((s.settle (s.removePortHold b.toNat x).state (s.removePortHold b.toNat x).work).respond .done []) := by
  have hp := hs.commandParams rfl (by simp)
  have hbody : releaseHold [b] s = (s.removePortHold b.toNat x).reply [] := by
    simp only [releaseHold, if_neg (Nat.not_lt.mpr hb), hx]
  exact congrArg Host.Outcome.next ((runCommand_of hp).trans (by rw [hbody]; rfl))

theorem releaseButtonHold_taken {b : Byte} (hs : s.Sent 0x22 [b]) (hb : b.toNat ≤ 239) (hl : s.load b.toNat = some r) (hne : r.buttonHold ≠ none) :
    exec .releaseButtonHold s
      = .next ((s.settle (s.removeButtonHold b.toNat r).state (s.removeButtonHold b.toNat r).work).respond .done []) := by
  have hp := hs.commandParams rfl (by simp)
  have hbody : onLoad releaseButtonHoldBody [b] s = (s.removeButtonHold b.toNat r).reply [] := by
    rw [onLoad_live hb hl, releaseButtonHoldBody, if_neg hne]
  exact congrArg Host.Outcome.next ((runCommand_of hp).trans (by rw [hbody]; rfl))

/-- Settles O26: each row is the removal of one hold with the evaluation it calls for (`settle_removePortHold`, `settle_removeButtonHold`). -/
theorem holdsCountDownAndLeave : Obligations.HoldsCountDownAndLeave := by
  unfold Obligations.HoldsCountDownAndLeave
  refine ⟨holdMinute_counts, fun s h hc hs => ?_, fun s h x hx hr => ?_, fun s h x i hc hx hi => ?_, fun s n hc hs => ?_, fun s n r hc hl => ?_⟩
  · have hp := hs.commandParams rfl (by simp)
    refine ⟨fun hbad => congrArg Host.Outcome.next (runCommand_refused hp hc ?_), fun hb hx => congrArg Host.Outcome.next (runCommand_refused hp hc ?_),
      fun x hb hx => ⟨_, releaseHold_taken hs hb hx, rfl, rfl⟩⟩
    · simp only [releaseHold, if_pos hbad]
    · simp only [releaseHold, if_neg (Nat.not_lt.mpr hb), hx]
  · simp only [exec, execPortHoldExpiry, hx, if_neg hr]
  · obtain ⟨t, ht⟩ : ∃ t, t = s.settle (s.removePortHold h x).state (s.removePortHold h x).work := ⟨_, rfl⟩
    obtain ⟨hmark, hanswer, hrest⟩ := settle_removePortHold hc hx ht
    rcases hi with ⟨rfl, hr⟩ | ⟨rfl, b, rfl, hs⟩
    · refine ⟨t, ?_, hmark, fun _ => hanswer, hrest⟩
      simp only [exec, execPortHoldExpiry, hx, if_pos hr, ht]
      rfl
    · have hb : b.toNat ≤ 95 := Nat.le_of_lt_succ (Table.lt_of_find hc.holds hx)
      exact ⟨t.respond .done [], ht ▸ releaseHold_taken hs hb hx, hmark, fun h => by simp at h, hrest⟩
  · have hp := hs.commandParams rfl (by simp)
    refine ⟨fun hbad => congrArg Host.Outcome.next (runCommand_refused hp hc (onLoad_bad hbad)),
      fun hn hl => congrArg Host.Outcome.next (runCommand_refused hp hc (onLoad_vacant hn hl)), fun r hn hl => ⟨fun hno => ?_, fun hne => ?_⟩⟩
    · refine congrArg Host.Outcome.next (runCommand_refused hp hc ((onLoad_live hn hl).trans ?_))
      simp only [releaseButtonHoldBody, if_pos hno]
    · obtain ⟨t, ht⟩ : ∃ t, t = s.settle (s.removeButtonHold n.toNat r).state (s.removeButtonHold n.toNat r).work := ⟨_, rfl⟩
      obtain ⟨hmark, r', hr', hrest⟩ := settle_removeButtonHold hc hl ht
      exact ⟨t.respond .done [], r', ht ▸ releaseButtonHold_taken hs hn hl hne, hr', rfl, rfl, hmark, hrest⟩
  · refine ⟨fun hno => by simp only [exec, execButtonHoldExpiry, hl, if_neg hno], fun hz => ?_⟩
    obtain ⟨t, ht⟩ : ∃ t, t = s.settle (s.removeButtonHold n r).state (s.removeButtonHold n r).work := ⟨_, rfl⟩
    obtain ⟨hmark, r', hr', hrest⟩ := settle_removeButtonHold hc hl ht
    refine ⟨t, r', ?_, hr', hmark, hrest⟩
    simp only [exec, execButtonHoldExpiry, hl, if_pos hz, ht]
    rfl

end Sys2Proof.Machine
end

section
/-! SUPPORT. An entry of the queue through the hand-offs of a step, and START LOAD (R69, R122, R123). -/

namespace Sys2Proof.Machine

variable {s t u v : State} {n m g p : Nat} {r r' : LoadRecord} {new : LoadState} {out : Option (Operation × OpResult)} {w : Work}
  {e x : Entry} {q : List Entry}

/-! ### The place of an entry -/

theorem mem_placeEntry : x ∈ placeEntry e q ↔ x = e ∨ x ∈ q := by
  induction q with
  | nil => simp [placeEntry]
  | cons y rest ih =>
    unfold placeEntry
    split
    · rw [List.mem_cons, ih, List.mem_cons]; tauto
    · rw [List.mem_cons]

/-- R123: an entry of class CALL stands after the last SUPPLY or CALL entry and before the first WAKE. -/
theorem placeEntry_call (he : e.cls = .call) (hq : (q.map (fun e => e.cls.order)).Pairwise (· ≤ ·)) :
    placeEntry e q = q.filter (fun x => x.cls != .wake) ++ e :: q.filter (fun x => x.cls == .wake) := by
  induction q with
  | nil => rfl
  | cons y rest ih =>
    simp only [List.map_cons, List.pairwise_cons] at hq
    obtain ⟨hy, hrest⟩ := hq
    unfold placeEntry
    by_cases hw : y.cls = .wake
    · have hall : ∀ x ∈ rest, x.cls = .wake := fun x hx => by
        have := hy x.cls.order (List.mem_map_of_mem (f := fun e : Entry => e.cls.order) hx)
        rw [hw] at this
        cases hc : x.cls <;> simp [hc, StartClass.order] at this ⊢
      have h1 : rest.filter (fun x => x.cls != .wake) = [] := List.filter_eq_nil_iff.mpr (fun x hx => by simp [hall x hx])
      have h2 : rest.filter (fun x => x.cls == .wake) = rest := List.filter_eq_self.mpr (fun x hx => by simp [hall x hx])
      simp [hw, he, StartClass.order, h1, h2]
    · have hle : y.cls.order ≤ e.cls.order := by
        rw [he]
        cases hc : y.cls <;> simp [hc, StartClass.order] at hw ⊢
      simp [hle, hw, ih hrest]

/-! ### An entry through hand-offs -/

/-- R123: the request of load `n` stands in the queue with this class, number and time, or has been granted. -/
def State.Requested (n : Nat) (cls : StartClass) (sequence : BitVec 32) (at' : Nat) (v : State) : Prop :=
  (∃ e ∈ v.queue, e.load = n ∧ e.cls = cls ∧ e.sequence = sequence ∧ e.queuedAt = at') ∨ v.stateOf n = some .starting

variable {cls : StartClass} {sequence : BitVec 32} {at' : Nat}

theorem State.Requested.mono (h : State.Requested n cls sequence at' s) (hq : ∀ e ∈ s.queue, e.load = n → e ∈ t.queue)
    (hs : s.stateOf n = some .starting → t.stateOf n = some .starting) : State.Requested n cls sequence at' t :=
  h.imp (fun ⟨e, he, hl, hrest⟩ => ⟨e, hq e he hl, hl, hrest⟩) hs

theorem State.Requested.moveTo (h : State.Requested n cls sequence at' s) (hl : s.load m = some r) (hs : r.state ≠ .starting)
    (hq : r.state = .queued → new = .starting) : State.Requested n cls sequence at' (s.moveTo m new none) := by
  by_cases hm : n = m ∧ new = .starting
  · obtain ⟨rfl, rfl⟩ := hm
    exact .inr (by rw [stateOf_moveTo hl]; simp)
  · refine h.mono (fun e he hen => ?_) (fun hst => ?_)
    · rw [moveTo_queue hl]
      split
      · rename_i hq'
        have hne : e.load ≠ m := fun h => hm ⟨hen.symm.trans h, hq hq'⟩
        exact List.mem_filter.mpr ⟨he, by simpa using hne⟩
      · exact he
    · have hne : n ≠ m := fun h => by
        subst h
        obtain ⟨r2, h2, h3⟩ := stateOf_eq.mp hst
        cases hl.symm.trans h2
        exact hs h3
      rw [stateOf_moveTo hl, if_neg hne, hst]

theorem State.Requested.enqueue (h : State.Requested n cls sequence at' s) (hl : s.load m = some r) (hs : r.state = .stopped) (c : StartClass) :
    State.Requested n cls sequence at' (s.enqueue m c) := by
  have h' : State.Requested n cls sequence at' { s with queue := placeEntry (s.newEntry m c) s.queue, arrivals := s.arrivals + 1 } :=
    h.mono (fun e he _ => mem_placeEntry.mpr (.inr he)) (fun hst => hst)
  exact h'.moveTo (r := r) hl (by simp [hs]) (by simp [hs])

/-- Hand-offs keep a request in the queue until they grant it. -/
theorem State.Requested.settled {s0 : State} {work : List Work} (h : State.Requested n cls sequence at' s) (hp : ∀ w ∈ work, w.plain) :
    State.Requested n cls sequence at' (s0.settle s work) := by
  refine settle_plain (P := State.Requested n cls sequence at') hp (fun _ _ h => h) (fun s m h => ?_) (fun s g h => ?_) (fun s e h => ?_) h
  · rcases evaluate_cases s m with e | ⟨rm, hm, hd, e | e⟩ <;> rw [e]
    · exact h
    · exact h.moveTo hm (by simp [hd]) (by simp [hd])
    · refine h.mono (fun e he _ => he) (fun hst => ?_)
      have hne : n ≠ m := fun hn => by
        subst hn
        simp [State.stateOf, hm, hd] at hst
      simpa [State.stateOf, hne] using hst
  · have modify : ∀ (u : State) f, State.Requested n cls sequence at' u → State.Requested n cls sequence at' (u.modifyGroup g f) := fun u f hu =>
      hu.mono (fun e he _ => by unfold State.modifyGroup; split <;> exact he) (fun hst => by unfold State.stateOf at hst ⊢; rwa [modifyGroup_load])
    rcases testGroup_cases s g with e | ⟨p, hp, e⟩ | e | e <;> rw [e]
    · exact h
    · obtain ⟨rp, hl, hst⟩ := stateOf_eq.mp hp
      exact modify _ _ (h.enqueue hl hst .supply)
    · exact modify _ _ h
    · exact modify _ _ h
  · rcases examineEntry_cases s e with h' | ⟨r', hl, hq, h'⟩ | ⟨c, h'⟩ <;> rw [h']
    · exact h
    · exact h.moveTo hl (by simp [hq]) (fun _ => rfl)
    · refine h.imp (fun ⟨x, hx, hrest⟩ => ⟨if x.load = e.load then { x with reason := c } else x, ?_, ?_⟩) id
      · exact List.mem_map_of_mem hx
      · split <;> exact hrest

/-- A part with no groups counts no arrival but the requests of its rows. -/
theorem arrivals_settled {s0 : State} {work : List Work} (hg : s.groups = []) (hp : ∀ w ∈ work, w.plain) :
    (s0.settle s work).arrivals = s.arrivals := by
  have move : ∀ (u : State) m new, u.groups = [] ∧ u.arrivals = s.arrivals → (u.moveTo m new none).groups = [] ∧ (u.moveTo m new none).arrivals = s.arrivals := by
    rintro u m new ⟨h1, h2⟩
    cases hl : u.load m with
    | none => rw [moveTo_vacant hl]; exact ⟨h1, h2⟩
    | some r =>
      simp only [State.moveTo, hl]
      split <;> split <;> split <;> split <;> simp [State.offerUrgent, h1, h2, Table.mapEach]
  refine (settle_plain (P := fun u => u.groups = [] ∧ u.arrivals = s.arrivals) hp (fun _ _ h => h) (fun u m h => ?_) (fun u g h => ?_)
    (fun u e h => ?_) ⟨hg, rfl⟩).2
  · rcases evaluate_cases u m with e | ⟨rm, hm, hd, e | e⟩ <;> rw [e]
    · exact h
    · exact move u m _ h
    · exact h
  · have : u.testGroup g = u := by simp [State.testGroup, State.group, h.1]
    rwa [this]
  · rcases examineEntry_cases u e with h' | ⟨r', hl, hq, h'⟩ | ⟨c, h'⟩ <;> rw [h']
    · exact h
    · exact move u _ _ h
    · exact h

/-- What an examination never rewrites of an entry. -/
def Entry.kept (e : Entry) : Nat × StartClass × BitVec 32 × Nat := (e.load, e.cls, e.sequence, e.queuedAt)

/-- In a part with no groups and no FREE feeder hand-offs rewrite wait reasons alone (R127, R129). -/
theorem queue_settled {s0 : State} {work : List Work} (hg : s.groups = []) (hf : ∀ f : Fin 8, s.feeders[f] ≠ .free) (hp : ∀ w ∈ work, w.plain) :
    (s0.settle s work).queue.map Entry.kept = s.queue.map Entry.kept := by
  refine (settle_plain (P := fun u => u.groups = [] ∧ (∀ f : Fin 8, u.feeders[f] ≠ .free) ∧ u.queue.map Entry.kept = s.queue.map Entry.kept)
    hp (fun _ _ h => h) (fun u m h => ?_) (fun u g h => ?_) (fun u e h => ?_) ⟨hg, hf, rfl⟩).2.2
  · obtain ⟨h1, h2, h3⟩ := h
    rcases evaluate_cases u m with e | ⟨rm, hm, hd, e | e⟩ <;> rw [e]
    · exact ⟨h1, h2, h3⟩
    · refine ⟨?_, fun f => ?_, ?_⟩
      · simp only [State.moveTo, hm]
        split <;> split <;> split <;> split <;> simp [State.offerUrgent, h1, Table.mapEach]
      · rw [moveTo_feeders hm f (.inl (by simp [hd])) (.inl (by simp))]
        exact h2 f
      · rw [moveTo_queue hm, if_neg (by simp [hd])]
        exact h3
    · exact ⟨h1, h2, h3⟩
  · have : u.testGroup g = u := by simp [State.testGroup, State.group, h.1]
    rwa [this]
  · obtain ⟨h1, h2, h3⟩ := h
    by_cases hq : u.stateOf e.load = some .queued
    · obtain ⟨r, hl, hst⟩ := stateOf_eq.mp hq
      have hno : u.waitReason r ≠ .none := fun h => by
        obtain ⟨-, hfree, -⟩ := waitReason_none h
        exact h2 _ hfree
      rw [examineEntry_of_queued hl hst, if_neg hno]
      refine ⟨h1, h2, ?_⟩
      rw [← h3]
      simp only [State.setReason_queue, List.map_map]
      refine List.map_congr_left (fun x _ => ?_)
      simp only [Function.comp]
      split <;> rfl
    · rw [examineEntry_of_not_queued hq]
      exact ⟨h1, h2, h3⟩

/-! ### START LOAD -/

theorem startOffer_of_stopped (hs : s.stateOf n = some .stopped) :
    (s.keepOff n = true → s.startOffer n = .barred)
      ∧ (s.keepOff n = false → 32 ≤ s.queue.length → s.startOffer n = .full)
      ∧ (s.keepOff n = false → s.queue.length < 32 → s.startOffer n = .entered) := by
  unfold State.startOffer
  refine ⟨fun hk => by simp [hk], fun hk hq => ?_, fun hk hq => ?_⟩
  · rw [if_pos ⟨hs, hk⟩, if_neg (by simp [Config.queueEntries]; omega)]
  · rw [if_pos ⟨hs, hk⟩, if_pos (by simp [Config.queueEntries]; omega)]

theorem entering_queued (r : LoadRecord) (now : Nat) : r.entering .queued now = { r with
    state := .queued, blockReason := .none, portStop := none, idleClock := 0, verifyEnd := none } := by
  simp [LoadRecord.entering, commandedOn]

/-- What a hand-off leaves of a QUEUED record: all of it, or the start granted (R63). -/
theorem HandedOn.queued {now : Nat} (h : HandedOn now r r') (hq : r.state = .queued) :
    r'.offSince = r.offSince ∧ r'.lastOutcome = r.lastOutcome
      ∧ ((r'.state = .queued ∧ r'.commanded = r.commanded ∧ r'.startCount = r.startCount)
        ∨ (r'.state = .starting ∧ r'.commanded = .run ∧ r'.startCount = r.startCount + 1
          ∧ r'.verifyEnd = some (now + r.tuning.startVerify))) := by
  rcases h with rfl | ⟨h, -⟩ | ⟨h, -⟩ | ⟨-, rfl⟩
  · exact ⟨rfl, rfl, .inl ⟨hq, rfl, rfl⟩⟩
  · simp [hq] at h
  · simp [hq] at h
  · rw [entering_starting]
    exact ⟨rfl, rfl, .inr ⟨rfl, rfl, rfl, rfl⟩⟩

/-- What a request that the queue enters leaves after the hand-offs of its step (R63, R123). -/
theorem settle_enqueue (hc : Canonical s) (hl : s.load n = some r) (hst : r.state = .stopped) (ht : t = s.settle (s.enqueue n cls) []) :
    n ∈ t.marks ∧ ∃ r', t.load n = some r' ∧ r'.offSince = r.offSince ∧ r'.lastOutcome = r.lastOutcome
      ∧ ((r'.state = .queued ∧ r'.commanded = r.commanded ∧ r'.startCount = r.startCount)
        ∨ (r'.state = .starting ∧ r'.commanded = .run ∧ r'.startCount = r.startCount + 1
          ∧ r'.verifyEnd = some (s.timeBase + r.tuning.startVerify)))
      ∧ (r'.state = .queued → ∃ e ∈ t.queue, e.load = n ∧ e.cls = cls ∧ e.sequence = s.arrivals ∧ e.queuedAt = s.timeBase) := by
  have hlu : (s.enqueue n cls).load n = some (r.entering .queued s.timeBase) := by rw [enqueue_load hl, if_pos rfl]
  have hcu : Table.Canonical 240 (s.enqueue n cls).loads :=
    moveTo_canonical (s := { s with queue := placeEntry (s.newEntry n cls) s.queue, arrivals := s.arrivals + 1 }) hc.loads
  have hmark : n ∈ (s.enqueue n cls).marks :=
    moveTo_marks_self (s := { s with queue := placeEntry (s.newEntry n cls) s.queue, arrivals := s.arrivals + 1 }) hl
  have htime : (s.enqueue n cls).timeBase = s.timeBase := (frozen_field (frozen_moveTo
    ({ s with queue := placeEntry (s.newEntry n cls) s.queue, arrivals := s.arrivals + 1 } : State) n .queued none)).1
  have hqueue : (s.enqueue n cls).queue = placeEntry (s.newEntry n cls) s.queue :=
    (moveTo_queue (s := { s with queue := placeEntry (s.newEntry n cls) s.queue, arrivals := s.arrivals + 1 }) (r := r) hl).trans
      (if_neg (by simp [hst]))
  have hq : Quiet (s.enqueue n cls) t := ht ▸ settle_quiet none_plain
  obtain ⟨r', hr', hh⟩ := hq.record hcu n _ hlu
  rw [htime, entering_queued] at hh
  obtain ⟨h1, h2, h3⟩ := hh.queued rfl
  have hreq : State.Requested n cls s.arrivals s.timeBase t := ht ▸ State.Requested.settled
    (.inl ⟨s.newEntry n cls, hqueue ▸ mem_placeEntry.mpr (.inl rfl), rfl, rfl, rfl, rfl⟩) none_plain
  refine ⟨hq.marks n hmark, r', hr', h1, h2, h3, fun hs => hreq.resolve_right (fun h => ?_)⟩
  simp [State.stateOf, hr', hs] at h

/-- In a part with no groups the request is the only arrival, and where no feeder is FREE nothing but it moves the queue (R123). -/
theorem settle_enqueue_call (hl : s.load n = some r) (hst : r.state = .stopped) (hg : s.groups = [])
    (ht : t = s.settle (s.enqueue n .call) []) :
    t.arrivals = s.arrivals + 1 ∧ (QueueLaw s → (∀ f : Fin 8, s.feeders[f] ≠ .free) →
      t.queue.map Entry.kept = (s.queue.filter (fun e => e.cls != .wake)).map Entry.kept
        ++ [(n, .call, s.arrivals, s.timeBase)] ++ (s.queue.filter (fun e => e.cls == .wake)).map Entry.kept) := by
  obtain ⟨u, hu⟩ : ∃ u : State, u = { s with queue := placeEntry (s.newEntry n .call) s.queue, arrivals := s.arrivals + 1 } := ⟨_, rfl⟩
  have hlu : u.load n = some r := by rw [hu]; exact hl
  have henq : s.enqueue n .call = u.moveTo n .queued none := by rw [hu]; rfl
  have hug : u.groups = [] := by rw [hu]; exact hg
  have hmove : (u.moveTo n .queued none).groups = [] ∧ (u.moveTo n .queued none).arrivals = s.arrivals + 1 := by
    have harr : u.arrivals = s.arrivals + 1 := by rw [hu]
    simp only [State.moveTo, hlu]
    split <;> split <;> split <;> split <;> simp [State.offerUrgent, hug, harr, Table.mapEach]
  rw [henq] at ht
  refine ⟨ht ▸ (arrivals_settled hmove.1 none_plain).trans hmove.2, fun hlaw hf => ?_⟩
  have hfeed : ∀ f : Fin 8, (u.moveTo n .queued none).feeders[f] ≠ .free := fun f => by
    rw [moveTo_feeders hlu f (.inl (by simp [hst])) (.inl (by simp)), hu]
    exact hf f
  rw [ht, queue_settled hmove.1 hfeed none_plain, moveTo_queue hlu, if_neg (by simp [hst]), hu]
  show (placeEntry (s.newEntry n .call) s.queue).map Entry.kept = _
  rw [placeEntry_call rfl hlaw.order]
  simp [Entry.kept, State.newEntry]

/-- Settles O19: a request that is entered is one move with its entry, which the hand-offs keep or grant. -/
theorem startLoadByState : Obligations.StartLoadByState := by
  unfold Obligations.StartLoadByState
  intro s n hc hs
  have hp := hs.commandParams rfl (by simp)
  refine ⟨fun hn => congrArg Host.Outcome.next (runCommand_refused hp hc (onLoad_bad hn)),
    fun hn hl => congrArg Host.Outcome.next (runCommand_refused hp hc (onLoad_vacant hn hl)), fun r hn hl => ?_⟩
  have refused : ∀ c, startLoadBody n.toNat r s = refuse s c → exec .startLoad s = .next (s.respond c []) := fun c h =>
    congrArg Host.Outcome.next (runCommand_refused hp hc ((onLoad_live hn hl).trans h))
  refine ⟨fun hst hk => refused _ ?_, fun hst hk hq => refused _ ?_, fun hst hk hq => ?_, fun hst => ?_, fun hst => refused _ ?_⟩
  · simp only [startLoadBody, hst, (startOffer_of_stopped (stateOf_eq.mpr ⟨r, hl, hst⟩)).1 hk]
  · simp only [startLoadBody, hst, (startOffer_of_stopped (stateOf_eq.mpr ⟨r, hl, hst⟩)).2.1 hk hq]
  · obtain ⟨t, ht⟩ : ∃ t, t = s.settle (s.enqueue n.toNat .call) [] := ⟨_, rfl⟩
    have hbody : onLoad startLoadBody [n] s = taken (s.enqueue n.toNat .call) [] := by
      rw [onLoad_live hn hl]
      simp only [startLoadBody, hst, (startOffer_of_stopped (stateOf_eq.mpr ⟨r, hl, hst⟩)).2.2 hk hq]
    obtain ⟨hmark, r', hr', hoff, hout, hstate, hentry⟩ := settle_enqueue hc hl hst ht
    refine ⟨t.respond .done [], r', congrArg Host.Outcome.next (ht ▸ runCommand_taken hp hbody), rfl, rfl, hmark, hr', hoff, hout, hstate, hentry,
      fun hg => (settle_enqueue_call hl hst hg ht).1, fun hg hlaw hf kept hkept => ?_⟩
    obtain rfl : kept = Entry.kept := funext hkept
    exact (settle_enqueue_call hl hst hg ht).2 hlaw hf
  · refine congrArg Host.Outcome.next (runCommand_written hp ((onLoad_live hn hl).trans ?_) (handoffs_self hc.loads))
    rcases hst with h | h | h | h | h <;> simp only [startLoadBody, h]
  · rcases hst with h | h | h | h | h <;> simp only [startLoadBody, h]

end Sys2Proof.Machine
end

section
/-! SUPPORT. The hand-offs of a new minute: the recomputation of the authority, the activations of the plans that start, and the offers of
their members (R89, R98, R136 to R140). First what each kind of them does to the state. -/

namespace Sys2Proof.Machine

variable {s t u v : State} {n m p : Nat} {r r' : LoadRecord} {w y : Work} {ws new : List Work} {ps : List Nat} {x : WakePlan} {c : PlantClock}
  {ms : List Nat}

/-! ### The wake guards and the authority -/

theorem guarded_iff (hc : Table.Canonical 4 s.plans) : s.guarded = true ↔ ∃ p x, s.plan p = some x ∧ x.guardEnd.isSome = true := by
  unfold State.guarded
  rw [List.any_eq_true]
  constructor
  · rintro ⟨e, he, hg⟩
    exact ⟨e.1, e.2, Table.find_of_mem hc he, hg⟩
  · rintro ⟨p, x, hp, hg⟩
    exact ⟨(p, x), Table.mem_of_find hp, hg⟩

theorem guarded_of_plan (hx : s.plan p = some x) (hg : x.guardEnd.isSome = true) : s.guarded = true :=
  List.any_eq_true.mpr ⟨(p, x), Table.mem_of_find hx, hg⟩

/-- R100: under a wake guard the authority is 0. -/
theorem computedAuthority_guarded (h : s.guarded = true) : s.computedAuthority = 0 := by
  unfold State.computedAuthority
  rw [if_pos h, ite_self]

/-- Of the plans the computed authority reads whether a wake guard runs (R97, R100). -/
theorem computedAuthority_of_guarded (hf : t.frozen = s.frozen) (hg : t.guarded = s.guarded) : t.computedAuthority = s.computedAuthority := by
  obtain ⟨-, -, hc, hd, ho, hy, hw, -⟩ := frozen_field hf
  have hcov : t.covering = s.covering := by simp only [State.covering, State.todayType, State.window, hc, hd, ho, hy, hw]
  simp only [State.computedAuthority, State.windowAuthority, hcov, hc, hg]

/-! ### One activation -/

theorem started_eq (s : State) (x : WakePlan) (hc : s.clock = some c) : s.planAfterSlot (s.activated x) = x.started c.day s.timeBase := by
  unfold State.planAfterSlot State.sameDay State.activated WakePlan.started WakePlan.slots
  simp [hc]

/-- R138, R140: an activation writes the plan as started, recomputes the authority under a guard, and leaves the members of slot 0 to be
offered. -/
theorem activate_eq (hx : s.plan p = some x) (hc : s.clock = some c) :
    s.activate p = (if x.guard = 0 then s.setPlan p (x.started c.day s.timeBase) else (s.setPlan p (x.started c.day s.timeBase)).recompute,
      [.offer (s.slotMembers p x 0)]) := by
  have hmembers : ∀ v : State, v.loads = s.loads → v.slotMembers p (s.activated x) (s.activated x).cursor = s.slotMembers p x 0 := fun v hv => by
    simp only [State.slotMembers, State.members, hv]
    rfl
  simp only [State.activate, hx]
  split
  · unfold State.fallSlot
    rw [show (s.setPlan p (s.activated x)).planAfterSlot (s.activated x) = s.planAfterSlot (s.activated x) from rfl, started_eq s x hc,
      hmembers (s.setPlan p (s.activated x)) rfl]
    simp only [State.setPlan, put_put]
  · rename_i hg
    have h1 : (s.setPlan p (s.activated x)).guarded = true :=
      guarded_of_plan (p := p) (x := s.activated x) (by simp) (by simp [State.activated, hg])
    have h2 : (s.setPlan p (x.started c.day s.timeBase)).guarded = true :=
      guarded_of_plan (p := p) (x := x.started c.day s.timeBase) (by simp) (by simp [WakePlan.started, hg])
    unfold State.fallSlot
    rw [show (s.setPlan p (s.activated x)).recompute.planAfterSlot (s.activated x) = s.planAfterSlot (s.activated x) from rfl, started_eq s x hc,
      hmembers (s.setPlan p (s.activated x)).recompute rfl]
    unfold State.recompute
    rw [computedAuthority_guarded h1, computedAuthority_guarded h2]
    simp only [State.setPlan, put_put]

theorem started_started (x : WakePlan) (d : Fin 7) (now : Nat) : (x.started d now).started d now = x.started d now := by
  unfold WakePlan.started
  by_cases h : x.guard = 0 <;> simp [h]

/-! ### One offer -/

/-- What an offer does to the record of its load: nothing unless it is STOPPED, and then an entry to QUEUED or the outcome of a start that is
missed (R140). -/
theorem offerWake_load (s : State) (n m : Nat) : (s.offerWake n).load m = s.load m
    ∨ (m = n ∧ ∃ r, s.load n = some r ∧ r.state = .stopped
      ∧ ((s.offerWake n).load m = some (r.entering .queued s.timeBase)
        ∨ (s.offerWake n).load m = some { r with lastOutcome := some { operation := .start, result := .missed, time := s.stamp } })) := by
  by_cases hm : m = n
  · subst hm
    rcases offerWake_cases s m with ⟨hst, -, -, e⟩ | ⟨hst, -, -, e⟩ | ⟨-, e⟩ <;> rw [e]
    · obtain ⟨r, hl, hs⟩ := stateOf_eq.mp hst
      exact .inr ⟨rfl, r, hl, hs, .inl (by rw [enqueue_load hl, if_pos rfl])⟩
    · obtain ⟨r, hl, hs⟩ := stateOf_eq.mp hst
      exact .inr ⟨rfl, r, hl, hs, .inr (by rw [writeOutcome_load hl, if_pos rfl])⟩
    · exact .inl rfl
  · exact .inl (offerWake_load_ne hm)

theorem enqueue_settled (s : State) (n : Nat) (cls : StartClass) : (s.enqueue n cls).frozen = s.frozen
    ∧ (s.enqueue n cls).plans = s.plans ∧ (s.enqueue n cls).authority = s.authority := by
  have h := moveTo_settled { s with queue := placeEntry (s.newEntry n cls) s.queue, arrivals := s.arrivals + 1 } n .queued none
  exact ⟨(frozen_moveTo _ n .queued none).trans (by rfl), h.1, h.2⟩

theorem offerWake_settled (s : State) (n : Nat) : (s.offerWake n).frozen = s.frozen ∧ (s.offerWake n).plans = s.plans
    ∧ (s.offerWake n).authority = s.authority := by
  rcases offerWake_cases s n with ⟨-, -, -, e⟩ | ⟨-, -, -, e⟩ | ⟨-, e⟩ <;> rw [e]
  · exact enqueue_settled s n .wake
  · unfold State.writeOutcome
    split <;> exact ⟨rfl, rfl, rfl⟩
  · exact ⟨rfl, rfl, rfl⟩

theorem offerWake_canonical (hc : Table.Canonical 240 s.loads) (n : Nat) : Table.Canonical 240 (s.offerWake n).loads := by
  rcases offerWake_cases s n with ⟨-, -, -, e⟩ | ⟨hst, -, -, e⟩ | ⟨-, e⟩ <;> rw [e]
  · exact moveTo_canonical (s := { s with queue := placeEntry (s.newEntry n .wake) s.queue, arrivals := s.arrivals + 1 }) hc
  · obtain ⟨r, hl, -⟩ := stateOf_eq.mp hst
    unfold State.writeOutcome
    rw [hl]
    exact Table.canonical_put hc (Table.lt_of_find hc hl) _
  · exact hc

/-! ### The loop from what waits -/

/-- What a loop keeps of what waits and of the state, reading of the list only which hand-offs it holds, where a hand-off is taken with at
least the evaluations and the offers it leaves. -/
structure Driven (I : List Work → State → Prop) : Prop where
  same : ∀ ws ws' s, (∀ w, w ∈ ws ↔ w ∈ ws') → I ws s → I ws' s
  idle : ∀ ws s, I ws s → I (ws.filter (fun w => !w.idle s)) s
  choice : ∀ ws s k, I ws s → I ws { s with choices := k }
  run : ∀ w ws new s, I (w :: ws) s → (∀ y ∈ new, y ∈ (w.run s).2 ++ handoffs s (w.run s).1) →
    (∀ y ∈ (w.run s).2 ++ dueHandoffs s (w.run s).1, y ∈ new) → I (new ++ ws) (w.run s).1
  left : ∀ w ws s, I (w :: ws) s → ∀ y ∈ (w.run s).2, ∃ ms, y = .offer ms
  offers : ∀ ms ws s, I (.offer ms :: ws) s → I ws (s.offerMembers ms)

theorem evaluate_dueHandoffs (hc : Table.Canonical 240 s.loads) (n : Nat) : dueHandoffs s (s.evaluate n) = [] := by
  have hq := (Quiet.refl s).evaluate n
  simp only [dueHandoffs, List.map_eq_nil_iff, List.filter_eq_nil_iff, Bool.and_eq_true, beq_iff_eq, Bool.or_eq_true, bne_iff_ne, hq.authority,
    ne_eq, not_true, false_or, not_and, not_not]
  intro e he hd
  have hl : (s.evaluate n).load e.1 = some e.2 := Table.find_of_mem (hq.canonical hc) he
  obtain ⟨r, hr, -, hh⟩ := hq.provides hc hl
  refine stateOf_eq.mpr ⟨r, hr, ?_⟩
  rcases hh.state with h | ⟨-, h⟩ | ⟨-, h | h⟩
  · exact h ▸ hd
  all_goals rw [hd] at h; simp at h

/-- Taken at the bound, a hand-off leaves its evaluations and its offers to be taken in its turn (log entry 3). -/
theorem Driven.finish {I : List Work → State → Prop} (h : Driven I) (hc : ∀ ws s, I ws s → Table.Canonical 240 s.loads) (hI : I (w :: ws) s) :
    I ws (w.finish s) := by
  have hleft : ∀ y ∈ (w.run s).2 ++ dueHandoffs s (w.run s).1, (∃ m, y = .evaluate m) ∨ ∃ ms, y = .offer ms := fun y hy =>
    (List.mem_append.mp hy).elim (fun hy => .inr (h.left w ws s hI y hy)) (fun hy => .inl (dueHandoffs_evaluate hy))
  have hrun : I (((w.run s).2 ++ dueHandoffs s (w.run s).1) ++ ws) (w.run s).1 := h.run w ws _ s hI
    (fun y hy => (List.mem_append.mp hy).elim (List.mem_append_left _) (fun hy => List.mem_append_right _ (dueHandoffs_mem hy))) (fun y hy => hy)
  unfold Work.finish
  generalize (w.run s).2 ++ dueHandoffs s (w.run s).1 = l at hleft hrun
  generalize (w.run s).1 = v at hrun
  induction l generalizing v with
  | nil => exact hrun
  | cons y rest ih =>
    refine ih (fun z hz => hleft z (List.mem_cons_of_mem _ hz)) _ ?_
    rcases hleft y List.mem_cons_self with ⟨m, rfl⟩ | ⟨ms, rfl⟩
    · have := h.run (.evaluate m) (rest ++ ws) [] v hrun (by simp) (fun y hy => by
        have hy : y ∈ [] ++ dueHandoffs v (v.evaluate m) := hy
        rw [evaluate_dueHandoffs (hc _ _ hrun)] at hy
        simp at hy)
      exact this
    · exact h.offers ms (rest ++ ws) v hrun

theorem Driven.settleLoop {I : List Work → State → Prop} (h : Driven I) (hc : ∀ ws s, I ws s → Table.Canonical 240 s.loads) (fuel : Nat)
    (hI : I ws s) : I [] (settleLoop fuel ws s) := by
  refine settleLoop_waiting (fun ws ws' s hp h1 => h.same ws ws' s (fun w => hp.mem_iff) h1) h.idle h.choice (fun w ws s h1 => ?_)
    (fun w ws s h1 => h.finish hc h1) fuel ws s hI
  have h2 := h.run w ws _ s h1 (fun y hy => hy)
    (fun y hy => (List.mem_append.mp hy).elim (List.mem_append_left _) (fun hy => List.mem_append_right _ (dueHandoffs_mem hy)))
  exact h.same _ _ _ (fun y => ⟨fun hy => mem_addWork_of (List.mem_append.mp hy).symm, fun hy => List.mem_append.mpr (mem_addWork hy).symm⟩) h2

/-! ### What a new minute leaves as it was -/

/-- Load `n` is a member of slot 0 of a plan that starts. -/
def State.OfferedAt (u : State) (ps : List Nat) (n : Nat) : Prop :=
  ∃ p ∈ ps, ∃ x r m, u.plan p = some x ∧ u.load n = some r ∧ r.membership = some m ∧ m.plan = p ∧ slotOf m.ordinal x.bits = 0

/-- What the hand-offs of a new minute keep of the state `u` they begin in. -/
structure MinuteFrame (u : State) (ps : List Nat) (v : State) : Prop where
  frozen : v.frozen = u.frozen
  canonical : Table.Canonical 240 v.loads
  vacant : ∀ n, u.load n = none → v.load n = none
  record : ∀ n r, u.load n = some r → ∃ r', v.load n = some r' ∧ r'.membership = r.membership ∧ r'.buttonHold = r.buttonHold
    ∧ r'.provides = r.provides ∧ (¬ u.OfferedAt ps n → HandedOn u.timeBase r r')

theorem HandedOn.membership {now : Nat} (h : HandedOn now r r') : r'.membership = r.membership := by
  rcases h with rfl | ⟨-, ⟨b, rfl⟩ | rfl⟩ | ⟨-, -, rfl | rfl⟩ | ⟨-, rfl⟩ <;> rfl

theorem MinuteFrame.timeBase (h : MinuteFrame u ps v) : v.timeBase = u.timeBase := (frozen_field h.frozen).1

theorem MinuteFrame.begin (hc : Table.Canonical 240 u.loads) : MinuteFrame u ps u :=
  ⟨rfl, hc, fun _ h => h, fun _ r h => ⟨r, h, rfl, rfl, rfl, fun _ => .inl rfl⟩⟩

theorem MinuteFrame.quiet (h : MinuteFrame u ps v) (hq : Quiet v t) : MinuteFrame u ps t := by
  refine ⟨hq.frozen.trans h.frozen, hq.canonical h.canonical, fun n hn => hq.vacant n (h.vacant n hn), fun n r hr => ?_⟩
  obtain ⟨r1, h1, hm, hb, hp, hh⟩ := h.record n r hr
  obtain ⟨r2, h2, hh2⟩ := hq.record h.canonical n r1 h1
  obtain ⟨hlinks, -, hb2, -⟩ := hh2.same
  rw [h.timeBase] at hh2
  exact ⟨r2, h2, hh2.membership.trans hm, hb2.trans hb, (congrArg Prod.fst hlinks).trans hp, fun ho => (hh ho).trans hh2⟩

theorem MinuteFrame.of_same (h : MinuteFrame u ps v) (hf : t.frozen = v.frozen) (hl : t.loads = v.loads) : MinuteFrame u ps t := by
  have hload : ∀ n, t.load n = v.load n := fun n => by unfold State.load; rw [hl]
  exact ⟨hf.trans h.frozen, hl ▸ h.canonical, fun n hn => (hload n).trans (h.vacant n hn), fun n r hr => by rw [hload]; exact h.record n r hr⟩

theorem MinuteFrame.offerWake (h : MinuteFrame u ps v) (ho : u.OfferedAt ps n) : MinuteFrame u ps (v.offerWake n) := by
  refine ⟨(offerWake_settled v n).1.trans h.frozen, offerWake_canonical h.canonical n, fun m hm => ?_, fun m r hr => ?_⟩
  · rcases offerWake_load v n m with e | ⟨rfl, r, hl, -⟩
    · exact e.trans (h.vacant m hm)
    · rw [h.vacant m hm] at hl; simp at hl
  · obtain ⟨r1, h1, hm, hb, hp, hh⟩ := h.record m r hr
    rcases offerWake_load v n m with e | ⟨rfl, r2, hl, -, e | e⟩
    · exact ⟨r1, e.trans h1, hm, hb, hp, hh⟩
    all_goals
      obtain rfl := Option.some.inj (h1.symm.trans hl)
      exact ⟨_, e, hm, hb, hp, fun hno => absurd ho hno⟩

theorem MinuteFrame.offerMembers (h : MinuteFrame u ps v) (ho : ∀ m ∈ ms, u.OfferedAt ps m) : MinuteFrame u ps (v.offerMembers ms) := by
  unfold State.offerMembers
  induction ms generalizing v with
  | nil => exact h
  | cons m rest ih => exact ih (h.offerWake (ho m List.mem_cons_self)) (fun k hk => ho k (List.mem_cons_of_mem _ hk))

/-! ### What may wait in a new minute -/

/-- The hand-offs of a new minute that starts the plans `ps`. -/
def MinuteWork (u : State) (ps : List Nat) : Work → Prop
  | .evaluate _ | .testGroup _ | .examine | .recompute => True
  | .activate p => p ∈ ps
  | .offer ms => ∀ m ∈ ms, u.OfferedAt ps m
  | .periodEnd _ => False

theorem minuteWork_of_plain (h : w.plain) : MinuteWork u ps w := by
  cases w <;> simp [Work.plain, MinuteWork] at h ⊢

/-- What becomes of the wake plans: each that starts waits for its activation or has started, and no other changes (R136, R138). -/
structure MinutePlans (u : State) (ps : List Nat) (c : PlantClock) (ws : List Work) (v : State) : Prop where
  canonical : Table.Canonical 4 v.plans
  each : ∀ p, v.plan p = u.plan p ∨ (p ∈ ps ∧ v.plan p = (u.plan p).map (fun x => x.started c.day u.timeBase))
  all : ∀ p ∈ ps, .activate p ∈ ws ∨ v.plan p = (u.plan p).map (fun x => x.started c.day u.timeBase)

/-- A plan has the slots it had. -/
theorem MinutePlans.bits (h : MinutePlans u ps c ws v) (hx : v.plan p = some x) : ∃ y, u.plan p = some y ∧ y.bits = x.bits
    ∧ x.started c.day u.timeBase = y.started c.day u.timeBase := by
  rcases h.each p with e | ⟨-, e⟩
  · exact ⟨x, e ▸ hx, rfl, rfl⟩
  · rw [e] at hx
    obtain ⟨y, hy, rfl⟩ := Option.map_eq_some_iff.mp hx
    exact ⟨y, hy, rfl, started_started y _ _⟩

/-- The members of a plan's slot 0 are those of the state the step began in (R140). -/
theorem offered_of_slotMembers (h : MinuteFrame u ps v) (hp : MinutePlans u ps c ws v) (hps : p ∈ ps) (hx : v.plan p = some x)
    (hn : n ∈ v.slotMembers p x 0) : u.OfferedAt ps n := by
  obtain ⟨e, he, rfl⟩ := List.mem_map.mp hn
  obtain ⟨he, hslot⟩ := List.mem_filter.mp he
  obtain ⟨⟨k, r'⟩, hk, hpair⟩ := List.mem_filterMap.mp he
  obtain ⟨m, hfilter, rfl⟩ := Option.map_eq_some_iff.mp hpair
  obtain ⟨hmem, hplan⟩ := Option.filter_eq_some_iff.mp hfilter
  have hl : v.load k = some r' := Table.find_of_mem h.canonical hk
  obtain ⟨y, hy, hbits, -⟩ := hp.bits hx
  cases hu : u.load k with
  | none => rw [h.vacant k hu] at hl; simp at hl
  | some r =>
    obtain ⟨r2, hr2, hmember, -⟩ := h.record k r hu
    obtain rfl := Option.some.inj (hl.symm.trans hr2)
    exact ⟨p, hps, y, r, m, hy, hu, hmember ▸ hmem, by simpa using hplan, by rw [hbits]; simpa using hslot⟩

/-! ### The authority in a new minute -/

/-- A change that leaves the authority and what it is computed from. -/
def AuthorityKept (v t : State) : Prop := t.authority = v.authority ∧ t.computedAuthority = v.computedAuthority ∧ t.guarded = v.guarded

/-- A recomputation: it ends no wake guard, and changes the computed authority only where one begins (R98, R100). -/
def AuthorityMade (v t : State) : Prop :=
  t.authority = t.computedAuthority ∧ (v.guarded = true → t.guarded = true)
    ∧ (v.authority = v.computedAuthority → t.guarded = v.guarded → t.authority = v.authority)

theorem authorityKept_of_settled (hf : t.frozen = v.frozen) (hp : t.plans = v.plans) (ha : t.authority = v.authority) : AuthorityKept v t := by
  have hg : t.guarded = v.guarded := by unfold State.guarded; rw [hp]
  exact ⟨ha, computedAuthority_of_guarded hf hg, hg⟩

theorem Quiet.authorityKept (h : Quiet v t) : AuthorityKept v t := authorityKept_of_settled h.frozen h.plans h.authority

theorem offerMembers_settled (s : State) (ms : List Nat) : (s.offerMembers ms).frozen = s.frozen ∧ (s.offerMembers ms).plans = s.plans
    ∧ (s.offerMembers ms).authority = s.authority := by
  unfold State.offerMembers
  induction ms generalizing s with
  | nil => exact ⟨rfl, rfl, rfl⟩
  | cons m rest ih =>
    obtain ⟨h1, h2, h3⟩ := ih (s.offerWake m)
    obtain ⟨g1, g2, g3⟩ := offerWake_settled s m
    exact ⟨h1.trans g1, h2.trans g2, h3.trans g3⟩

theorem recompute_made (v : State) : AuthorityMade v v.recompute :=
  ⟨rfl, id, fun h _ => h.symm⟩

theorem guarded_setPlan (hc : Table.Canonical 4 v.plans) (hx : v.plan p = some x) {y : WakePlan} (hy : y.guardEnd.isSome = x.guardEnd.isSome) :
    (v.setPlan p y).guarded = v.guarded := by
  have hc' : Table.Canonical 4 (v.setPlan p y).plans := Table.canonical_put hc (Table.lt_of_find hc hx) y
  rw [Bool.eq_iff_iff, guarded_iff hc, guarded_iff hc']
  refine exists_congr (fun q => ?_)
  rw [plan_setPlan]
  by_cases hq : q = p
  · subst hq; simp [hx, hy]
  · simp [hq]

theorem activate_authority (hc : Table.Canonical 4 v.plans) (hclk : v.clock = some c) (p : Nat) :
    AuthorityKept v (v.activate p).1 ∨ AuthorityMade v (v.activate p).1 := by
  cases hx : v.plan p with
  | none => exact .inl (by simp only [State.activate, hx]; exact ⟨rfl, rfl, rfl⟩)
  | some x =>
    rw [activate_eq hx hclk]
    by_cases hg : x.guard = 0
    · rw [if_pos hg]
      have hguard := guarded_setPlan hc hx (y := x.started c.day v.timeBase) (by simp [WakePlan.started, hg])
      exact .inl ⟨rfl, computedAuthority_of_guarded rfl hguard, hguard⟩
    · rw [if_neg hg]
      have hguard : (v.setPlan p (x.started c.day v.timeBase)).recompute.guarded = true :=
        guarded_of_plan (p := p) (x := x.started c.day v.timeBase) (by simp [State.plan, State.recompute, State.setPlan]) (by simp [WakePlan.started, hg])
      refine .inr ⟨rfl, fun _ => hguard, fun ha hgu => ?_⟩
      rw [ha, computedAuthority_guarded (hgu.symm.trans hguard)]
      exact computedAuthority_guarded (s := v.setPlan p (x.started c.day v.timeBase)) hguard

theorem run_offer_cases (s : State) (ms : List Nat) : (Work.run (.offer ms) s = (s, []) ∧ ms = [])
    ∨ (∃ m rest, ms = m :: rest ∧ Work.run (.offer ms) s = (s.offerWake m, [.offer rest]))
    ∨ Work.run (.offer ms) s = (s.offerMembers ms, []) := by
  cases ms with
  | nil => exact .inl ⟨rfl, rfl⟩
  | cons m rest =>
    right
    simp only [Work.run]
    split
    · exact .inl ⟨m, rest, rfl, rfl⟩
    · exact .inr rfl

/-- What each hand-off of a new minute does to the authority. -/
theorem authority_run (hw : MinuteWork u ps w) (hc : Table.Canonical 4 v.plans) (hclk : v.clock = some c) :
    AuthorityMade v (w.run v).1 ∨ (AuthorityKept v (w.run v).1 ∧ w ≠ .recompute) := by
  have plain : w.plain → AuthorityMade v (w.run v).1 ∨ (AuthorityKept v (w.run v).1 ∧ w ≠ .recompute) := fun hp =>
    .inr ⟨((Quiet.refl v).run hp).authorityKept, fun h => by rw [h] at hp; exact hp⟩
  cases w with
  | evaluate m => exact plain trivial
  | testGroup g => exact plain trivial
  | examine => exact plain trivial
  | recompute => exact .inl (recompute_made v)
  | periodEnd m => exact absurd hw (by simp [MinuteWork])
  | activate p => exact (activate_authority hc hclk p).symm.imp id (fun h => ⟨h, by simp⟩)
  | offer ms =>
    refine .inr ⟨?_, by simp⟩
    rcases run_offer_cases v ms with ⟨e, -⟩ | ⟨m, rest, -, e⟩ | e <;> rw [e]
    · exact ⟨rfl, rfl, rfl⟩
    · obtain ⟨h1, h2, h3⟩ := offerWake_settled v m
      exact authorityKept_of_settled h1 h2 h3
    · obtain ⟨h1, h2, h3⟩ := offerMembers_settled v ms
      exact authorityKept_of_settled h1 h2 h3

/-! ### A DUE record in a new minute -/

theorem offerMembers_still (hs : v.stateOf n = some .due ∨ v.stateOf n = some .stopping) (ms : List Nat) :
    (v.offerMembers ms).load n = v.load n := by
  unfold State.offerMembers
  induction ms generalizing v with
  | nil => rfl
  | cons m rest ih =>
    have h : (v.offerWake m).load n = v.load n := by
      rcases offerWake_load v m n with e | ⟨rfl, r, hl, hst, -⟩
      · exact e
      · rw [stateOf_eq.mpr ⟨r, hl, hst⟩] at hs; simp at hs
    have hs' : (v.offerWake m).stateOf n = some .due ∨ (v.offerWake m).stateOf n = some .stopping := by unfold State.stateOf; rwa [h]
    exact (ih hs').trans h

/-- No hand-off of a new minute but its own evaluation touches a DUE record, and none one in STOPPING. -/
theorem still_run (hw : MinuteWork u ps w) (hne : w ≠ .evaluate n ∨ v.stateOf n ≠ some .due)
    (hs : v.stateOf n = some .due ∨ v.stateOf n = some .stopping) : (w.run v).1.load n = v.load n := by
  have plain : w.plain → (w.run v).1.load n = v.load n := fun hp =>
    run_load_still hp hne (by rcases hs with h | h <;> simp [h]) (by rcases hs with h | h <;> simp [h])
  cases w with
  | evaluate m => exact plain trivial
  | testGroup g => exact plain trivial
  | examine => exact plain trivial
  | recompute => rfl
  | periodEnd m => exact absurd hw (by simp [MinuteWork])
  | activate p =>
    show (v.activate p).1.load n = v.load n
    unfold State.load
    rw [(activate_holds v p).1]
  | offer ms =>
    rcases run_offer_cases v ms with ⟨e, -⟩ | ⟨m, rest, rfl, e⟩ | e <;> rw [e]
    · exact offerMembers_still hs [m]
    · exact offerMembers_still hs ms

/-- R57, R110: a DUE record of a load that provides no group is handed to its evaluation by a change of the authority alone. -/
theorem evaluate_not_handed (hc : Table.Canonical 240 t.loads) (ha : t.authority = v.authority) (hd : v.stateOf n = some .due)
    (hl : t.load n = some r) (hp : r.provides = none) : .evaluate n ∉ handoffs v t := by
  intro hm
  simp only [handoffs, removalHandoffs, shortTests, barHandoffs, List.mem_append, List.mem_flatMap] at hm
  rcases hm with (((hm | ⟨g, -, hm⟩) | hm) | ⟨e, -, hm⟩) | hm
  · obtain ⟨e, he, heq⟩ := List.mem_map.mp hm
    obtain rfl : e.1 = n := by simpa using heq
    have := (List.mem_filter.mp he).2
    simp [ha, hd] at this
  · unfold groupHandoffs at hm
    split at hm
    · simp at hm
    · simp only [List.mem_append, List.mem_map, List.mem_filter, List.mem_singleton, reduceCtorEq, or_false] at hm
      rcases hm with ⟨q, ⟨hq, -⟩, heq⟩ | hm
      · obtain ⟨rq, pq, hlq, hpq, -⟩ := provider_record hc hq
        obtain rfl : q.load = n := by simpa using heq
        cases hl.symm.trans hlq
        rw [hp] at hpq
        simp at hpq
      · split at hm <;> simp at hm
  · split at hm <;> simp at hm
  · simp only [Option.mem_toList, Option.map_eq_some_iff, List.mem_singleton, reduceCtorEq, or_false, and_false, exists_false] at hm
  · split at hm <;> simp at hm

/-- What becomes of the record `r` of load `n`, DUE in `u`, in a new minute (R57, R98): where the authority has changed it waits for its
evaluation, or has been evaluated under the new one, or has entered STOPPING; for a load that provides no group the last of these
comes by such an evaluation too, unless a wake guard begins. -/
structure MinuteDue (u : State) (n : Nat) (r : LoadRecord) (ws : List Work) (v : State) : Prop where
  state : ∃ r', v.load n = some r' ∧ (r'.state = .stopping ∨ ∃ b, r' = { r with blockReason := b })
  judged : v.authority = u.authority ∨ .evaluate n ∈ ws ∨ v.stateOf n = some .stopping
    ∨ ∃ r', v.load n = some r' ∧ u.Judged v.authority n r r'
  guarded : u.guarded = true → v.guarded = true
  alone : r.provides = none → (.evaluate n ∉ ws ∧ v.load n = some r ∧ v.authority = u.authority)
    ∨ (v.authority = v.computedAuthority ∧ (v.guarded = u.guarded →
      (.evaluate n ∈ ws ∧ v.stateOf n = some .due) ∨ ∃ r', v.load n = some r' ∧ u.Judged v.authority n r r'))

theorem MinuteDue.begin (hl : u.load n = some r) (hn : .evaluate n ∉ ws) : MinuteDue u n r ws u :=
  ⟨⟨r, hl, .inr ⟨r.blockReason, rfl⟩⟩, .inl rfl, id, fun _ => .inl ⟨hn, hl, rfl⟩⟩

theorem MinuteDue.stateOf (h : MinuteDue u n r ws v) (hd : r.state = .due) : v.stateOf n = some .due ∨ v.stateOf n = some .stopping := by
  obtain ⟨r', hl, h | ⟨b, rfl⟩⟩ := h.state
  · exact .inr (stateOf_eq.mpr ⟨r', hl, h⟩)
  · exact .inl (stateOf_eq.mpr ⟨_, hl, hd⟩)

/-- A change that leaves the record and the authority. -/
theorem MinuteDue.kept {ws' : List Work} (h : MinuteDue u n r ws v) (hl : t.load n = v.load n) (ha : AuthorityKept v t)
    (hws : .evaluate n ∈ ws' ↔ .evaluate n ∈ ws) : MinuteDue u n r ws' t := by
  obtain ⟨ha, hcomp, hg⟩ := ha
  have hst : t.stateOf n = v.stateOf n := by unfold State.stateOf; rw [hl]
  refine ⟨by rw [hl]; exact h.state, ?_, fun hu => hg.trans (h.guarded hu), fun hp => ?_⟩
  · rw [ha, hws, hst, hl]; exact h.judged
  · rw [ha, hcomp, hg, hws, hst, hl]; exact h.alone hp

theorem MinuteDue.idle (h : MinuteDue u n r ws v) (hd : r.state = .due) : MinuteDue u n r (ws.filter (fun w => !w.idle v)) v := by
  have waits : .evaluate n ∈ ws → v.stateOf n = some .due → Work.evaluate n ∈ ws.filter (fun w => !w.idle v) := fun hm hs =>
    List.mem_filter.mpr ⟨hm, by simp [Work.idle, hs]⟩
  refine ⟨h.state, ?_, h.guarded, fun hp => ?_⟩
  · refine h.judged.imp id (fun h1 => ?_)
    rcases h1 with h1 | h1
    · exact (h.stateOf hd).elim (fun hs => .inl (waits h1 hs)) (fun hs => .inr (.inl hs))
    · exact .inr h1
  · exact (h.alone hp).imp (fun ⟨h1, h2⟩ => ⟨fun hm => h1 (List.mem_of_mem_filter hm), h2⟩)
      (fun ⟨h1, h2⟩ => ⟨h1, fun hg => (h2 hg).imp (fun ⟨hm, hs⟩ => ⟨waits hm hs, hs⟩) id⟩)

/-- The record's own evaluation, under the authority in force. -/
theorem MinuteDue.evaluate (h : MinuteDue u n r (.evaluate n :: ws) v) (hd : r.state = .due) (hk : v.keepRunLevels n = u.keepRunLevels n)
    (ht : v.timeBase = u.timeBase) (ws' : List Work) : MinuteDue u n r ws' (v.evaluate n) := by
  obtain ⟨ha, hcomp, hg⟩ := ((Quiet.refl v).evaluate n).authorityKept
  obtain ⟨r', hl, hst | ⟨b, rfl⟩⟩ := h.state
  · have hstop : v.stateOf n = some .stopping := stateOf_eq.mpr ⟨r', hl, hst⟩
    have he : v.evaluate n = v := by simp [State.evaluate, hl, hst]
    rw [he]
    refine ⟨⟨r', hl, .inl hst⟩, .inr (.inr (.inl hstop)), h.guarded, fun hp => .inr ?_⟩
    obtain ⟨h1, h2⟩ := (h.alone hp).resolve_left (fun h => h.1 List.mem_cons_self)
    exact ⟨h1, fun hgu => .inr ((h2 hgu).resolve_left (by simp [hstop]))⟩
  · obtain ⟨x, hx, hj⟩ := evaluate_judged hl hd
    have hj : u.Judged (v.evaluate n).authority n r x := ha.symm ▸ judged_congr hk ht hj
    have hstate : x.state = .stopping ∨ ∃ b, x = { r with blockReason := b } := by
      rw [evaluate_of_due hl hd] at hx
      split at hx
      · rw [moveTo_load_self hl, Option.some.injEq] at hx
        exact .inl (hx ▸ movedRecord_state ..)
      · rw [load_setLoad, if_pos rfl, Option.some.injEq] at hx
        exact .inr ⟨_, hx.symm⟩
    refine ⟨⟨x, hx, hstate⟩, .inr (.inr (.inr ⟨x, hx, hj⟩)), fun hu => hg.trans (h.guarded hu), fun hp => .inr ?_⟩
    obtain ⟨h1, -⟩ := (h.alone hp).resolve_left (fun h => h.1 List.mem_cons_self)
    exact ⟨by rw [ha, hcomp, h1], fun _ => .inr ⟨x, hx, hj⟩⟩

/-- Another hand-off: it calls for the evaluation where it changes the authority. -/
theorem MinuteDue.run (h : MinuteDue u n r (w :: ws) v) (hd : r.state = .due) (hw : MinuteWork u ps w) (hne : w ≠ .evaluate n)
    (hc : Table.Canonical 240 (w.run v).1.loads) (hauth : AuthorityMade v (w.run v).1 ∨ (AuthorityKept v (w.run v).1 ∧ w ≠ .recompute))
    (hleft : ∀ y ∈ (w.run v).2, ∃ ms, y = .offer ms) (hnew : ∀ y ∈ new, y ∈ (w.run v).2 ++ handoffs v (w.run v).1)
    (hdue : ∀ y ∈ (w.run v).2 ++ dueHandoffs v (w.run v).1, y ∈ new) : MinuteDue u n r (new ++ ws) (w.run v).1 := by
  have hst := h.stateOf hd
  have hl : (w.run v).1.load n = v.load n := still_run hw (.inl hne) hst
  have hs : (w.run v).1.stateOf n = v.stateOf n := by unfold State.stateOf; rw [hl]
  have hrest : .evaluate n ∈ w :: ws → .evaluate n ∈ new ++ ws := fun hm =>
    List.mem_append_right _ (List.mem_of_ne_of_mem (Ne.symm hne) hm)
  -- a change of the authority calls for the evaluation of a DUE record
  have called : (w.run v).1.authority ≠ v.authority → v.stateOf n = some .due → .evaluate n ∈ new ++ ws := fun hne hs' => by
    obtain ⟨r', hl', hd'⟩ := stateOf_eq.mp (hs.trans hs')
    refine List.mem_append_left _ (hdue _ (List.mem_append_right _ ?_))
    refine List.mem_map.mpr ⟨(n, r'), List.mem_filter.mpr ⟨Table.mem_of_find hl', ?_⟩, rfl⟩
    simp [hd', Ne.symm hne]
  -- and with the authority kept a load that provides no group is not evaluated
  have uncalled : (w.run v).1.authority = v.authority → v.load n = some r → r.provides = none → .evaluate n ∉ w :: ws → .evaluate n ∉ new ++ ws := by
    intro ha hr hp hno hm
    rcases List.mem_append.mp hm with hm | hm
    · rcases List.mem_append.mp (hnew _ hm) with hm | hm
      · obtain ⟨ms, h⟩ := hleft _ hm
        simp at h
      · exact evaluate_not_handed hc ha (stateOf_eq.mpr ⟨r, hr, hd⟩) (hl.trans hr) hp hm
    · exact hno (List.mem_cons_of_mem _ hm)
  have hguard : u.guarded = true → (w.run v).1.guarded = true := fun hu =>
    hauth.elim (fun h1 => h1.2.1 (h.guarded hu)) (fun h1 => h1.1.2.2.trans (h.guarded hu))
  refine ⟨by rw [hl]; exact h.state, ?_, hguard, fun hp => ?_⟩
  · by_cases ha : (w.run v).1.authority = v.authority
    · rw [ha, hs, hl]
      exact h.judged.imp id (fun h1 => h1.imp hrest id)
    · exact .inr (hst.elim (fun h1 => .inl (called ha h1)) (fun h1 => .inr (.inl (hs.trans h1))))
  · rcases h.alone hp with ⟨hno, hr, hau⟩ | ⟨hau, hrest'⟩
    · by_cases ha : (w.run v).1.authority = v.authority
      · exact .inl ⟨uncalled ha hr hp hno, hl.trans hr, ha.trans hau⟩
      · have hmade := hauth.resolve_right (fun h1 => ha h1.1.1)
        have hds : v.stateOf n = some .due := stateOf_eq.mpr ⟨r, hr, hd⟩
        exact .inr ⟨hmade.1, fun _ => .inl ⟨called ha hds, hs.trans hds⟩⟩
    · have carry : (w.run v).1.authority = v.authority → v.guarded = u.guarded →
          (.evaluate n ∈ new ++ ws ∧ (w.run v).1.stateOf n = some .due)
            ∨ ∃ r', (w.run v).1.load n = some r' ∧ u.Judged (w.run v).1.authority n r r' := fun ha hg => by
        rw [ha, hs, hl]
        exact (hrest' hg).imp (fun h1 => ⟨hrest h1.1, h1.2⟩) id
      rcases hauth with ⟨h1, h2, h3⟩ | ⟨⟨h1, h2, h3⟩, -⟩
      · refine .inr ⟨h1, fun hg => ?_⟩
        have hvg : v.guarded = u.guarded := by
          cases hu : u.guarded with
          | true => exact h.guarded hu
          | false =>
            rw [hu] at hg
            exact Bool.eq_false_iff.mpr (fun hv => by rw [h2 hv] at hg; simp at hg)
        exact carry (h3 hau (hg.trans hvg.symm)) hvg
      · exact .inr ⟨by rw [h1, h2, hau], fun hg => carry h1 (h3.symm.trans hg)⟩

end Sys2Proof.Machine
end

section
/-! SUPPORT. A new minute or a setting of the clock from its hand-offs to its end: one invariant of the loop, and what it says of the state the
step answers (R89, R90, R98, R136 to R140). -/

namespace Sys2Proof.Machine

variable {s t u v : State} {n m p : Nat} {r r' : LoadRecord} {w y : Work} {ws ws' new : List Work} {ps : List Nat} {x : WakePlan} {c : PlantClock}
  {ms : List Nat}

/-! ### Each hand-off -/

theorem minute_left (hw : MinuteWork u ps w) (hclk : v.clock = some c) : ∀ y ∈ (w.run v).2, ∃ ms, y = .offer ms := by
  have none_left : (w.run v).2 = [] → ∀ y ∈ (w.run v).2, ∃ ms, y = .offer ms := fun h => by simp [h]
  cases w with
  | evaluate m => exact none_left rfl
  | testGroup g => exact none_left rfl
  | examine => exact none_left rfl
  | recompute => exact none_left rfl
  | periodEnd m => exact absurd hw (by simp [MinuteWork])
  | activate p =>
    show ∀ y ∈ (v.activate p).2, _
    cases hx : v.plan p with
    | none => simp [State.activate, hx]
    | some x => simp [activate_eq hx hclk]
  | offer ms =>
    rcases run_offer_cases v ms with ⟨e, -⟩ | ⟨m, rest, -, e⟩ | e <;> rw [e] <;> simp

/-- What a hand-off leaves may wait in a new minute too: an activation leaves the members of slot 0, an offer those after the first. -/
theorem minuteWork_left (h : MinuteFrame u ps v) (hp : MinutePlans u ps c ws v) (hw : MinuteWork u ps w) (hclk : v.clock = some c) :
    ∀ y ∈ (w.run v).2, MinuteWork u ps y := by
  have none_left : (w.run v).2 = [] → ∀ y ∈ (w.run v).2, MinuteWork u ps y := fun h => by simp [h]
  cases w with
  | evaluate m => exact none_left rfl
  | testGroup g => exact none_left rfl
  | examine => exact none_left rfl
  | recompute => exact none_left rfl
  | periodEnd m => exact absurd hw (by simp [MinuteWork])
  | activate p =>
    show ∀ y ∈ (v.activate p).2, _
    cases hx : v.plan p with
    | none => simp [State.activate, hx]
    | some x =>
      rw [activate_eq hx hclk]
      simp only [List.mem_singleton, forall_eq]
      exact fun m hm => offered_of_slotMembers h hp hw hx hm
  | offer ms =>
    rcases run_offer_cases v ms with ⟨e, -⟩ | ⟨m, rest, rfl, e⟩ | e <;> rw [e]
    · simp
    · simp only [List.mem_singleton, forall_eq]
      exact fun k hk => hw k (List.mem_cons_of_mem _ hk)
    · simp

theorem activate_frozen (v : State) (p : Nat) : (v.activate p).1.frozen = v.frozen := by
  unfold State.activate
  split
  · rfl
  · dsimp only [State.fallSlot]
    split <;> rfl

theorem MinuteFrame.run (h : MinuteFrame u ps v) (hw : MinuteWork u ps w) : MinuteFrame u ps (w.run v).1 := by
  have plain : w.plain → MinuteFrame u ps (w.run v).1 := fun hp => h.quiet ((Quiet.refl v).run hp)
  cases w with
  | evaluate m => exact plain trivial
  | testGroup g => exact plain trivial
  | examine => exact plain trivial
  | recompute => exact h.of_same rfl rfl
  | periodEnd m => exact absurd hw (by simp [MinuteWork])
  | activate p => exact h.of_same (activate_frozen v p) (activate_holds v p).1
  | offer ms =>
    rcases run_offer_cases v ms with ⟨e, -⟩ | ⟨m, rest, rfl, e⟩ | e <;> rw [e]
    · exact h
    · exact h.offerWake (hw m List.mem_cons_self)
    · exact h.offerMembers hw

theorem MinutePlans.of_same (h : MinutePlans u ps c ws v) (hp : t.plans = v.plans) (hws : ∀ p ∈ ps, .activate p ∈ ws → .activate p ∈ ws') :
    MinutePlans u ps c ws' t := by
  have hplan : ∀ p, t.plan p = v.plan p := fun p => by unfold State.plan; rw [hp]
  exact ⟨hp ▸ h.canonical, fun p => hplan p ▸ h.each p, fun p hps => hplan p ▸ (h.all p hps).imp (hws p hps) id⟩

/-- R138: an activation writes its plan as started. -/
theorem MinutePlans.activate (h : MinutePlans u ps c (.activate p :: ws) v) (hps : p ∈ ps) (hclk : v.clock = some c)
    (ht : v.timeBase = u.timeBase) : MinutePlans u ps c ws (v.activate p).1 := by
  have waits : ∀ q ∈ ps, q ≠ p → .activate q ∈ ws ∨ v.plan q = (u.plan q).map (fun x => x.started c.day u.timeBase) := fun q hq hne =>
    (h.all q hq).imp (fun hm => List.mem_of_ne_of_mem (by simpa using hne) hm) id
  cases hx : v.plan p with
  | none =>
    have hu : u.plan p = none := by
      rcases h.each p with e | ⟨-, e⟩
      · exact e.symm.trans hx
      · simpa [hx] using e
    rw [show (v.activate p).1 = v by simp [State.activate, hx]]
    refine ⟨h.canonical, h.each, fun q hq => ?_⟩
    by_cases hqp : q = p
    · exact .inr (by rw [hqp, hx, hu]; rfl)
    · exact waits q hq hqp
  | some x =>
    obtain ⟨y, hy, -, hst⟩ := h.bits hx
    have hplans : (v.activate p).1.plans = (v.setPlan p (x.started c.day v.timeBase)).plans := by
      rw [activate_eq hx hclk]
      split <;> rfl
    have hplan : ∀ q, (v.activate p).1.plan q = if q = p then some (y.started c.day u.timeBase) else v.plan q := fun q => by
      have := plan_setPlan (s := v) (p := p) (x := x.started c.day v.timeBase) (q := q)
      rw [ht, hst] at this
      unfold State.plan at this ⊢
      rw [hplans, ht, hst]
      exact this
    refine ⟨hplans ▸ Table.canonical_put h.canonical (Table.lt_of_find h.canonical hx) _, fun q => ?_, fun q hq => ?_⟩
    · rw [hplan]
      by_cases hqp : q = p
      · rw [if_pos hqp, hqp, hy]
        exact .inr ⟨hps, rfl⟩
      · rw [if_neg hqp]
        exact h.each q
    · rw [hplan]
      by_cases hqp : q = p
      · rw [if_pos hqp, hqp, hy]
        exact .inr rfl
      · rw [if_neg hqp]
        exact waits q hq hqp

theorem MinutePlans.run (h : MinutePlans u ps c (w :: ws) v) (hw : MinuteWork u ps w) (hclk : v.clock = some c) (ht : v.timeBase = u.timeBase)
    (hrest : ∀ y ∈ ws, y ∈ ws') : MinutePlans u ps c ws' (w.run v).1 := by
  have kept : (∀ p, w ≠ .activate p) → (w.run v).1.plans = v.plans → MinutePlans u ps c ws' (w.run v).1 := fun hne hp =>
    h.of_same hp (fun p _ hm => hrest _ (List.mem_of_ne_of_mem (fun e => hne p e.symm) hm))
  have plain : w.plain → (∀ p, w ≠ .activate p) → MinutePlans u ps c ws' (w.run v).1 := fun hp hne => kept hne ((Quiet.refl v).run hp).plans
  cases w with
  | evaluate m => exact plain trivial (by simp)
  | testGroup g => exact plain trivial (by simp)
  | examine => exact plain trivial (by simp)
  | recompute => exact kept (by simp) rfl
  | periodEnd m => exact absurd hw (by simp [MinuteWork])
  | activate p => exact (h.activate hw hclk ht).of_same rfl (fun _ _ hm => hrest _ hm)
  | offer ms =>
    refine kept (by simp) ?_
    rcases run_offer_cases v ms with ⟨e, -⟩ | ⟨m, rest, rfl, e⟩ | e <;> rw [e]
    · exact (offerWake_settled v m).2.1
    · exact (offerMembers_settled v ms).2.1

theorem MinuteFrame.keepRunLevels (h : MinuteFrame u ps v) (hl : u.load n = some r) : v.keepRunLevels n = u.keepRunLevels n := by
  obtain ⟨-, -, -, -, -, -, -, -, -, -, -, hh, -⟩ := frozen_field h.frozen
  obtain ⟨r', hl', -, hb, -⟩ := h.record n r hl
  exact keepRunLevels_congr hh (by rw [hl, hl', Option.map_some, Option.map_some, hb])

/-! ### The hand-offs together -/

/-- The invariant of the hand-offs `ws` that wait in a new minute, begun in the state `u` at the plant clock `c`, which starts the plans `ps`. -/
structure MinuteTaken (u : State) (ps : List Nat) (c : PlantClock) (ws : List Work) (v : State) : Prop where
  frame : MinuteFrame u ps v
  plans : MinutePlans u ps c ws v
  work : ∀ w ∈ ws, MinuteWork u ps w
  authority : .recompute ∈ ws ∨ v.authority = v.computedAuthority
  due : ∀ n r, u.load n = some r → r.state = .due → MinuteDue u n r ws v

theorem MinuteTaken.clock (h : MinuteTaken u ps c ws v) (hclk : u.clock = some c) : v.clock = some c := by
  obtain ⟨-, -, hc, -⟩ := frozen_field h.frame.frozen
  exact hc.trans hclk

theorem MinuteTaken.same (h : MinuteTaken u ps c ws v) (hm : ∀ w, w ∈ ws ↔ w ∈ ws') : MinuteTaken u ps c ws' v where
  frame := h.frame
  plans := h.plans.of_same rfl (fun _ _ => (hm _).mp)
  work w hw := h.work w ((hm w).mpr hw)
  authority := h.authority.imp (hm _).mp id
  due n r hl hd := (h.due n r hl hd).kept rfl ⟨rfl, rfl, rfl⟩ (hm _).symm

theorem MinuteTaken.choice (h : MinuteTaken u ps c ws v) (k : Nat) : MinuteTaken u ps c ws { v with choices := k } where
  frame := h.frame.of_same rfl rfl
  plans := h.plans.of_same rfl (fun _ _ => id)
  work := h.work
  authority := h.authority
  due n r hl hd := (h.due n r hl hd).kept rfl ⟨rfl, rfl, rfl⟩ Iff.rfl

/-- What has nothing to do is passed over: a recomputation only where the authority is the computed one, an activation only where there is no
plan. -/
theorem MinuteTaken.idle (h : MinuteTaken u ps c ws v) : MinuteTaken u ps c (ws.filter (fun w => !w.idle v)) v where
  frame := h.frame
  plans := by
    refine ⟨h.plans.canonical, h.plans.each, fun p hp => ?_⟩
    rcases h.plans.all p hp with hm | e
    · cases hx : v.plan p with
      | none =>
        right
        rcases h.plans.each p with e | ⟨-, e⟩
        · rw [← e, hx]; rfl
        · exact hx ▸ e
      | some x => exact .inl (List.mem_filter.mpr ⟨hm, by simp [Work.idle, hx]⟩)
    · exact .inr e
  work w hw := h.work w (List.mem_of_mem_filter hw)
  authority := by
    by_cases ha : v.authority = v.computedAuthority
    · exact .inr ha
    · exact h.authority.imp (fun hm => List.mem_filter.mpr ⟨hm, by simp [Work.idle, ha]⟩) id
  due n r hl hd := (h.due n r hl hd).idle hd

theorem MinuteTaken.run (h : MinuteTaken u ps c (w :: ws) v) (hclk : u.clock = some c)
    (hnew : ∀ y ∈ new, y ∈ (w.run v).2 ++ handoffs v (w.run v).1) (hdue : ∀ y ∈ (w.run v).2 ++ dueHandoffs v (w.run v).1, y ∈ new) :
    MinuteTaken u ps c (new ++ ws) (w.run v).1 := by
  have hw : MinuteWork u ps w := h.work w List.mem_cons_self
  have hvclk := h.clock hclk
  have hframe := h.frame.run hw
  have hauth := authority_run hw h.plans.canonical hvclk
  refine ⟨hframe, h.plans.run hw hvclk h.frame.timeBase (fun y hy => List.mem_append_right _ hy), fun y hy => ?_, ?_, fun n r hl hd => ?_⟩
  · rcases List.mem_append.mp hy with hy | hy
    · rcases List.mem_append.mp (hnew y hy) with hy | hy
      · exact minuteWork_left h.frame h.plans hw hvclk y hy
      · exact minuteWork_of_plain (handoffs_plain _ _ y hy)
    · exact h.work y (List.mem_cons_of_mem _ hy)
  · rcases hauth with hmade | ⟨⟨ha, hcomp, -⟩, hne⟩
    · exact .inr hmade.1
    · rw [ha, hcomp]
      exact h.authority.imp (fun hm => List.mem_append_right _ (List.mem_of_ne_of_mem (Ne.symm hne) hm)) id
  · by_cases hne : w = .evaluate n
    · subst hne
      exact (h.due n r hl hd).evaluate hd (h.frame.keepRunLevels hl) h.frame.timeBase _
    · exact (h.due n r hl hd).run hd hw hne hframe.canonical hauth (minute_left hw hvclk) hnew hdue

theorem MinuteTaken.offers (h : MinuteTaken u ps c (.offer ms :: ws) v) : MinuteTaken u ps c ws (v.offerMembers ms) := by
  obtain ⟨hf, hp, ha⟩ := offerMembers_settled v ms
  have hkept := authorityKept_of_settled hf hp ha
  refine ⟨h.frame.offerMembers (h.work _ List.mem_cons_self), h.plans.of_same hp (fun _ _ hm => List.mem_of_ne_of_mem (by simp) hm),
    fun w hw => h.work w (List.mem_cons_of_mem _ hw), ?_, fun n r hl hd => ?_⟩
  · rw [hkept.1, hkept.2.1]
    exact h.authority.imp (fun hm => List.mem_of_ne_of_mem (by simp) hm) id
  · have hdue := h.due n r hl hd
    exact hdue.kept (offerMembers_still (hdue.stateOf hd) ms) hkept (by simp)

theorem minute_driven (hclk : u.clock = some c) : Driven (MinuteTaken u ps c) where
  same _ _ _ hm h := h.same hm
  idle _ _ h := h.idle
  choice _ _ k h := h.choice k
  run _ _ _ _ h hnew hdue := h.run hclk hnew hdue
  left _ _ _ h := minute_left (h.work _ List.mem_cons_self) (h.clock hclk)
  offers _ _ _ h := h.offers

/-- R89, R98, R136: a step that recomputes the authority and activates the plans `ps`, from the state `u` that it has written. -/
theorem settle_minute (hl : Table.Canonical 240 u.loads) (hp : Table.Canonical 4 u.plans) (hclk : u.clock = some c) (hh : handoffs s u = []) :
    MinuteTaken u ps c [] (s.settle u (.recompute :: ps.map .activate)) := by
  have hwork : ∀ w, w ∈ addWork [] ((.recompute :: ps.map .activate) ++ handoffs s u) → w = .recompute ∨ ∃ p ∈ ps, w = .activate p := fun w hw => by
    have := mem_addWork hw
    simp only [hh, List.append_nil, List.not_mem_nil, false_or, List.mem_cons, List.mem_map] at this
    exact this.imp id (fun ⟨p, hp, e⟩ => ⟨p, hp, e.symm⟩)
  have hin : ∀ w ∈ Work.recompute :: ps.map .activate, w ∈ addWork [] ((.recompute :: ps.map .activate) ++ handoffs s u) := fun w hw =>
    mem_addWork_of (.inr (List.mem_append_left _ hw))
  unfold State.settle
  refine (minute_driven hclk).settleLoop (fun _ _ h => h.frame.canonical) _
    ⟨.begin hl, ⟨hp, fun _ => .inl rfl, fun p hps => .inl (hin _ (List.mem_cons_of_mem _ (List.mem_map_of_mem hps)))⟩, fun w hw => ?_,
      .inl (hin _ List.mem_cons_self), fun n r hr hd => .begin hr (fun hm => ?_)⟩
  · rcases hwork w hw with rfl | ⟨p, hps, rfl⟩
    · trivial
    · exact hps
  · rcases hwork _ hm with h | ⟨p, -, h⟩ <;> simp at h

end Sys2Proof.Machine
end

section
/-! PROPERTY. O34: a new minute or a midnight (R89, R98, R136, R138, R140). -/

namespace Sys2Proof.Machine

variable {s t u v : State} {n m p : Nat} {r r' : LoadRecord} {ps : List Nat} {x : WakePlan} {c old : PlantClock} {type : DayType}

/-! ### The end of the step -/

theorem MinuteTaken.computed (h : MinuteTaken u ps c [] t) : t.authority = t.computedAuthority :=
  h.authority.resolve_left (by simp)

theorem MinuteTaken.plan_started (h : MinuteTaken u ps c [] t) (hp : p ∈ ps) (hx : u.plan p = some x) :
    t.plan p = some (x.started c.day u.timeBase) := by
  rw [(h.plans.all p hp).resolve_left (by simp), hx, Option.map_some]

theorem MinuteTaken.plan_kept (h : MinuteTaken u ps c [] t) (hp : p ∉ ps) : t.plan p = u.plan p :=
  (h.plans.each p).resolve_right (fun ⟨hm, _⟩ => hp hm)

/-- R100: a plan that starts with a guard puts the authority at 0. -/
theorem MinuteTaken.authority_zero (h : MinuteTaken u ps c [] t) (hp : p ∈ ps) (hx : u.plan p = some x) (hg : x.guard ≠ 0) : t.authority = 0 := by
  rw [h.computed]
  exact computedAuthority_guarded (guarded_of_plan (h.plan_started hp hx) (by simp [WakePlan.started, hg]))

theorem MinuteTaken.handedOn (h : MinuteTaken u ps c [] t) (hl : u.load n = some r) (ho : ¬ u.OfferedAt ps n) :
    ∃ r', t.load n = some r' ∧ HandedOn u.timeBase r r' := by
  obtain ⟨r', hr', -, -, -, hh⟩ := h.frame.record n r hl
  exact ⟨r', hr', hh ho⟩

/-- R57, R98: at a new authority every DUE record has been evaluated, for a step that began in `s` and wrote `u` before its hand-offs. -/
theorem MinuteTaken.due_judged (h : MinuteTaken u ps c [] t) (hl : u.loads = s.loads) (hh : u.holds = s.holds) (ht : u.timeBase = s.timeBase)
    (ha : u.authority = s.authority) (hg : u.guarded = s.guarded) (hne : t.authority ≠ s.authority) (hr : s.load n = some r) (hd : r.state = .due) :
    ∃ r', t.load n = some r' ∧ (s.Judged t.authority n r r' ∨ r'.state = .stopping)
      ∧ (r.provides = none → t.guarded = s.guarded → s.Judged t.authority n r r') := by
  have hload : u.load n = s.load n := by unfold State.load; rw [hl]
  have hk : u.keepRunLevels n = s.keepRunLevels n := keepRunLevels_congr hh (congrArg _ hload)
  have hdue := h.due n r (hload.trans hr) hd
  have hne' : t.authority ≠ u.authority := ha ▸ hne
  have unique : ∀ r1 r2, t.load n = some r1 → t.load n = some r2 → r1 = r2 := fun r1 r2 h1 h2 => Option.some.inj (h1.symm.trans h2)
  obtain ⟨r', hr', hst⟩ : ∃ r', t.load n = some r' ∧ (s.Judged t.authority n r r' ∨ r'.state = .stopping) := by
    rcases hdue.judged with h1 | h1 | h1 | ⟨r', hr', hj⟩
    · exact absurd h1 hne'
    · simp at h1
    · obtain ⟨r', hr', hs⟩ := stateOf_eq.mp h1
      exact ⟨r', hr', .inr hs⟩
    · exact ⟨r', hr', .inl (judged_congr hk ht hj)⟩
  refine ⟨r', hr', hst, fun hp hgu => ?_⟩
  obtain ⟨-, h2⟩ := (hdue.alone hp).resolve_left (fun h1 => hne' h1.2.2)
  obtain ⟨r2, hr2, hj⟩ := (h2 (hgu.trans hg.symm)).resolve_left (by simp)
  exact unique _ _ hr2 hr' ▸ judged_congr hk ht hj

/-! ### The plans that start -/

theorem plan_iff_mem (hc : Table.Canonical 4 s.plans) : (p, x) ∈ s.plans ↔ s.plan p = some x := Table.mem_iff_find hc p x

theorem mem_plansStarting (hc : Table.Canonical 4 s.plans) (ht : s.todayType = some type) : p ∈ s.plansStarting m ↔
    ∃ x, s.plan p = some x ∧ x.state = .waiting ∧ x.start = m ∧ x.mask.getLsbD type.code = true := by
  unfold State.plansStarting
  simp [ht, plan_iff_mem hc, WakePlan.contains, and_assoc]

/-- The plans that start, named by the rule, are those the step activates. -/
theorem starts_iff {Starts : Nat → WakePlan → Prop} {P : WakePlan → Prop} (hst : ∀ p x, Starts p x ↔ u.plan p = some x ∧ P x)
    (hps : ∀ p, p ∈ ps ↔ ∃ x, u.plan p = some x ∧ P x) :
    (∀ p x, Starts p x → p ∈ ps ∧ u.plan p = some x) ∧ ∀ p, (∀ x, ¬ Starts p x) → p ∉ ps :=
  ⟨fun p x h => ⟨(hps p).mpr ⟨x, (hst p x).mp h⟩, ((hst p x).mp h).1⟩, fun p h hm => by
    obtain ⟨x, hx⟩ := (hps p).mp hm
    exact h x ((hst p x).mpr hx)⟩

/-! ### The new minute -/

/-- The plant clock after its second is carried (R89). -/
def PlantClock.carried (c : PlantClock) : PlantClock := if c.minute < 1439 then c.nextMinute else c.nextDay

theorem carry_clock (s : State) (c : PlantClock) : (s.carry c).clock = some c.carried := by
  unfold State.carry PlantClock.carried
  split <;> rfl

/-- What a carry leaves as it was: everything but the plant calendar and the plans. -/
theorem carry_same (s : State) (c : PlantClock) : (s.carry c).loads = s.loads ∧ (s.carry c).holds = s.holds
    ∧ (s.carry c).groups = s.groups ∧ (s.carry c).queue = s.queue ∧ (s.carry c).feeders = s.feeders
    ∧ (s.carry c).authority = s.authority ∧ (s.carry c).timeBase = s.timeBase ∧ (s.carry c).executing = s.executing := by
  unfold State.carry
  split <;> exact ⟨rfl, rfl, rfl, rfl, rfl, rfl, rfl, rfl⟩

theorem carry_plans (hc : Table.Canonical 4 s.plans) (c : PlantClock) : Table.Canonical 4 (s.carry c).plans := by
  unfold State.carry
  split
  · exact hc
  · exact Table.canonical_mapEach hc (fun _ x => x.newDay)

theorem guarded_mapEach {f : Nat → WakePlan → WakePlan} (hf : ∀ p x, (f p x).guardEnd = x.guardEnd) (hu : u.plans = Table.mapEach f s.plans) :
    u.guarded = s.guarded := by
  unfold State.guarded
  rw [hu]
  simp [Table.mapEach, List.any_map, Function.comp_def, hf]

theorem carry_guarded (s : State) (c : PlantClock) : (s.carry c).guarded = s.guarded := by
  unfold State.carry
  split
  · rfl
  · exact guarded_mapEach (f := fun _ x => x.newDay) (fun _ x => by unfold WakePlan.newDay; split <;> rfl) rfl

theorem newMinute_taken (hl : Table.Canonical 240 s.loads) (hp : Table.Canonical 4 s.plans) (c : PlantClock) :
    MinuteTaken (s.carry c) ((s.carry c).plansStarting (if c.minute < 1439 then c.minute + 1 else 0)) c.carried [] (s.newMinute c) := by
  obtain ⟨h1, h2, h3, h4, h5, h6, -⟩ := carry_same s c
  exact settle_minute (h1 ▸ hl) (carry_plans hp c) (carry_clock s c) (handoffs_elsewhere hl h1 h6 h2 h3 h4 h5)

/-- The row that carries a second which has reached 60. -/
theorem exec_carry {i : Instr} (hclk : s.clock = some c) (h60 : 60 ≤ c.second)
    (hi : (i = .plantClockMinute ∧ c.minute < 1439) ∨ (i = .midnight ∧ 1439 ≤ c.minute)) : exec i s = .next (s.newMinute c) := by
  rcases hi with ⟨rfl, hm⟩ | ⟨rfl, hm⟩
  · show execPlantClockMinute s = _
    simp only [execPlantClockMinute, hclk, h60, hm, and_self, if_true]
  · show execMidnight s = _
    simp only [execMidnight, hclk, h60, hm, and_self, if_true]

/-- Settles O34: the carry of the second, and the hand-offs of a new minute. -/
theorem newMinuteReachesPlans : Obligations.NewMinuteReachesPlans := by
  unfold Obligations.NewMinuteReachesPlans
  intro s c i day minute type before hc hclk h60 hkind Starts hstarts
  obtain ⟨hi, hday, hminute, htype, hbefore⟩ : ((i = .plantClockMinute ∧ c.minute < 1439) ∨ (i = .midnight ∧ 1439 ≤ c.minute))
      ∧ day = c.carried.day ∧ minute = (if c.minute < 1439 then c.minute + 1 else 0) ∧ (s.carry c).todayType = some type
      ∧ ∀ p, before p = (s.carry c).plan p := by
    rcases hkind with ⟨rfl, hm, rfl, rfl, rfl, hb⟩ | ⟨rfl, hm, rfl, rfl, rfl, hb⟩
    · refine ⟨.inl ⟨rfl, hm⟩, ?_, (if_pos hm).symm, ?_, fun p => (hb p).trans ?_⟩
      · rw [PlantClock.carried, if_pos hm]; rfl
      · rw [State.carry, if_pos hm]; rfl
      · rw [State.carry, if_pos hm]; rfl
    · have hm' : ¬ c.minute < 1439 := by omega
      refine ⟨.inr ⟨rfl, hm⟩, ?_, (if_neg hm').symm, ?_, fun p => (hb p).trans ?_⟩
      · rw [PlantClock.carried, if_neg hm']; rfl
      · rw [State.carry, if_neg hm']; rfl
      · rw [State.carry, if_neg hm']
        exact (Table.find_mapEach (fun _ x => x.newDay) s.plans p).symm
  subst hday hminute
  have htaken := newMinute_taken hc.loads hc.plans c
  obtain ⟨h1, h2, -, -, -, h6, h7, -⟩ := carry_same s c
  obtain ⟨hin, hout⟩ := starts_iff (fun p x => (hstarts p x).trans (by rw [hbefore]))
    (fun p => mem_plansStarting (carry_plans hc.plans c) htype)
  refine ⟨_, exec_carry hclk h60 hi, htaken.computed, fun p x hs => ?_, fun p hs => ?_, ?_, fun hne n r hr hd => ?_, fun n r hr hslot => ?_⟩
  · rw [← h7]
    exact htaken.plan_started (hin p x hs).1 (hin p x hs).2
  · rw [hbefore]
    exact htaken.plan_kept (hout p hs)
  · rintro ⟨p, x, hs, hg⟩
    exact htaken.authority_zero (hin p x hs).1 (hin p x hs).2 hg
  · exact htaken.due_judged h1 h2 h7 h6 (carry_guarded s c) hne hr hd
  · have hr' : (s.carry c).load n = some r := by unfold State.load at hr ⊢; rw [h1]; exact hr
    rw [← h7]
    refine htaken.handedOn hr' ?_
    rintro ⟨p, hp, x, r2, m, hx, hr2, hm, hpl, hz⟩
    obtain rfl := Option.some.inj (hr'.symm.trans hr2)
    obtain ⟨x', hx', hP⟩ := (mem_plansStarting (carry_plans hc.plans c) htype).mp hp
    obtain rfl := Option.some.inj (hx.symm.trans hx')
    exact hslot p x m ((hstarts p x).mpr ⟨(hbefore p).trans hx, hP⟩) hm hpl hz

end Sys2Proof.Machine
end

section
/-! PROPERTY. O35: SET CLOCK (R90, R91, R98, R137, R138). -/

namespace Sys2Proof.Machine

variable {s t u v : State} {n m p k : Nat} {r r' : LoadRecord} {ps : List Nat} {x : WakePlan} {c old : PlantClock} {type : DayType}

/-! ### The second before the setting -/

theorem carriesDue_eq (h : s.clock = some c) : s.carriesDue = c.second / 60 := by
  simp only [State.carriesDue, h]

theorem newMinute_clock (hl : Table.Canonical 240 s.loads) (hp : Table.Canonical 4 s.plans) (c : PlantClock) :
    (s.newMinute c).clock = some c.carried :=
  (newMinute_taken hl hp c).clock (carry_clock s c)

theorem carried_second (c : PlantClock) : c.carried.second = c.second - 60 := by
  unfold PlantClock.carried
  split <;> rfl

/-- What a setting needs of the part it meets, and what it keeps of the part before the seconds that wait are taken. -/
structure SecondKept (s t : State) : Prop where
  loads : Table.Canonical 240 t.loads
  plans : Table.Canonical 4 t.plans
  timeBase : t.timeBase = s.timeBase
  executing : t.executing = s.executing

theorem newMinute_kept (hl : Table.Canonical 240 s.loads) (hp : Table.Canonical 4 s.plans) (c : PlantClock) : SecondKept s (s.newMinute c) := by
  have h := newMinute_taken hl hp c
  obtain ⟨-, -, -, -, -, -, ht, he⟩ := carry_same s c
  obtain ⟨-, -, -, -, -, -, -, -, -, -, -, -, -, -, hex, -⟩ := frozen_field h.frame.frozen
  exact ⟨h.frame.canonical, h.plans.canonical, h.frame.timeBase.trans ht, hex.trans he⟩

theorem minutesTaken_kept (k : Nat) (hl : Table.Canonical 240 s.loads) (hp : Table.Canonical 4 s.plans) :
    SecondKept s (State.minutesTaken k s) := by
  induction k generalizing s with
  | zero => exact ⟨hl, hp, rfl, rfl⟩
  | succ k ih =>
    unfold State.minutesTaken
    split
    · exact ⟨hl, hp, rfl, rfl⟩
    · rename_i c _
      have h1 := newMinute_kept hl hp c
      have h2 := ih h1.loads h1.plans
      exact ⟨h2.loads, h2.plans, h2.timeBase.trans h1.timeBase, h2.executing.trans h1.executing⟩

/-- With no second at 60 none is taken. -/
theorem secondTaken_self (h : ∀ old, s.clock = some old → old.second < 60) : s.secondTaken = s := by
  have hz : s.carriesDue = 0 := by
    cases hclk : s.clock with
    | none => simp only [State.carriesDue, hclk]
    | some old =>
      rw [carriesDue_eq hclk]
      exact Nat.div_eq_of_lt (h old hclk)
  unfold State.secondTaken
  rw [hz]
  rfl

/-- The first of the seconds that wait is taken by its new minute. -/
theorem secondTaken_newMinute (hl : Table.Canonical 240 s.loads) (hp : Table.Canonical 4 s.plans) (hclk : s.clock = some old)
    (h60 : 60 ≤ old.second) : s.secondTaken = (s.newMinute old).secondTaken := by
  have hcount : s.carriesDue = (s.newMinute old).carriesDue + 1 := by
    rw [carriesDue_eq hclk, carriesDue_eq (newMinute_clock hl hp old), carried_second]
    omega
  unfold State.secondTaken
  rw [hcount, State.minutesTaken, hclk]

theorem commandParams_congr (h : t.executing = s.executing) (code : Byte) : t.commandParams code = s.commandParams code := by
  unfold State.commandParams
  rw [h]

/-- Two tables with the same records are the same list. -/
theorem Table.ext_find {α : Type} {b : Nat} {x y : Table α} (hx : Table.Canonical b x) (hy : Table.Canonical b y)
    (h : ∀ n, Table.find x n = Table.find y n) : x = y := by
  have rising : ∀ z : Table α, Table.Canonical b z → z.Pairwise (fun d e => d.1 < e.1) := fun z hz => List.pairwise_map.mp hz.1
  have nodup : ∀ z : Table α, Table.Canonical b z → z.Nodup := fun z hz =>
    (rising z hz).imp (fun {d e} hlt heq => by rw [heq] at hlt; exact absurd hlt (Nat.lt_irrefl _))
  have hperm : x.Perm y := (List.perm_ext_iff_of_nodup (nodup x hx) (nodup y hy)).mpr (fun ⟨n, a⟩ => by
    rw [Table.mem_iff_find hx, Table.mem_iff_find hy, h])
  exact hperm.eq_of_pairwise (fun d e _ _ h1 h2 => absurd (Nat.lt_trans h1 h2) (Nat.lt_irrefl _)) (rising x hx) (rising y hy)

theorem attentionFlags_clock (s : State) : s.attentionFlags.getLsbD 5 = s.clockFlag := by
  unfold State.attentionFlags
  generalize s.clockFlag = a, s.overrun = b, s.lineFlag = c, s.shortFlag = d, s.faultFlag = e, s.changedFlag = f
  revert a b c d e f
  decide

/-! ### The setting -/

theorem clockSet_clock (s : State) (c : PlantClock) : (s.clockSet c).clock = some c := by
  unfold State.clockSet
  split
  · rfl
  · split <;> rfl

/-- What a setting leaves as it was: everything but the plant calendar and the plans. -/
theorem clockSet_same (s : State) (c : PlantClock) : (s.clockSet c).loads = s.loads ∧ (s.clockSet c).holds = s.holds
    ∧ (s.clockSet c).groups = s.groups ∧ (s.clockSet c).queue = s.queue ∧ (s.clockSet c).feeders = s.feeders
    ∧ (s.clockSet c).authority = s.authority ∧ (s.clockSet c).timeBase = s.timeBase := by
  unfold State.clockSet
  split
  · exact ⟨rfl, rfl, rfl, rfl, rfl, rfl, rfl⟩
  · split <;> exact ⟨rfl, rfl, rfl, rfl, rfl, rfl, rfl⟩

theorem clockSet_plans (hc : Table.Canonical 4 s.plans) (c : PlantClock) : Table.Canonical 4 (s.clockSet c).plans := by
  unfold State.clockSet
  split
  · exact hc
  · split
    · exact hc
    · exact Table.canonical_mapEach hc (fun _ x => x.daySet c.day)

theorem clockSet_guarded (s : State) (c : PlantClock) : (s.clockSet c).guarded = s.guarded := by
  unfold State.clockSet
  split
  · rfl
  · split
    · rfl
    · exact guarded_mapEach (f := fun _ x => x.daySet c.day) (fun _ x => by unfold WakePlan.daySet; split <;> rfl) rfl

/-- A setting within the day moves the clock alone. -/
theorem clockSet_sameDay (h : s.clock = some old) (hd : old.day = c.day) : s.clockSet c = { s with clock := some c } := by
  simp only [State.clockSet, h, hd, if_true]

theorem plansAtSetting_sameDay (h : s.clock = some old) (hd : old.day = c.day) :
    s.plansAtSetting c = (s.clockSet c).plansPassed old.minute c.minute := by
  simp only [State.plansAtSetting, h, hd, if_true]

/-- A setting that changes the day, or the first one, activates no plan (R137). -/
theorem plansAtSetting_otherDay (h : ∀ old, s.clock = some old → old.day ≠ c.day) : s.plansAtSetting c = [] := by
  unfold State.plansAtSetting
  split
  · rfl
  · rename_i old hclk
    exact if_neg (h old hclk)

theorem mem_plansPassed (hc : Table.Canonical 4 s.plans) (ht : s.todayType = some type) {a b : Nat} : p ∈ s.plansPassed a b ↔
    ∃ x, s.plan p = some x ∧ x.state = .waiting ∧ a < x.start ∧ x.start ≤ b ∧ x.mask.getLsbD type.code = true := by
  unfold State.plansPassed
  simp [ht, plan_iff_mem hc, WakePlan.contains, and_assoc]

theorem setTheClock_taken (hl : Table.Canonical 240 s.loads) (hp : Table.Canonical 4 s.plans) (c : PlantClock) :
    MinuteTaken (s.clockSet c) (s.plansAtSetting c) c [] (s.settle (s.setTheClock c).state (s.setTheClock c).work) := by
  obtain ⟨h1, h2, h3, h4, h5, h6, -⟩ := clockSet_same s c
  exact settle_minute (h1 ▸ hl) (clockSet_plans hp c) (clockSet_clock s c) (handoffs_elsewhere hl h1 h6 h2 h3 h4 h5)

/-- A setting that is taken: the seconds that wait, the setting with its hand-offs, and the answer. -/
theorem exec_setClock_taken {d mh ml sec : Byte} (hl : Table.Canonical 240 s.loads) (hp : Table.Canonical 4 s.plans)
    (hs : s.Sent 0x30 [d, mh, ml, sec]) (hm : mh.toNat * 256 + ml.toNat ≤ 1439) (hsec : sec.toNat ≤ 59) (hday : c.day.val = d.toNat)
    (hmin : c.minute = mh.toNat * 256 + ml.toNat) (hcs : c.second = sec.toNat) :
    ∃ t, exec .setClock s = .next (t.respond .done [])
      ∧ MinuteTaken (s.secondTaken.clockSet c) (s.secondTaken.plansAtSetting c) c [] t := by
  have hparams := hs.commandParams rfl (by simp)
  have hd : d.toNat ≤ 6 := by omega
  have htaken : settingTaken [d, mh, ml, sec] = true := by simp [settingTaken, word16, hd, hm, hsec]
  have hkept := minutesTaken_kept s.carriesDue hl hp
  have hclock : ({ day := Fin.ofNat 7 d.toNat, minute := word16 mh ml, second := sec.toNat } : PlantClock) = c := by
    obtain ⟨day, minute, second⟩ := c
    simp only [PlantClock.mk.injEq, Fin.ext_iff, Fin.val_ofNat, word16] at *
    omega
  have hbody : setClock [d, mh, ml, sec] s.secondTaken = s.secondTaken.setTheClock c := by
    simp only [setClock, ← hclock]
    exact if_neg (by simp only [word16]; omega)
  refine ⟨_, ?_, setTheClock_taken hkept.loads hkept.plans c⟩
  show execSetClock s = _
  simp only [execSetClock, hparams, htaken, if_true]
  exact congrArg Host.Outcome.next (runCommand_taken ((commandParams_congr hkept.executing _).trans hparams) hbody)

/-- Settles O35: a setting takes the seconds before it, moves the clock, and is handed on as a new minute is. -/
theorem setClockSets : Obligations.SetClockSets := by
  unfold Obligations.SetClockSets
  intro s d mh ml sec hc hs
  have hparams := hs.commandParams rfl (by simp)
  refine ⟨fun hbad => ?_, fun c hm hsec hday hmin hcs => ?_⟩
  · have hnot : settingTaken [d, mh, ml, sec] = false := by
      rw [Bool.eq_false_iff]
      simp only [settingTaken, ne_eq, Bool.and_eq_true, decide_eq_true_eq]
      unfold word16
      omega
    show execSetClock s = _
    simp only [execSetClock, hparams, hnot, Bool.false_eq_true, if_false]
    refine congrArg Host.Outcome.next (runCommand_refused hparams hc ?_)
    exact if_pos hbad
  obtain ⟨t, hexec, htaken⟩ := exec_setClock_taken hc.loads hc.plans hs hm hsec hday hmin hcs
  have hkept := minutesTaken_kept s.carriesDue hc.loads hc.plans
  refine ⟨fun old i s1 hclk h60 hi he => ?_, ?_, fun h60 => ?_⟩
  · rw [exec_carry hclk h60 hi] at he
    obtain rfl : s.newMinute old = s1 := by simpa using he
    have hk := newMinute_kept hc.loads hc.plans old
    show execSetClock s = execSetClock _
    simp only [execSetClock, commandParams_congr hk.executing, hparams]
    have htaken : settingTaken [d, mh, ml, sec] = true := by
      have : d.toNat ≤ 6 := by omega
      simp [settingTaken, word16, this, hm, hsec]
    rw [if_pos htaken, if_pos htaken, secondTaken_newMinute hc.loads hc.plans hclk h60]
  · obtain ⟨-, -, -, -, -, -, ht⟩ := clockSet_same s.secondTaken c
    have hclk : t.clock = some c := htaken.clock (clockSet_clock _ c)
    refine ⟨_, hexec, rfl, rfl, hclk, htaken.frame.timeBase.trans (ht.trans hkept.timeBase), ?_, htaken.computed⟩
    rw [attentionFlags_clock]
    simp [State.clockFlag, State.respond, hclk]
  rw [secondTaken_self h60] at htaken
  obtain ⟨h1, h2, -, -, -, h6, h7⟩ := clockSet_same s c
  obtain ⟨-, -, -, -, hover, hyes, -⟩ := frozen_field htaken.frame.frozen
  refine ⟨⟨_, hexec, fun hday => ?_, fun hday => ?_, fun hclk => ?_, fun hne n r hr hd => ?_, fun old hclk hday p => ?_⟩,
    fun old hclk hday Starts hstarts => ?_⟩
  · obtain ⟨old, hclk, hold⟩ := Option.map_eq_some_iff.mp hday
    rw [clockSet_sameDay hclk hold] at hover hyes
    exact ⟨hover, hyes⟩
  · suffices h : (s.clockSet c).todayOverride = none ∧ (s.clockSet c).yesterday = s.dayMap[(c.day - 1 : Fin 7)] from
      ⟨hover.trans h.1, hyes.trans h.2⟩
    unfold State.clockSet
    split
    · exact ⟨rfl, rfl⟩
    · rename_i old hclk
      rw [if_neg (by simpa [hclk] using hday)]
      exact ⟨rfl, rfl⟩
  · have hno : ∀ p, p ∉ s.plansAtSetting c := fun p => by
      rw [plansAtSetting_otherDay (by simp [hclk])]
      simp
    have hset : (s.clockSet c).plans = s.plans := by simp only [State.clockSet, hclk]
    exact Table.ext_find htaken.plans.canonical hc.plans (fun p => (htaken.plan_kept (hno p)).trans (by unfold State.plan; rw [hset]))
  · exact htaken.due_judged h1 h2 h7 h6 (clockSet_guarded s c) hne hr hd
  · have hno : p ∉ s.plansAtSetting c := by
      rw [plansAtSetting_otherDay (fun o ho => Option.some.inj (hclk.symm.trans ho) ▸ hday)]
      simp
    refine (htaken.plan_kept hno).trans ?_
    simp only [State.clockSet, hclk, if_neg hday]
    exact Table.find_mapEach (fun _ x => x.daySet c.day) s.plans p
  · have htype : (s.clockSet c).todayType = some (s.todayOverride.getD s.dayMap[c.day]) := by
      rw [clockSet_sameDay hclk hday]; rfl
    have hplan : ∀ p, (s.clockSet c).plan p = s.plan p := fun p => by rw [clockSet_sameDay hclk hday]; rfl
    rw [plansAtSetting_sameDay hclk hday] at htaken
    obtain ⟨hin, hout⟩ := starts_iff (fun p x => (hstarts p x).trans (by rw [hplan]))
      (fun p => mem_plansPassed (clockSet_plans hc.plans c) htype)
    refine ⟨_, hexec, fun p x hst => ?_, fun p hst => ?_, ?_⟩
    · rw [← h7]
      exact htaken.plan_started (hin p x hst).1 (hin p x hst).2
    · exact (htaken.plan_kept (hout p hst)).trans (hplan p)
    · rintro ⟨p, x, hst, hg⟩
      exact htaken.authority_zero (hin p x hst).1 (hin p x hst).2 hg

end Sys2Proof.Machine
end

section
/-! SUPPORT. The flags and the press of a valid report, one part of its taking after the other (R49, R51, R52, R53, R79, R83, R84): what
every part keeps, the failed-raise sets, and the queue. -/

namespace Sys2Proof.Machine

variable {s t u v : State} {n m : Nat} {r g x : LoadRecord} {new old : LoadState} {out : Option (Operation × OpResult)} {rep : Report}
  {sent : Commanded} {P : State → Prop}

/-! ### What every part of a report keeps -/

/-- A predicate on states that each of the writes of a report to load `n` keeps. -/
structure ReportKeeps (n : Nat) (P : State → Prop) : Prop where
  write : ∀ v g x, v.load n = some g → x.state = g.state → P v → P (v.setLoad n x)
  mark : ∀ v, P v → P (v.mark n)
  move : ∀ v g new out, v.load n = some g → P v → P (v.moveTo n new out)
  remove : ∀ v g o, v.load n = some g → g.state = .retiring → P v → P (v.removeLoad n o)
  enter : ∀ v g, v.load n = some g → P v → P (v.enqueue n .call)
  forget : ∀ v, P v → P (v.forgetFailed n)

theorem ReportKeeps.moveTo (h : ReportKeeps n P) (hv : P v) (new : LoadState) (out : Option (Operation × OpResult)) : P (v.moveTo n new out) := by
  cases hl : v.load n with
  | none => rwa [moveTo_vacant hl]
  | some g => exact h.move v g new out hl hv

theorem ReportKeeps.modifyLoad (h : ReportKeeps n P) (hv : P v) {f : LoadRecord → LoadRecord} (hf : ∀ r, (f r).state = r.state) :
    P (v.modifyLoad n f) := by
  unfold State.modifyLoad
  split
  · exact hv
  · rename_i g hl
    exact h.write v g _ hl (hf g) hv

theorem ReportKeeps.placeButtonHold (h : ReportKeeps n P) (hv : P v) : P (v.placeButtonHold n) :=
  h.mark _ (h.modifyLoad hv (fun _ => rfl))

theorem ReportKeeps.writeOutcome (h : ReportKeeps n P) (hv : P v) (o : Operation) (x : OpResult) : P (v.writeOutcome n o x) := by
  unfold State.writeOutcome
  split
  · exact hv
  · rename_i g hl
    exact h.mark _ (h.write v g _ hl rfl hv)

theorem ReportKeeps.evaluate (h : ReportKeeps n P) (hv : P v) : P (v.evaluate n) := by
  rcases evaluate_cases v n with e | ⟨g, hl, -, e | e⟩ <;> rw [e]
  · exact hv
  · exact h.move v g _ _ hl hv
  · exact h.write v g _ hl rfl hv

theorem ReportKeeps.offerButton (h : ReportKeeps n P) (hv : P v) : P (v.offerButton n) := by
  unfold State.offerButton
  split
  · rename_i he
    obtain ⟨g, hl, -⟩ := stateOf_eq.mp (startOffer_entered he).1
    exact h.enter v g hl hv
  · exact h.writeOutcome hv _ _
  · exact h.writeOutcome hv _ _

theorem ReportKeeps.press (h : ReportKeeps n P) (hv : P v) (changed : Bool) : P (v.press n changed) := by
  have hplace := h.placeButtonHold hv
  unfold State.press
  split
  · exact hplace
  · exact hplace
  · split
    · exact hplace
    · exact h.evaluate hplace
  · split
    · exact hplace
    · rcases overtake_cases (v.placeButtonHold n) n 1 with e | e <;> rw [e]
      · exact hplace
      · exact h.moveTo hplace _ _
  · split
    · exact hv
    · exact h.offerButton hv
  · exact hv

theorem ReportKeeps.buttonStep (h : ReportKeeps n P) (hv : P v) (changed : Bool) : P (v.buttonStep n rep changed) := by
  unfold State.buttonStep
  split
  · exact hv
  · rename_i g hl
    split
    · exact hv
    · exact h.press (h.write v g { g with buttonTaken := rep.button } hl rfl hv) changed

theorem ReportKeeps.keepOffAppears (h : ReportKeeps n P) (hv : P v) : P (v.keepOffAppears n) := by
  cases hl : v.load n with
  | none =>
    unfold State.keepOffAppears
    rwa [hl]
  | some g =>
    rcases keepOffAppears_cases hl with ⟨-, e⟩ | ⟨-, -, e⟩ | ⟨-, -, e⟩ | ⟨-, -, e⟩ <;> rw [e]
    · exact h.moveTo hv _ _
    · exact h.moveTo hv _ _
    · exact h.moveTo hv _ _
    · exact hv

theorem ReportKeeps.keepOffLeft (h : ReportKeeps n P) (hv : P v) : P (v.keepOffLeft n) := by
  unfold State.keepOffLeft
  split
  · exact hv
  · exact h.forget v hv

theorem ReportKeeps.followIsolator (h : ReportKeeps n P) (hv : P v) (b : Bool) : P (v.followIsolator n b) := by
  unfold State.followIsolator
  split
  · exact hv
  · rename_i g hl
    split
    · exact hv
    · have hw : P ((v.setLoad n { g with isolatorHold := b }).mark n) := h.mark _ (h.write v g _ hl rfl hv)
      dsimp only
      split
      · exact h.keepOffAppears hw
      · exact h.keepOffLeft hw

theorem ReportKeeps.localStep (h : ReportKeeps n P) (hv : P v) : P (v.localStep n rep) := by
  unfold State.localStep
  split
  · exact hv
  · split
    · exact hv
    · exact h.moveTo hv _ _
  · exact hv
  · exact hv
  · split
    · exact h.moveTo hv _ _
    · exact hv

theorem ReportKeeps.retireStep (h : ReportKeeps n P) (hl : v.load n = some g) (hs : g.state = .retiring) (hv : P v) :
    P (v.retireStep n g rep sent) := by
  unfold State.retireStep
  split
  · exact h.remove v g _ hl hs hv
  · split
    · exact h.remove v g _ hl hs hv
    · exact h.write v g _ hl rfl hv

theorem ReportKeeps.runStep (h : ReportKeeps n P) (hv : P v) : P (v.runStep n rep sent) := by
  have hmove := fun new out => h.moveTo hv new out
  unfold State.runStep
  split
  · exact hv
  · rename_i g hl
    split
    · split
      · exact hmove _ _
      · exact hv
    · split
      · exact hmove _ _
      · exact hv
    · split
      · exact hmove _ _
      · exact hv
    · split
      · exact hmove _ _
      · exact hv
    · split
      · exact hmove _ _
      · split
        · exact hmove _ _
        · exact hv
    · split
      · exact hmove _ _
      · exact hv
    · split
      · exact h.modifyLoad (hmove _ _) (fun _ => rfl)
      · exact hv
    · rename_i hs
      exact h.retireStep hl hs hv
    all_goals exact hv

theorem ReportKeeps.ranByReport (h : ReportKeeps n P) (hv : P v) (old : LoadState) : P (v.ranByReport n old) := by
  unfold State.ranByReport
  split
  · exact h.forget v hv
  · exact hv

/-! ### The parts of a later report -/

/-- What a later report does once its isolator flag has been followed. -/
def State.afterIsolator (v : State) (n : Nat) (old : LoadState) (rep : Report) (sent : Commanded) : State :=
  let s3 := if v.stateOf n = some old then v.localStep n rep else v
  let s4 := s3.buttonStep n rep (s3.stateOf n != some old)
  if s4.stateOf n = some old then s4.runStep n rep sent else s4

theorem laterReport_eq (v : State) (n : Nat) (old : LoadState) (rep : Report) (sent : Commanded) :
    v.laterReport n old rep sent
      = ((v.modifyLoad n (fun r => { r with lastRun := some rep.run })).followIsolator n rep.isolatorOpen).afterIsolator n old rep sent := rfl

theorem ReportKeeps.afterIsolator (h : ReportKeeps n P) (hv : P v) : P (v.afterIsolator n old rep sent) := by
  have h3 : P (if v.stateOf n = some old then v.localStep n rep else v) := by
    split
    · exact h.localStep hv
    · exact hv
  unfold State.afterIsolator
  dsimp only
  generalize (if v.stateOf n = some old then v.localStep n rep else v) = u at h3
  have h4 : P (u.buttonStep n rep (u.stateOf n != some old)) := h.buttonStep h3 _
  split
  · exact h.runStep h4
  · exact h4

theorem ReportKeeps.laterReport (h : ReportKeeps n P) (hv : P v) : P (v.laterReport n old rep sent) :=
  laterReport_eq v n old rep sent ▸ h.afterIsolator (h.followIsolator (h.modifyLoad (f := fun r => { r with lastRun := some rep.run }) hv (fun _ => rfl)) _)

/-! ### The predicates -/

theorem marks_reportKeeps (n : Nat) : ReportKeeps n (fun v => n ∈ v.marks) where
  write _ _ _ _ _ h := h
  mark _ _ := (NatSet.mem_add _ _ _).mpr (.inl rfl)
  move _ _ _ _ hl _ := moveTo_marks_self hl
  remove _ _ o hl _ _ := by
    obtain ⟨-, hm, -⟩ := removeLoad_rest hl o
    rw [hm]
    exact (NatSet.mem_add _ _ _).mpr (.inl rfl)
  enter v _ hl _ := moveTo_marks_self (s := { v with queue := placeEntry (v.newEntry n .call) v.queue, arrivals := v.arrivals + 1 }) hl
  forget _ h := h

theorem canonical_reportKeeps (n : Nat) : ReportKeeps n (fun v => Table.Canonical 240 v.loads) where
  write _ _ x hl _ h := Table.canonical_put h (Table.lt_of_find h hl) x
  mark _ h := h
  move _ _ _ _ _ h := moveTo_canonical h
  remove v g o hl _ h := by
    have hd : (v.removeLoad n o).loads = Table.drop v.loads n := by
      unfold State.removeLoad
      rw [hl]
      rfl
    exact hd ▸ Table.canonical_drop h n
  enter v _ _ h := moveTo_canonical (s := { v with queue := placeEntry (v.newEntry n .call) v.queue, arrivals := v.arrivals + 1 }) h
  forget _ h := h

/-- A raise of a load that stands in RUN is over: no group raises it. -/
def State.RaiseOver (n : Nat) (v : State) : Prop := v.stateOf n = some .run → ∀ k x, v.group k = some x → x.state ≠ .raising n

theorem raiseOver_moveTo (hl : v.load n = some g) (new : LoadState) (out : Option (Operation × OpResult)) :
    State.RaiseOver n (v.moveTo n new out) := by
  intro hs k x hx
  rw [stateOf_moveTo hl, if_pos rfl, Option.some.injEq] at hs
  rw [moveTo_group hl] at hx
  obtain ⟨y, -, rfl⟩ := Option.map_eq_some_iff.mp hx
  exact follow_not_raising y (by simp [hs]) (by simp [hs])

theorem raiseOver_reportKeeps (n : Nat) : ReportKeeps n (State.RaiseOver n) where
  write v g x hl hx h := fun hs => h (by
    rw [stateOf_eq] at hs ⊢
    obtain ⟨y, hy, hst⟩ := hs
    rw [load_setLoad, if_pos rfl, Option.some.injEq] at hy
    exact ⟨g, hl, by rw [← hx, hy, hst]⟩)
  mark _ h := h
  move _ _ _ _ hl _ := raiseOver_moveTo hl _ _
  remove _ _ o _ _ _ := fun hs => by
    rw [State.stateOf, removeLoad_load, if_pos rfl] at hs
    simp at hs
  enter v _ hl _ :=
    raiseOver_moveTo (v := { v with queue := placeEntry (v.newEntry n .call) v.queue, arrivals := v.arrivals + 1 }) hl _ _
  forget v h := fun hs k x hx => by
    have hg : (v.forgetFailed n).group k = (v.group k).map (fun x => { x with failed := NatSet.remove x.failed n }) := by simp [State.group]
    obtain ⟨y, hy, rfl⟩ := Option.map_eq_some_iff.mp (hg.symm.trans hx)
    exact h hs k y hy

theorem clear_reportKeeps (n : Nat) : ReportKeeps n (State.Clear n) where
  write _ _ _ _ _ h := h
  mark _ h := h
  move _ _ _ _ hl h := h.moveTo hl _ _
  remove v g o hl _ h := fun k x hx => by
    obtain ⟨-, -, -, -, hg, -⟩ := removeLoad_rest hl o
    unfold State.group at hx
    rw [hg] at hx
    exact h k x hx
  enter v _ hl h :=
    State.Clear.moveTo (v := { v with queue := placeEntry (v.newEntry n .call) v.queue, arrivals := v.arrivals + 1 }) h hl _ _
  forget _ h := clear_forgetFailed (fun k x hx => (h k x hx).2)

/-- Load `n` has an entry in the queue in QUEUED alone (R122). -/
def State.EntryQueued (n : Nat) (v : State) : Prop := v.hasEntry n = true → v.stateOf n = some .queued

theorem hasEntry_iff : v.hasEntry n = true ↔ ∃ e ∈ v.queue, e.load = n := by
  simp [State.hasEntry]

theorem State.EntryQueued.moveTo (h : State.EntryQueued n v) (m : Nat) (new : LoadState) (out : Option (Operation × OpResult)) :
    State.EntryQueued n (v.moveTo m new out) := by
  cases hl : v.load m with
  | none => rwa [moveTo_vacant hl]
  | some g =>
    intro he
    obtain ⟨e, he, hen⟩ := hasEntry_iff.mp he
    rw [moveTo_queue hl] at he
    rw [stateOf_moveTo hl]
    by_cases hnm : n = m
    · subst hnm
      split at he
      · have := (List.mem_filter.mp he).2
        simp [hen] at this
      · rename_i hq
        obtain ⟨g', hl', hs⟩ := stateOf_eq.mp (h (hasEntry_iff.mpr ⟨e, he, hen⟩))
        cases hl.symm.trans hl'
        exact absurd hs hq
    · rw [if_neg hnm]
      refine h (hasEntry_iff.mpr ⟨e, ?_, hen⟩)
      split at he
      · exact List.mem_of_mem_filter he
      · exact he

theorem State.EntryQueued.of_queue (h : State.EntryQueued n v) (hq : ∀ e ∈ u.queue, e.load = n → ∃ e' ∈ v.queue, e'.load = n)
    (hs : u.stateOf n = v.stateOf n) : State.EntryQueued n u := fun he => by
  obtain ⟨e, he, hen⟩ := hasEntry_iff.mp he
  rw [hs]
  exact h (hasEntry_iff.mpr (hq e he hen))

theorem State.EntryQueued.enqueue (h : State.EntryQueued n v) (hl : v.load m = some g) (cls : StartClass) :
    State.EntryQueued n (v.enqueue m cls) := by
  by_cases hnm : n = m
  · subst hnm
    exact fun _ => stateOf_eq.mpr ⟨_, (enqueue_load hl cls n).trans (if_pos rfl), rfl⟩
  · have hbase : State.EntryQueued n { v with queue := placeEntry (v.newEntry m cls) v.queue, arrivals := v.arrivals + 1 } :=
      h.of_queue (fun e he hen => by
        rcases mem_placeEntry.mp he with rfl | he
        · exact absurd hen.symm hnm
        · exact ⟨e, he, hen⟩) rfl
    exact hbase.moveTo m .queued none

theorem State.EntryQueued.setLoad (h : State.EntryQueued n v) (hl : v.load m = some g) (hx : x.state = g.state) :
    State.EntryQueued n (v.setLoad m x) :=
  h.of_queue (fun e he hen => ⟨e, he, hen⟩) (by
    unfold State.stateOf
    rw [load_setLoad]
    split
    · rename_i hnm
      rw [hnm, hl, Option.map_some, Option.map_some, hx]
    · rfl)

theorem entryQueued_reportKeeps (n : Nat) : ReportKeeps n (State.EntryQueued n) where
  write _ _ _ hl hx h := h.setLoad hl hx
  mark _ h := h
  move _ _ _ _ _ h := h.moveTo _ _ _
  remove v g o hl hs h := fun he => by
    obtain ⟨-, -, -, -, -, hq, -⟩ := removeLoad_rest hl o
    unfold State.hasEntry at he
    rw [hq] at he
    have := h he
    rw [stateOf_eq.mpr ⟨g, hl, rfl⟩, hs] at this
    simp at this
  enter _ _ hl h := h.enqueue hl _
  forget _ h := h

/-- The hand-offs of a step keep it. -/
theorem State.EntryQueued.settled (h : State.EntryQueued n v) : State.EntryQueued n (s.settle v []) := by
  have modify : ∀ (u : State) k F, State.EntryQueued n u → State.EntryQueued n (u.modifyGroup k F) := fun u k F hu =>
    hu.of_queue (fun e he hen => ⟨e, by rwa [show (u.modifyGroup k F).queue = u.queue by unfold State.modifyGroup; split <;> rfl] at he, hen⟩)
      (by unfold State.stateOf; rw [load_modifyGroup])
  refine settle_plain (by simp) (fun _ _ h => h) (fun v m h => ?_) (fun v k h => ?_) (fun v e h => ?_) h
  · rcases evaluate_cases v m with e | ⟨r, hl, -, e | e⟩ <;> rw [e]
    · exact h
    · exact h.moveTo _ _ _
    · exact h.setLoad hl rfl
  · rcases testGroup_cases v k with e | ⟨q, hq, e⟩ | e | e <;> rw [e]
    · exact h
    · obtain ⟨r, hl, -⟩ := stateOf_eq.mp hq
      exact modify _ _ _ (h.enqueue hl _)
    · exact modify _ _ _ h
    · exact modify _ _ _ h
  · rcases examineEntry_cases v e with e' | ⟨r, hl, hq, e'⟩ | ⟨c, e'⟩ <;> rw [e']
    · exact h
    · exact h.moveTo _ _ _
    · refine h.of_queue (fun x hx hen => ?_) rfl
      exact hasEntry_iff.mp ((hasEntry_setReason v e.load c n).symm.trans (hasEntry_iff.mpr ⟨x, hx, hen⟩))

end Sys2Proof.Machine
end

section
/-! PROPERTY. O46: the flags of a valid report (R49, R51, R52, R53, R64, R79, R83, R84, R117). -/

namespace Sys2Proof.Machine

variable {s t u v : State} {n m : Nat} {r r' g x : LoadRecord} {new old : LoadState} {out : Option (Operation × OpResult)} {rep : Report}
  {sent : Commanded} {l : Fin 4} {e : Exchange} {samples : List (BitVec 11)}

/-! ### The record that has been heard -/

/-- The record before the flags of its report are followed (R27, R49, R151). -/
def LoadRecord.listened (r : LoadRecord) (rep : Report) : LoadRecord :=
  { ({ r with missCount := 0 } : LoadRecord).gathered rep.strokes rep.current with lastRun := some rep.run }

/-- The record once its isolator flag has been followed (R79). -/
def LoadRecord.flagged (r : LoadRecord) (rep : Report) : LoadRecord := { r.listened rep with isolatorHold := rep.isolatorOpen }

@[simp] theorem listened_state (r : LoadRecord) (rep : Report) : (r.listened rep).state = r.state := rfl

@[simp] theorem flagged_state (r : LoadRecord) (rep : Report) : (r.flagged rep).state = r.state := rfl

theorem heard_of_flagged (r : LoadRecord) (rep : Report) : r.heard rep = { r.flagged rep with buttonTaken := rep.button } := rfl

/-- The record of the statement is the one that has been heard. -/
theorem heard_eq (r : LoadRecord) (rep : Report) : r.heard rep = { r with
    missCount := 0
    baseline := some rep.strokes
    lastRun := some rep.run
    isolatorHold := rep.isolatorOpen
    buttonTaken := rep.button
    figures :=
      { strokeSum := min 1023 (r.figures.strokeSum
          + match r.baseline with
            | none => 0
            | some b => (rep.strokes.toNat + 256 - b.toNat) % 256)
        largest := if 250 < rep.current then r.figures.largest else some (max (r.figures.largest.getD 0) rep.current)
        seen := true } } := by
  cases hb : r.baseline with
  | none => simp [LoadRecord.heard, LoadRecord.gathered, strokeDelta, largestCurrent, hb]
  | some b => simp [LoadRecord.heard, LoadRecord.gathered, strokeDelta_some, largestCurrent, hb]

/-- A moment in a report to load `n`, begun in `s`, before any change of state: its record stands as `x`, and nothing else that a hand-off
reads has changed. -/
structure State.Noted (s : State) (n : Nat) (x : LoadRecord) (v : State) : Prop where
  heard : s.Heard n x v
  others : ∀ m, m ≠ n → v.load m = s.load m
  groups : v.groups = s.groups
  queue : v.queue = s.queue
  arrivals : v.arrivals = s.arrivals
  feeders : v.feeders = s.feeders
  authority : v.authority = s.authority

theorem State.Noted.setLoad (h : s.Noted n g v) (x : LoadRecord) : s.Noted n x (v.setLoad n x) :=
  ⟨h.heard.setLoad x, fun m hm => by rw [load_setLoad, if_neg hm]; exact h.others m hm, h.groups, h.queue, h.arrivals, h.feeders, h.authority⟩

theorem State.Noted.mark (h : s.Noted n g v) : s.Noted n g (v.mark n) :=
  ⟨h.heard.mark, h.others, h.groups, h.queue, h.arrivals, h.feeders, h.authority⟩

/-- A valid exchange with a record that is not UNKNOWN: the flags are followed in their order, then the hand-offs of the step. -/
theorem exec_listening (hc : Canonical s) (he : (s.lineAt l).exchange = some e) (hn : e.load = some n) (hl : s.load n = some r)
    (hj : judge e.address (receivedChars samples) = .valid rep) (hu : r.state ≠ .unknown) :
    ∃ v, s.Noted n (r.listened rep) v ∧ exec (.replyEnd l samples) s = .next (s.settle
      (((v.followIsolator n rep.isolatorOpen).afterIsolator n r.state rep e.order.commanded).ranByReport n r.state) []) := by
  have hex : s.Noted n { r with missCount := 0 } (s.exchanged l n r e.address) :=
    ⟨exchanged_heard hc.loads hl l e.address, fun m hm => by simp [State.exchanged, hm], rfl, rfl, rfl, rfl, rfl⟩
  rw [exec_replyEnd_valid he hn hl hj]
  generalize s.exchanged l n r e.address = u at hex
  have hgathered := hex.setLoad (({ r with missCount := 0 } : LoadRecord).gathered rep.strokes rep.current)
  have hmodify : (u.setLoad n (({ r with missCount := 0 } : LoadRecord).gathered rep.strokes rep.current)).modifyLoad n
      (fun r => { r with lastRun := some rep.run })
        = (u.setLoad n (({ r with missCount := 0 } : LoadRecord).gathered rep.strokes rep.current)).setLoad n (r.listened rep) := by
    simp only [State.modifyLoad, hgathered.heard.load]
    rfl
  refine ⟨(u.setLoad n (({ r with missCount := 0 } : LoadRecord).gathered rep.strokes rep.current)).setLoad n (r.listened rep),
    hgathered.setLoad _, ?_⟩
  rw [report_known hex.heard.load hu, laterReport_eq, hmodify]

/-! ### A press beside a change of state -/

/-- The record after the press of a report that has changed its state: the hold is placed where there is one to place, and the state is left
(log entry 15). -/
def LoadRecord.beside (g : LoadRecord) (rep : Report) : LoadRecord :=
  { g with
    buttonTaken := rep.button
    buttonHold :=
      if rep.button ≠ g.buttonTaken ∧ (g.state = .run ∨ g.state = .idle ∨ g.state = .due ∨ g.state = .stopping) then some g.tuning.buttonTime
      else g.buttonHold }

@[simp] theorem beside_state (g : LoadRecord) (rep : Report) : (g.beside rep).state = g.state := rfl

theorem State.Heard.placeButtonHold (h : s.Heard n g v) : s.Heard n { g with buttonHold := some g.tuning.buttonTime } (v.placeButtonHold n)
    ∧ (v.placeButtonHold n).feeders = v.feeders := by
  refine ⟨(h.modifyLoad (fun r => { r with buttonHold := some r.tuning.buttonTime })).mark, ?_⟩
  unfold State.placeButtonHold State.modifyLoad
  split <;> rfl

/-- The states in which a press places or refreshes the button hold (R53, R77). -/
def LoadState.takesPress (st : LoadState) : Prop := st = .run ∨ st = .idle ∨ st = .due ∨ st = .stopping

theorem press_beside (hs : v.stateOf n = some old) :
    (old.takesPress → v.press n true = v.placeButtonHold n) ∧ (¬ old.takesPress → v.press n true = v) := by
  unfold State.press LoadState.takesPress
  cases old <;> simp [hs]

theorem State.Heard.buttonBeside (h : s.Heard n g v) : s.Heard n (g.beside rep) (v.buttonStep n rep true)
    ∧ (v.buttonStep n rep true).feeders = v.feeders := by
  unfold State.buttonStep
  simp only [h.load]
  by_cases hb : g.buttonTaken = rep.button
  · rw [if_pos hb]
    have : g.beside rep = g := by simp [LoadRecord.beside, ← hb]
    exact ⟨this.symm ▸ h, rfl⟩
  · rw [if_neg hb]
    have h1 := h.setLoad { g with buttonTaken := rep.button }
    have hs : (v.setLoad n { g with buttonTaken := rep.button }).stateOf n = some g.state := stateOf_eq.mpr ⟨_, h1.load, rfl⟩
    obtain ⟨h2, hf⟩ := h1.placeButtonHold
    have hb' : rep.button ≠ g.buttonTaken := Ne.symm hb
    by_cases hrun : g.state.takesPress
    · have hx : g.beside rep = { ({ g with buttonTaken := rep.button } : LoadRecord) with buttonHold := some g.tuning.buttonTime } := by
        rw [LoadRecord.beside, if_pos ⟨hb', hrun⟩]
      rw [hx, (press_beside hs).1 hrun]
      exact ⟨h2, hf⟩
    · have hx : g.beside rep = { g with buttonTaken := rep.button } := by
        rw [LoadRecord.beside, if_neg (fun hh => hrun hh.2)]
      rw [hx, (press_beside hs).2 hrun]
      exact ⟨h1, rfl⟩

/-- The press of a report is taken after a change of state by a flag, whatever the flag, and nothing follows it. -/
theorem State.Heard.afterChange (h : s.Heard n g v) (hne : g.state ≠ old) : v.afterIsolator n old rep sent = v.buttonStep n rep true := by
  have hs : v.stateOf n = some g.state := stateOf_eq.mpr ⟨g, h.load, rfl⟩
  have hs4 : (v.buttonStep n rep true).stateOf n = some g.state := stateOf_eq.mpr ⟨_, h.buttonBeside.1.load, rfl⟩
  have hb : (some g.state != some old) = true := by simpa using hne
  unfold State.afterIsolator
  simp [hs, hne, hb, hs4]

theorem State.Heard.afterLocal (h : s.Heard n g v) (hs : g.state = old) (h3 : s.Heard n x (v.localStep n rep)) (hne : x.state ≠ old) :
    v.afterIsolator n old rep sent = (v.localStep n rep).buttonStep n rep true := by
  have hs2 : v.stateOf n = some old := stateOf_eq.mpr ⟨g, h.load, hs⟩
  have hs3 : (v.localStep n rep).stateOf n = some x.state := stateOf_eq.mpr ⟨x, h3.load, rfl⟩
  have hs4 : ((v.localStep n rep).buttonStep n rep true).stateOf n = some x.state := stateOf_eq.mpr ⟨_, h3.buttonBeside.1.load, rfl⟩
  have hb : (some x.state != some old) = true := by simpa using hne
  unfold State.afterIsolator
  simp [hs2, hs3, hne, hb, hs4]

/-- R51: the local flag takes a record to LOCAL. -/
theorem localStep_flag (hl : v.load n = some g) (hf : rep.localFlag = true) (h1 : g.state ≠ .unknown) (h2 : g.state ≠ .retiring)
    (h3 : g.state ≠ .inLocal) : v.localStep n rep = v.moveTo n .inLocal (localOutcome g.state) := by
  have hs : v.stateOf n = some g.state := stateOf_eq.mpr ⟨g, hl, rfl⟩
  unfold State.localStep
  rw [hs]
  cases hst : g.state <;> simp_all

/-- R52: a clear flag takes a record out of LOCAL. -/
theorem localStep_clear (hl : v.load n = some g) (hs : g.state = .inLocal) (hf : rep.localFlag = false) :
    v.localStep n rep = v.moveTo n (if rep.run = .stopped then .stopped else .run) none := by
  have hs : v.stateOf n = some .inLocal := stateOf_eq.mpr ⟨g, hl, hs⟩
  unfold State.localStep
  simp [hs, hf]

/-! ### The record that a change and a press beside it leave -/

theorem movedRecord_beside (s : State) (g : LoadRecord) (new : LoadState) (out : Option (Operation × OpResult)) (rep : Report) :
    (s.movedRecord g new out).beside rep = { s.movedRecord { g with buttonTaken := rep.button } new out with
      buttonHold := if rep.button ≠ g.buttonTaken ∧ (new = .run ∨ new = .idle ∨ new = .due ∨ new = .stopping) then some g.tuning.buttonTime
        else g.buttonHold } := by
  cases out <;> rfl

/-- A press beside a change to a state that keeps no button hold. -/
theorem movedRecord_beside_off (s : State) (r : LoadRecord) (out : Option (Operation × OpResult))
    (hn : new ≠ .run ∧ new ≠ .idle ∧ new ≠ .due ∧ new ≠ .stopping) :
    (s.movedRecord (r.flagged rep) new out).beside rep = s.movedRecord (r.heard rep) new out := by
  obtain ⟨h1, h2, h3, h4⟩ := hn
  rw [movedRecord_beside, if_neg (by simp [h1, h2, h3, h4])]
  cases out <;> rfl

/-- A press beside a change to RUN or STOPPING. -/
theorem movedRecord_beside_on (s : State) (r : LoadRecord) (out : Option (Operation × OpResult)) (hn : new = .run ∨ new = .stopping) :
    (s.movedRecord (r.flagged rep) new out).beside rep = { s.movedRecord (r.heard rep) new out with
      buttonHold := if rep.button = r.buttonTaken then r.buttonHold else some r.tuning.buttonTime } := by
  rw [movedRecord_beside]
  by_cases hb : rep.button = r.buttonTaken
  · rw [if_neg (fun h => h.1 hb), if_pos hb]
    cases out <;> rfl
  · rw [if_pos ⟨hb, by rcases hn with rfl | rfl <;> simp⟩, if_neg hb]
    cases out <;> rfl

/-! ### After the hand-offs -/

theorem ranByReport_feeders (v : State) (n : Nat) (old : LoadState) : (v.ranByReport n old).feeders = v.feeders := by
  unfold State.ranByReport
  split <;> rfl

/-- A change of state by a flag with the press beside it, and what the step leaves of it. -/
structure Changed (s : State) (n : Nat) (g : LoadRecord) (new : LoadState) (x : LoadRecord) (p : State) : Prop where
  heard : s.Heard n x p
  marks : n ∈ p.marks
  state : x.state = new
  feeder : g.state = .starting → p.feeders[g.feeder] = if s.settleTime = 0 then .free else .settling (s.timeBase + s.settleTime)

theorem State.Heard.changed (h : s.Heard n g v) (new old : LoadState) (out : Option (Operation × OpResult)) (hn : new ≠ .starting) :
    Changed s n g new ((s.movedRecord g new out).beside rep) (((v.moveTo n new out).buttonStep n rep true).ranByReport n old) := by
  have hmoved := h.moveTo new out
  obtain ⟨hpressed, hfeed⟩ := hmoved.buttonBeside (rep := rep)
  refine ⟨hpressed.ranByReport old, ?_, by simp, fun hs => ?_⟩
  · rw [ranByReport_marks]
    exact (marks_reportKeeps n).buttonStep (moveTo_marks_self h.load) true
  · rw [ranByReport_feeders, hfeed, moveTo_feeder_self h.load hn hs, h.timeBase, h.settleTime]

theorem Changed.settled {p : State} (h : Changed s n g new x p) (h1 : new ≠ .due) (h2 : new ≠ .queued) (h3 : new ≠ .stopped) :
    (s.settle p []).load n = some x :=
  h.heard.settled_still (h.state ▸ h1) (h.state ▸ h2) (h.state ▸ h3)

theorem Changed.released {p : State} (h : Changed s n g new x p) (hs : g.state = .starting) : s.Released (s.settle p []) g.feeder :=
  released_settled (h.feeder hs)

/-- R123: no hand-off queues a STOPPED record under an isolator hold. -/
theorem State.Heard.settled_barred (h : s.Heard n g v) (hs : g.state = .stopped) (hi : g.isolatorHold = true) :
    (s.settle v []).load n = some g := by
  obtain ⟨r', hl, hr⟩ := h.settled
  obtain ⟨-, -, -, hsame⟩ := hr.same
  rcases (hr.stopped hs).2.2 with rfl | ⟨-, hq⟩
  · exact hl
  · have hbar : (s.settle v []).keepOff n = true := keepOff_iff.mpr (.inr ⟨r', hl, hsame.trans hi⟩)
    have hst : (s.settle v []).stateOf n = some .queued ∨ (s.settle v []).stateOf n = some .starting :=
      hq.imp (fun hq => stateOf_eq.mpr ⟨r', hl, hq⟩) (fun hq => stateOf_eq.mpr ⟨r', hl, hq⟩)
    obtain ⟨-, hv⟩ := (Guarded.settle s v []).free n hbar hst
    rw [stateOf_eq.mpr ⟨g, h.load, rfl⟩, hs] at hv
    simp at hv

end Sys2Proof.Machine
end

section
/-! PROPERTY. O46: the flags of a valid report, by the record's state, and the statement about them. -/

namespace Sys2Proof.Machine

variable {s t u v p : State} {n m : Nat} {r r' g x : LoadRecord} {new old : LoadState} {out : Option (Operation × OpResult)} {rep : Report}
  {sent : Commanded}

/-! ### The isolator flag -/

/-- Another provider of the record's group is in STOPPING (R57, R64, R112). -/
theorem otherStopping_iff (hc : Table.Canonical 240 s.loads) : s.otherStopping n r = true ↔
    ∃ p m rm pm, r.provides = some p ∧ m ≠ n ∧ s.load m = some rm ∧ rm.provides = some pm ∧ pm.group = p.group ∧ rm.state = .stopping := by
  unfold State.otherStopping
  cases hp : r.provides with
  | none => simp
  | some p =>
    simp only [List.any_eq_true, Bool.and_eq_true, bne_iff_ne, ne_eq, beq_iff_eq]
    constructor
    · rintro ⟨q, hq, hne, hs⟩
      obtain ⟨rm, pm, hl, hpm, hg, -, -, hst⟩ := provider_record hc hq
      exact ⟨p, q.load, rm, pm, rfl, hne, hl, hpm, hg, hst ▸ hs⟩
    · rintro ⟨p', m, rm, pm, hp', hne, hl, hpm, hg, hs⟩
      obtain rfl := Option.some.inj hp'
      exact ⟨_, hg ▸ mem_providersByLoad_of_load hl hpm, hne, hs⟩

/-- An isolator flag that changes marks its slot. -/
theorem followIsolator_marks {b : Bool} (hl : v.load n = some g) (hb : b ≠ g.isolatorHold) : n ∈ (v.followIsolator n b).marks := by
  have hw : n ∈ ((v.setLoad n { g with isolatorHold := b }).mark n).marks := (NatSet.mem_add _ _ _).mpr (.inl rfl)
  unfold State.followIsolator
  simp only [hl, if_neg (Ne.symm hb)]
  split
  · exact (marks_reportKeeps n).keepOffAppears hw
  · exact (marks_reportKeeps n).keepOffLeft hw

/-- R83: an isolator that opens is a KEEP-OFF hold that appears. -/
theorem followIsolator_opened (hl : v.load n = some (r.listened rep)) (hopen : rep.isolatorOpen = true) (hhold : r.isolatorHold = false) :
    v.followIsolator n rep.isolatorOpen = ((v.setLoad n (r.flagged rep)).mark n).keepOffAppears n := by
  have hh : (r.listened rep).isolatorHold = false := hhold
  simp [State.followIsolator, hl, hh, hopen, LoadRecord.flagged]

/-- R84, R117: with its last KEEP-OFF hold gone, by an isolator that closes, the load leaves the failed-raise sets. -/
theorem clear_followIsolator (h : s.Heard n g v) (hh : g.isolatorHold = true) (hport : ∀ e ∈ s.holdsOn n, e.2.sense ≠ .keepOff)
    (hraise : ∀ k x, v.group k = some x → x.state ≠ .raising n) : State.Clear n (v.followIsolator n false) := by
  have h1 := (h.setLoad { g with isolatorHold := false }).mark
  have hbar : ((v.setLoad n { g with isolatorHold := false }).mark n).keepOff n = false := by
    rw [Bool.eq_false_iff]
    intro hk
    rcases keepOff_iff.mp hk with ⟨e, he, hn, hs⟩ | ⟨r', hr, hi⟩
    · rw [h1.holds] at he
      exact hport e (List.mem_filter.mpr ⟨he, by simpa using hn⟩) hs
    · obtain rfl := Option.some.inj (h1.load.symm.trans hr)
      simp at hi
  have hf : v.followIsolator n false = ((v.setLoad n { g with isolatorHold := false }).mark n).forgetFailed n := by
    simp [State.followIsolator, h.load, hh, State.keepOffLeft, hbar]
  rw [hf]
  exact clear_forgetFailed hraise

/-- R83, R62: the isolator opens on a QUEUED record. -/
theorem State.Heard.opened_queued (h : s.Heard n (r.listened rep) v) (hs : r.state = .queued) (hopen : rep.isolatorOpen = true)
    (hhold : r.isolatorHold = false) :
    (s.settle (((v.followIsolator n rep.isolatorOpen).afterIsolator n r.state rep sent).ranByReport n r.state) []).load n
      = some (s.movedRecord (r.heard rep) .stopped (some (.start, .cancelled))) := by
  have h2 := (h.setLoad (r.flagged rep)).mark
  have hmove : v.followIsolator n rep.isolatorOpen
      = ((v.setLoad n (r.flagged rep)).mark n).moveTo n .stopped (some (.start, .cancelled)) := by
    rcases keepOffAppears_cases h2.load with ⟨-, e⟩ | ⟨hst, -⟩ | ⟨hst, -⟩ | ⟨hst, -⟩
    · rw [← e]
      exact followIsolator_opened h.load hopen hhold
    · exact absurd (hst.symm.trans hs) (by simp)
    · exact absurd (hst.symm.trans hs) (by simp)
    · exact absurd hs hst
  rw [hmove, (h2.moveTo .stopped _).afterChange (by simp [hs])]
  have hch := h2.changed (rep := rep) .stopped r.state (some (.start, .cancelled)) (by simp)
  rw [movedRecord_beside_off s r _ (by simp)] at hch
  exact hch.heard.settled_barred (by simp) (by simpa [State.movedRecord, LoadRecord.entering, LoadRecord.heard] using hopen)

/-- R64, R83: the isolator opens on a STARTING record: a fault where another provider of the group is in STOPPING, and else a stop. -/
theorem State.Heard.opened_starting (h : s.Heard n (r.listened rep) v) (hs : r.state = .starting) (hopen : rep.isolatorOpen = true)
    (hhold : r.isolatorHold = false) :
    ∃ w new, w = ((v.setLoad n (r.flagged rep)).mark n)
      ∧ new = (if w.otherStopping n (r.flagged rep) = true then .fault else .stopping)
      ∧ Changed s n (r.flagged rep) new ((s.movedRecord (r.flagged rep) new (some (.start, .cancelled))).beside rep)
        (((v.followIsolator n rep.isolatorOpen).afterIsolator n r.state rep sent).ranByReport n r.state) := by
  have h2 := (h.setLoad (r.flagged rep)).mark
  refine ⟨_, _, rfl, rfl, ?_⟩
  have hmove : v.followIsolator n rep.isolatorOpen
      = ((v.setLoad n (r.flagged rep)).mark n).moveTo n
        (if State.otherStopping ((v.setLoad n (r.flagged rep)).mark n) n (r.flagged rep) = true
          then .fault else .stopping) (some (.start, .cancelled)) := by
    have hf : v.followIsolator n rep.isolatorOpen
        = ((v.setLoad n (r.flagged rep)).mark n).keepOffAppears n := followIsolator_opened h.load hopen hhold
    rw [hf]
    rcases keepOffAppears_cases h2.load with ⟨hst, -⟩ | ⟨-, ho, e⟩ | ⟨-, ho, e⟩ | ⟨-, hst, -⟩
    · exact absurd (hst.symm.trans hs) (by simp)
    · rw [e, if_pos ho]
    · rw [e, if_neg (by simp [ho])]
    · exact absurd hs hst
  rw [hmove]
  generalize hnew : (if State.otherStopping ((v.setLoad n (r.flagged rep)).mark n) n (r.flagged rep) = true
    then LoadState.fault else .stopping) = new
  have hno : new ≠ .starting := by
    rw [← hnew]
    split <;> simp
  rw [(h2.moveTo new _).afterChange (by simpa [hs] using hno)]
  exact h2.changed (rep := rep) new r.state _ hno

/-! ### The local flag -/

/-- R51: the record that the local flag leaves, with the outcome of the operation in flight. -/
theorem movedRecord_local (s : State) (g : LoadRecord) : s.movedRecord g .inLocal (localOutcome g.state) = { g with
    state := .inLocal, blockReason := .none, portStop := none, idleClock := 0, verifyEnd := none
    lastOutcome :=
      if g.state = .stopping then some { operation := .stop, result := .overtaken, time := s.stamp }
      else if g.state = .queued ∨ g.state = .starting then some { operation := .start, result := .overtaken, time := s.stamp }
      else g.lastOutcome } := by
  rw [movedRecord_outcome]
  have hout : s.outcomeAfter g (localOutcome g.state) =
      if g.state = .stopping then some { operation := .stop, result := .overtaken, time := s.stamp }
      else if g.state = .queued ∨ g.state = .starting then some { operation := .start, result := .overtaken, time := s.stamp }
      else g.lastOutcome := by
    cases g.state <;> rfl
  rw [hout]
  simp [LoadRecord.entering, commandedOn]

/-- The isolator flag of a report that does not open it on a start. -/
theorem State.Heard.followed (h : s.Heard n (r.listened rep) v)
    (hb : rep.isolatorOpen = false ∨ r.isolatorHold = true ∨ (r.state ≠ .queued ∧ r.state ≠ .starting)) :
    s.Heard n (r.flagged rep) (v.followIsolator n rep.isolatorOpen) := by
  refine h.followIsolator ?_
  rcases hb with hb | hb | hb
  · exact .inr (.inl hb)
  · cases ho : rep.isolatorOpen with
    | false => exact .inr (.inl rfl)
    | true => exact .inl hb.symm
  · exact .inr (.inr hb)

theorem State.Heard.flagged (h : s.Heard n (r.flagged rep) v) (hf : rep.localFlag = true)
    (h1 : r.state ≠ .unknown) (h2 : r.state ≠ .retiring) (h3 : r.state ≠ .inLocal) :
    Changed s n (r.flagged rep) .inLocal (s.movedRecord (r.heard rep) .inLocal (localOutcome r.state))
      ((v.afterIsolator n r.state rep sent).ranByReport n r.state) := by
  have hstep : v.localStep n rep = v.moveTo n .inLocal (localOutcome r.state) := localStep_flag (g := r.flagged rep) h.load hf h1 h2 h3
  have hmoved := h.moveTo .inLocal (localOutcome r.state)
  rw [h.afterLocal (old := r.state) rfl (x := _) (hstep ▸ hmoved) (by simpa using Ne.symm h3), hstep, ← movedRecord_beside_off s r _ (by simp)]
  exact h.changed (rep := rep) .inLocal r.state _ (by simp)

/-- R52: a record that stays in LOCAL. -/
theorem State.Heard.stays_local (h : s.Heard n (r.flagged rep) v) (hs : r.state = .inLocal)
    (hf : rep.localFlag = true) : s.Heard n (r.heard rep) ((v.afterIsolator n r.state rep sent).ranByReport n r.state) := by
  have hst : v.stateOf n = some .inLocal := stateOf_eq.mpr ⟨_, h.load, hs⟩
  have hstep : v.localStep n rep = v := by simp [State.localStep, hst, hf]
  have hbutton : s.Heard n (r.heard rep) (v.buttonStep n rep false) := by
    unfold State.buttonStep
    simp only [h.load]
    split
    · rename_i hb
      rw [heard_of_flagged, ← hb]
      exact h
    · have h1 := h.setLoad (r.heard rep)
      have hst' : (v.setLoad n (r.heard rep)).stateOf n = some .inLocal := stateOf_eq.mpr ⟨_, h1.load, hs⟩
      have hpress : (v.setLoad n (r.heard rep)).press n false = v.setLoad n (r.heard rep) := by
        unfold State.press
        rw [hst']
      exact hpress.symm ▸ h1
  have hst4 : (v.buttonStep n rep false).stateOf n = some .inLocal := stateOf_eq.mpr ⟨_, hbutton.load, hs⟩
  have hrun : (v.buttonStep n rep false).runStep n rep sent = v.buttonStep n rep false := by
    simp [State.runStep, hbutton.load, hs]
  have heq : v.afterIsolator n r.state rep sent = v.buttonStep n rep false := by
    unfold State.afterIsolator
    simp [hs, hst, hstep, hst4, hrun]
  rw [heq]
  exact hbutton.ranByReport _

/-- R52: a record that leaves LOCAL by its run state. -/
theorem State.Heard.leaves_local (h : s.Heard n (r.flagged rep) v) (hs : r.state = .inLocal)
    (hf : rep.localFlag = false) :
    Changed s n (r.flagged rep) (if rep.run = .stopped then .stopped else .run)
      ((s.movedRecord (r.flagged rep) (if rep.run = .stopped then .stopped else .run) none).beside rep)
      ((v.afterIsolator n r.state rep sent).ranByReport n r.state) := by
  have hstep := localStep_clear h.load hs hf
  have hmoved := h.moveTo (if rep.run = .stopped then .stopped else .run) none
  rw [h.afterLocal (old := r.state) rfl (hstep ▸ hmoved) (by rw [movedRecord_state, hs]; split <;> simp), hstep]
  exact h.changed (rep := rep) _ r.state _ (by split <;> simp)

/-! ### The failed-raise sets -/

theorem HandedOn.to_run {now : Nat} (h : HandedOn now r r') (hs : r'.state = .run) : r.state = .run := by
  rcases h with rfl | ⟨hd, ⟨b, rfl⟩ | rfl⟩ | ⟨-, -, rfl | rfl⟩ | ⟨-, rfl⟩
  · exact hs
  · exact hs
  all_goals simp [LoadRecord.entering] at hs

/-- R117: a record that its report has brought into RUN is in no failed-raise set after the step. -/
theorem clear_of_run (hc : Table.Canonical 240 v.loads) (hold : old ≠ .run) (hover : State.RaiseOver n v)
    (hs : (s.settle (v.ranByReport n old) []).stateOf n = some .run) :
    ∀ k x, (s.settle (v.ranByReport n old) []).group k = some x → n ∉ x.failed := by
  have hload : (v.ranByReport n old).load n = v.load n := by
    unfold State.ranByReport
    split <;> rfl
  have hcan : Table.Canonical 240 (v.ranByReport n old).loads := by
    unfold State.ranByReport
    split
    · exact hc
    · exact hc
  have hq : Quiet (v.ranByReport n old) (s.settle (v.ranByReport n old) []) := settle_quiet (by simp)
  obtain ⟨r', hr', hst⟩ := stateOf_eq.mp hs
  obtain ⟨g, hl⟩ : ∃ g, (v.ranByReport n old).load n = some g := Option.ne_none_iff_exists'.mp (fun h => by
    rw [hq.vacant n h] at hr'
    simp at hr')
  obtain ⟨r2, hr2, hh⟩ := hq.record hcan n g hl
  obtain rfl := Option.some.inj (hr'.symm.trans hr2)
  have hrun : v.stateOf n = some .run := stateOf_eq.mpr ⟨g, hload ▸ hl, hh.to_run hst⟩
  have hclear : State.Clear n (v.ranByReport n old) := by
    rw [State.ranByReport, if_pos ⟨hold, hrun⟩]
    exact clear_forgetFailed (hover hrun)
  exact hclear.settled

end Sys2Proof.Machine
end

section
/-! PROPERTY. O46: the statement about the flags of a valid report. -/

namespace Sys2Proof.Machine

variable {s t u v p : State} {n m : Nat} {r r' g x : LoadRecord} {new old : LoadState} {rep : Report} {sent : Commanded}

/-- What the step of a report makes of a record that it brings out of STARTING by an isolator that opens (R64, R83). -/
theorem State.Noted.opened_starting (h : s.Noted n (r.listened rep) v) (hc : Canonical s) (hs : r.state = .starting)
    (hopen : rep.isolatorOpen = true) (hhold : r.isolatorHold = false)
    (ht : t = s.settle (((v.followIsolator n rep.isolatorOpen).afterIsolator n r.state rep sent).ranByReport n r.state) []) :
    s.Released t r.feeder
    ∧ (s.otherStopping n r = true → t.load n = some (s.movedRecord (r.heard rep) .fault (some (.start, .cancelled))))
    ∧ (s.otherStopping n r = false → t.load n = some { s.movedRecord (r.heard rep) .stopping (some (.start, .cancelled)) with
        buttonHold := if rep.button = r.buttonTaken then r.buttonHold else some r.tuning.buttonTime }) := by
  obtain ⟨w, new, hw, hnew, hch⟩ := h.heard.opened_starting (sent := sent) hs hopen hhold
  have hother : w.otherStopping n (r.flagged rep) = s.otherStopping n r := by
    have hcw : Table.Canonical 240 w.loads := hw ▸ (h.heard.setLoad (r.flagged rep)).mark.canonical
    rw [Bool.eq_iff_iff, otherStopping_iff hcw, otherStopping_iff hc.loads]
    refine exists_congr (fun p => exists_congr (fun m => exists_congr (fun rm => exists_congr (fun pm => and_congr Iff.rfl ?_))))
    refine and_congr_right (fun hm => ?_)
    have : w.load m = s.load m := by
      rw [hw]
      exact (load_setLoad ..).trans ((if_neg hm).trans (h.others m hm))
    rw [this]
  have hstill : t.load n = some _ := ht ▸ hch.settled (by rw [hnew]; split <;> simp) (by rw [hnew]; split <;> simp)
    (by rw [hnew]; split <;> simp)
  refine ⟨ht ▸ hch.released hs, fun ho => ?_, fun ho => ?_⟩
  · rw [hother, ho, if_pos rfl] at hnew
    rw [hstill, hnew, movedRecord_beside_off _ _ _ (by simp)]
  · rw [hother, ho, if_neg (by simp)] at hnew
    rw [hstill, hnew, movedRecord_beside_on _ _ _ (.inr rfl)]

/-- Settles O46: each clause reads off the part of the report that changes the record, the press beside it, and what the hand-offs of the step
may still do. -/
theorem reportFlagsAct : Obligations.ReportFlagsAct := by
  unfold Obligations.ReportFlagsAct
  intro s l samples e n r g rep b hc he hn hl hline haddr hj hu hg hb
  obtain rfl : g = r.heard rep := hg.trans (heard_eq r rep).symm
  subst hb
  clear hg
  obtain ⟨v, h, hexec⟩ := exec_listening hc he hn hl hj hu
  generalize e.order.commanded = sent at hexec
  obtain ⟨t, ht⟩ : ∃ t, t = s.settle (((v.followIsolator n rep.isolatorOpen).afterIsolator n r.state rep sent).ranByReport n r.state) [] :=
    ⟨_, rfl⟩
  have hunqueued : r.state = .queued → t.stateOf n ≠ some .queued → t.hasEntry n = false := fun hs hne => by
    have hk := entryQueued_reportKeeps n
    have hv : State.EntryQueued n v := fun _ => stateOf_eq.mpr ⟨_, h.heard.load, hs⟩
    have hq : State.EntryQueued n t := ht ▸ State.EntryQueued.settled (hk.ranByReport (hk.afterIsolator (hk.followIsolator hv _)) _)
    exact Bool.eq_false_iff.mpr (fun he => hne (hq he))
  have hsettled : ∀ {x : LoadRecord} {st : LoadState}, t.load n = some x → x.state = st → t.stateOf n = some st := fun hx hs =>
    stateOf_eq.mpr ⟨_, hx, hs⟩
  refine ⟨t, ht ▸ hexec, fun hne => ?_, fun hopen hhold => ⟨fun hs => ?_, fun hs => ?_⟩, fun hf h1 h2 h3 => ?_,
    fun hs => ⟨fun hf => ?_, fun hf hr => ?_, fun hf hr => ?_⟩, fun hrun hto => ?_, fun hopen hhold hport h1 h2 hraise => ?_⟩
  · rw [ht]
    have hk := marks_reportKeeps n
    exact settled_marks (hk.ranByReport (hk.afterIsolator (followIsolator_marks h.heard.load hne)) _)
  · have hrec : t.load n = some _ := ht ▸ h.heard.opened_queued hs hopen hhold
    refine ⟨hunqueued hs (by rw [hsettled hrec rfl, movedRecord_state]; simp), hrec.trans ?_⟩
    rw [movedRecord_outcome, entering_stopped, if_neg (by simp [hs, writesOffSince])]
    rfl
  · obtain ⟨hrel, hfault, hstop⟩ := h.opened_starting hc hs hopen hhold ht
    refine ⟨hrel, fun ho => ?_, fun ho => ?_⟩
    · rw [hfault ((otherStopping_iff hc.loads).mpr ho), movedRecord_outcome]
      simp [LoadRecord.entering, commandedOn, hs, State.outcomeAfter]
    · have hno : s.otherStopping n r = false := by
        rw [Bool.eq_false_iff]
        intro h1
        obtain ⟨p, m, rm, pm, hp, hm, hlm, hpm, hg, hst⟩ := (otherStopping_iff hc.loads).mp h1
        exact ho p m rm pm hp hm hlm hpm hg hst
      rw [hstop hno, movedRecord_outcome, entering_stopping]
      rfl
  · have hch := (h.heard.followed (rep := rep) h3).flagged (sent := sent) hf hu h1 h2
    have hrec : t.load n = some _ := ht ▸ hch.settled (by simp) (by simp) (by simp)
    refine ⟨ht ▸ settled_marks hch.marks, fun hs => hunqueued hs ?_, fun hs => ht ▸ hch.released hs, hrec.trans ?_⟩
    · rw [hsettled hrec (movedRecord_state ..)]
      simp
    · exact congrArg some (movedRecord_local s (r.heard rep))
  · have hfollowed := h.heard.followed (rep := rep) (.inr (.inr (by simp [hs])))
    exact ht ▸ (hfollowed.stays_local hs hf).settled_still (by simp [hs]) (by simp [hs]) (by simp [hs])
  · have hch := (h.heard.followed (rep := rep) (.inr (.inr (by simp [hs])))).leaves_local (sent := sent) hs hf
    rw [if_neg hr, movedRecord_beside_on _ _ _ (.inl rfl)] at hch
    refine ⟨ht ▸ settled_marks hch.marks, (ht ▸ hch.settled (by simp) (by simp) (by simp) : t.load n = some _).trans ?_⟩
    rw [movedRecord_run _ _ _ (by simp [hs, writesRunSince])]
    rfl
  · have hch := (h.heard.followed (rep := rep) (.inr (.inr (by simp [hs])))).leaves_local (sent := sent) hs hf
    rw [if_pos hr, movedRecord_beside_off _ _ _ (by simp), movedRecord_stopped _ _ _ (by simp [hs, writesOffSince])] at hch
    exact ⟨ht ▸ settled_marks hch.marks, ht ▸ hch.heard.settled⟩
  · have hk := raiseOver_reportKeeps n
    have hv : State.RaiseOver n v := fun hs => by
      rw [stateOf_eq.mpr ⟨_, h.heard.load, rfl⟩] at hs
      exact absurd (Option.some.inj hs) hrun
    rw [ht] at hto ⊢
    have hcan := canonical_reportKeeps n
    exact clear_of_run (hcan.afterIsolator (hcan.followIsolator h.heard.canonical _)) hrun (hk.afterIsolator (hk.followIsolator hv _)) hto
  · rw [ht, hopen]
    have hno : ∀ k x, v.group k = some x → x.state ≠ .raising n := fun k x hx hr => by
      unfold State.group at hx
      rw [h.groups] at hx
      rcases hraise k n x hx hr with hst | hst <;> rw [stateOf_eq.mpr ⟨r, hl, rfl⟩] at hst
      · exact h1 (Option.some.inj hst)
      · exact h2 (Option.some.inj hst)
    have hk := clear_reportKeeps n
    exact (hk.ranByReport (hk.afterIsolator (clear_followIsolator h.heard hhold hport hno)) _).settled

end Sys2Proof.Machine
end

section
/-! PROPERTY. O47: a press of a drop's button in a valid report (R53, R60, R77, R123). -/

namespace Sys2Proof.Machine

variable {s t u v w p : State} {n m E : Nat} {r r' g x y : LoadRecord} {new old : LoadState} {rep : Report} {sent : Commanded} {l : Fin 4}
  {e : Exchange} {samples : List (BitVec 11)} {b : BlockReason}

/-! ### A state in which one record alone has been rewritten -/

theorem State.Noted.loads (hv : s.Noted n x v) (hc : Table.Canonical 240 s.loads) (hl : s.load n = some r) : v.loads = (s.setLoad n x).loads :=
  Table.ext_find hv.heard.canonical (Table.canonical_put hc (Table.lt_of_find hc hl) x) (fun m => by
    show v.load m = (s.setLoad n x).load m
    rw [load_setLoad]
    split
    · rename_i hm
      exact hm ▸ hv.heard.load
    · rename_i hm
      exact hv.others m hm)

theorem State.Noted.groupView (hv : s.Noted n x v) (hc : Table.Canonical 240 s.loads) (hl : s.load n = some r) (k : Nat) :
    v.groupView k = (s.setLoad n x).groupView k := by
  unfold State.groupView State.providersByLoad State.consumers State.margin State.group
  rw [hv.loads hc hl, hv.groups]
  rfl

theorem State.Noted.permission (hv : s.Noted n x v) (hc : Table.Canonical 240 s.loads) (hl : s.load n = some r) (y : LoadRecord) :
    v.permission n y = (s.setLoad n x).permission n y := by
  refine permission_of_view hv.authority (keepRunLevels_congr hv.heard.holds ?_) hv.heard.timeBase (hv.groupView hc hl)
  rw [hv.heard.load, load_setLoad, if_pos rfl]

/-- What a DUE load draws and provides does not turn on its reports (R109). -/
theorem groupView_of_due (hc : Table.Canonical 240 s.loads) (hl : s.load n = some r) (hd : r.state = .due) (hx : x.state = .due)
    (h1 : x.provides = r.provides) (h2 : x.drawsA = r.drawsA) (h3 : x.drawsB = r.drawsB) (k : Nat) :
    (s.setLoad n x).groupView k = s.groupView k := by
  have hload : Table.find s.loads n = some r := hl
  unfold State.groupView State.providersByLoad State.consumers State.margin State.group
  simp only [State.setLoad_loads, State.setLoad_groups, GroupView.mk.injEq, true_and]
  constructor
  · apply filterMap_put hc
    simp [hload, LoadRecord.providesTo, LoadRecord.supplies, h1, hd, hx]
  · apply filterMap_put hc
    simp [hload, LoadRecord.demandOn, LoadRecord.draws, h2, h3, hd, hx]

/-- A DUE record that stays DUE hands nothing on, whatever else of it is written. -/
theorem State.Noted.handoffs_due (hv : s.Noted n x v) (hc : Table.Canonical 240 s.loads) (hl : s.load n = some r) (hd : r.state = .due)
    (hx : x.state = .due) (h1 : x.provides = r.provides) (h2 : x.drawsA = r.drawsA) (h3 : x.drawsB = r.drawsB)
    (hi : x.isolatorHold = r.isolatorHold) : handoffs s v = [] := by
  have hst : ∀ m, v.stateOf m = s.stateOf m := fun m => by
    by_cases hm : m = n
    · rw [hm, stateOf_eq.mpr ⟨x, hv.heard.load, hx⟩, stateOf_eq.mpr ⟨r, hl, hd⟩]
    · unfold State.stateOf
      rw [hv.others m hm]
  refine handoffs_nil hc hv.heard.canonical hv.authority (fun k => (hv.groupView hc hl k).trans (groupView_of_due hc hl hd hx h1 h2 h3 k))
    (fun m => by unfold State.hasEntry; rw [hv.queue]) hv.feeders (fun m h => hst m ▸ h) (fun m h => (hst m).trans h) (fun m hk _ => ?_)
  refine keepOff_mono (fun e he hn hs => ⟨e, by rw [hv.heard.holds]; exact he, hn, hs⟩) (fun r' hr hi' => ?_) hk
  by_cases hm : m = n
  · subst hm
    obtain rfl := Option.some.inj (hl.symm.trans hr)
    exact ⟨x, hv.heard.load, hi.trans hi'⟩
  · exact ⟨r', (hv.others m hm).trans hr, hi'⟩

theorem State.Noted.keepOff (hv : s.Noted n x v) (hl : s.load n = some r) (hi : x.isolatorHold = r.isolatorHold) : v.keepOff n = s.keepOff n := by
  unfold State.keepOff State.holdsOn
  rw [hv.heard.load, hv.heard.holds, hl]
  simp only [hi]

/-! ### The press in its report -/

/-- What a report does at a press: the press, and the run state where the press has not changed the state. -/
def State.afterPress (w : State) (n : Nat) (old : LoadState) (rep : Report) (sent : Commanded) : State :=
  if (w.press n false).stateOf n = some old then (w.press n false).runStep n rep sent else w.press n false

theorem exec_pressed (hc : Canonical s) (he : (s.lineAt l).exchange = some e) (hn : e.load = some n) (hl : s.load n = some r)
    (hj : judge e.address (receivedChars samples) = .valid rep) (hu : r.state ≠ .unknown) (hbutton : rep.button ≠ r.buttonTaken)
    (hflag : rep.localFlag = true ↔ r.state = .inLocal) (hiso : rep.isolatorOpen = r.isolatorHold) :
    ∃ w, s.Noted n (r.heard rep) w ∧ exec (.replyEnd l samples) s = .next (s.settle
      ((w.afterPress n r.state rep e.order.commanded).ranByReport n r.state) []) := by
  obtain ⟨v, hv, hexec⟩ := exec_listening hc he hn hl hj hu
  have hsame : v.followIsolator n rep.isolatorOpen = v := by
    have : (r.listened rep).isolatorHold = rep.isolatorOpen := hiso.symm
    simp [State.followIsolator, hv.heard.load, this]
  have hst : v.stateOf n = some r.state := stateOf_eq.mpr ⟨_, hv.heard.load, rfl⟩
  have hlocal : v.localStep n rep = v := by
    by_cases hi : r.state = .inLocal
    · rw [hi] at hst
      simp [State.localStep, hst, hflag.mpr hi]
    · exact localStep_calm hv.heard.load (.inr ⟨by simpa [hi] using hflag, hi⟩)
  have hheard : { r.listened rep with buttonTaken := rep.button } = r.heard rep := by
    rw [heard_of_flagged, LoadRecord.flagged, hiso]
    rfl
  have hpress : v.buttonStep n rep false = (v.setLoad n (r.heard rep)).press n false := by
    have : (r.listened rep).buttonTaken ≠ rep.button := Ne.symm hbutton
    simp only [State.buttonStep, hv.heard.load, if_neg this, hheard]
  refine ⟨v.setLoad n (r.heard rep), hv.setLoad _, ?_⟩
  rw [hexec, hsame]
  unfold State.afterIsolator State.afterPress
  simp [hst, hlocal, hpress]

/-- A press that leaves the state is followed by the run state. -/
theorem afterPress_same (hp : w.press n false = p) (hx : s.Heard n x p) (hs : x.state = old) :
    w.afterPress n old rep sent = p.runStep n rep sent := by
  rw [State.afterPress, hp, if_pos (stateOf_eq.mpr ⟨x, hx.load, hs⟩)]

/-- A press that changes the state is not. -/
theorem afterPress_changed (hp : w.press n false = p) (hx : s.Heard n x p) (hs : x.state ≠ old) : w.afterPress n old rep sent = p := by
  rw [State.afterPress, hp, if_neg (fun h => ?_)]
  rw [stateOf_eq.mpr ⟨x, hx.load, rfl⟩] at h
  exact hs (Option.some.inj h)

/-- R53: a press has no effect in these states beyond the echo. -/
theorem press_without_effect (hw : s.Heard n g w)
    (hs : g.state = .queued ∨ g.state = .starting ∨ g.state = .fault ∨ g.state = .retiring ∨ g.state = .inLocal) : w.press n false = w := by
  have hst : w.stateOf n = some g.state := stateOf_eq.mpr ⟨g, hw.load, rfl⟩
  unfold State.press
  rcases hs with e | e | e | e | e <;> rw [e] at hst <;> rw [hst]

/-! ### By the record's state -/

/-- The record with the button hold that a press places or refreshes (R77). -/
def LoadRecord.pressed (g : LoadRecord) : LoadRecord := { g with buttonHold := some g.tuning.buttonTime }

@[simp] theorem pressed_state (g : LoadRecord) : g.pressed.state = g.state := rfl

theorem State.Noted.placeButtonHold (hw : s.Noted n g w) : s.Noted n g.pressed (w.placeButtonHold n) ∧ n ∈ (w.placeButtonHold n).marks := by
  have heq : w.placeButtonHold n = (w.setLoad n g.pressed).mark n := by
    simp only [State.placeButtonHold, State.modifyLoad, hw.heard.load]
    rfl
  rw [heq]
  exact ⟨(hw.setLoad _).mark, (NatSet.mem_add _ _ _).mpr (.inl rfl)⟩

/-- A press in RUN or IDLE, and the run state after it. -/
theorem State.Noted.press_running (hw : s.Noted n g w) (hs : g.state = .run ∨ g.state = .idle)
    (ht : t = s.settle ((w.afterPress n g.state rep sent).ranByReport n g.state) []) :
    n ∈ t.marks ∧ (rep.run ≠ .stopped → t.load n = some g.pressed)
      ∧ (rep.run = .stopped → ∃ r', t.load n = some r' ∧ HandedOn s.timeBase
        { g.pressed with
          state := .stopped, offSince := s.timeBase, blockReason := .none, portStop := none, idleClock := 0, verifyEnd := none } r') := by
  obtain ⟨hp, hm⟩ := hw.placeButtonHold
  have hst : w.stateOf n = some g.state := stateOf_eq.mpr ⟨g, hw.heard.load, rfl⟩
  have hpress : w.press n false = w.placeButtonHold n := by
    unfold State.press
    rcases hs with hs | hs <;> rw [hs] at hst <;> rw [hst]
  rw [afterPress_same (old := g.state) hpress hp.heard rfl] at ht
  obtain ⟨-, -, -, -, -, hoff, hon, -⟩ := runStep_by_state hp.heard.load rep sent
  have hk := marks_reportKeeps n
  refine ⟨ht ▸ settled_marks (hk.ranByReport (hk.runStep hm) _), fun hr => ?_, fun hr => ?_⟩
  · rw [ht, hon (hs.imp_right .inl) hr]
    exact (hp.heard.ranByReport _).settled_still (by rcases hs with hs | hs <;> simp [hs]) (by rcases hs with hs | hs <;> simp [hs])
      (by rcases hs with hs | hs <;> simp [hs])
  · rw [ht, hoff (hs.imp_right .inl) hr]
    exact (hp.heard.settled_stopped (by rcases hs with hs | hs <;> simp [hs, writesOffSince]) g.state none).2

/-- R56, R58: a press in DUE: the evaluation with the hold in place, and the run state where the record is still DUE. -/
theorem State.Noted.press_due (hw : s.Noted n g w) (hc : Canonical s) (hl : s.load n = some r) (hd : r.state = .due) (hg : g.state = .due)
    (h1 : g.provides = r.provides) (h2 : g.drawsA = r.drawsA) (h3 : g.drawsB = r.drawsB) (hi : g.isolatorHold = r.isolatorHold)
    (ht : t = s.settle ((w.afterPress n .due rep sent).ranByReport n .due) []) (hb : b = (s.setLoad n g.pressed).permission n g.pressed) :
    n ∈ t.marks
      ∧ (b = .none → t.load n = some
        { g.pressed with
          state := .stopping, commanded := .stop, blockReason := .none, idleClock := 0
          verifyEnd := some (s.timeBase + g.tuning.stopVerify) })
      ∧ (b ≠ .none → rep.run ≠ .stopped → t.load n = some { g.pressed with blockReason := b })
      ∧ (b ≠ .none → rep.run = .stopped → ∃ r', t.load n = some r' ∧ HandedOn s.timeBase
        { g.pressed with
          state := .stopped, offSince := s.timeBase, blockReason := .none, portStop := none, idleClock := 0, verifyEnd := none } r') := by
  obtain ⟨hp, hm⟩ := hw.placeButtonHold
  have hst : w.stateOf n = some .due := stateOf_eq.mpr ⟨g, hw.heard.load, hg⟩
  have hpress : w.press n false = (w.placeButtonHold n).evaluate n := by
    unfold State.press
    rw [hst]
    rfl
  rw [evaluate_of_due hp.heard.load hg, hp.permission hc.loads hl g.pressed, ← hb] at hpress
  have hk := marks_reportKeeps n
  by_cases hnone : b = .none
  · rw [if_pos hnone] at hpress
    have hmoved := hp.heard.moveTo .stopping none
    rw [afterPress_changed hpress hmoved (by simp)] at ht
    refine ⟨ht ▸ settled_marks (hk.ranByReport (hk.moveTo hm _ _) _), fun _ => ?_, fun h => absurd hnone h, fun h => absurd hnone h⟩
    rw [ht, hp.heard.settled_moved_still .due none (by simp) (by simp) (by simp)]
    exact congrArg some (entering_stopping g.pressed s.timeBase)
  · rw [if_neg hnone] at hpress
    have hblocked := hp.setLoad { g.pressed with blockReason := b }
    rw [afterPress_same hpress hblocked.heard hg] at ht
    have hm' : n ∈ ((w.placeButtonHold n).setLoad n { g.pressed with blockReason := b }).marks := hm
    obtain ⟨-, -, -, -, -, hoff, hon, -⟩ := runStep_by_state hblocked.heard.load rep sent
    refine ⟨ht ▸ settled_marks (hk.ranByReport (hk.runStep hm') _), fun h => absurd h hnone, fun _ hr => ?_, fun _ hr => ?_⟩
    · have hran : ∀ u : State, s.Heard n { g.pressed with blockReason := b } u → u.ranByReport n .due = u := fun u hu =>
        if_neg (fun h => by
          rw [stateOf_eq.mpr ⟨_, hu.load, hg⟩] at h
          simp at h)
      rw [ht, hon (.inr (.inr hg)) hr, hran _ hblocked.heard, settle_nil (hblocked.handoffs_due hc.loads hl hd hg h1 h2 h3 hi)]
      exact hblocked.heard.load
    · rw [ht, hoff (.inr (.inr hg)) hr]
      exact (hblocked.heard.settled_stopped (by simp [hg, writesOffSince]) .due none).2

/-- R60: a press in STOPPING: a stop under an authority of at most 1 is overtaken, and else the run state follows. -/
theorem State.Noted.press_stopping (hw : s.Noted n g w) (hs : g.state = .stopping) (hE : E = max s.authority (g.portStop.getD 0))
    (ht : t = s.settle ((w.afterPress n .stopping rep sent).ranByReport n .stopping) []) :
    n ∈ t.marks
      ∧ (E ≤ 1 → t.load n = some
        { g.pressed with
          state := .run, commanded := .run, blockReason := .none, portStop := none, idleClock := 0, verifyEnd := none
          lastOutcome := some { operation := .stop, result := .overtaken, time := s.stamp } })
      ∧ (1 < E → rep.run ≠ .stopped → (rep.declined = false ∨ sent ≠ .stop) → t.load n = some g.pressed)
      ∧ (1 < E → rep.run ≠ .stopped → rep.declined = true → sent = .stop → t.load n = some
        { g.pressed with
          state := .run, commanded := .run, blockReason := .none, portStop := none, idleClock := 0, verifyEnd := none
          lastOutcome := some { operation := .stop, result := .declined, time := s.stamp } })
      ∧ (1 < E → rep.run = .stopped → ∃ r', t.load n = some r' ∧ HandedOn s.timeBase
        { g.pressed with
          state := .stopped, offSince := s.timeBase, blockReason := .none, portStop := none, idleClock := 0
          verifyEnd := none, lastOutcome := some { operation := .stop, result := .completed, time := s.stamp } } r') := by
  obtain ⟨hp, hm⟩ := hw.placeButtonHold
  have hst : w.stateOf n = some .stopping := stateOf_eq.mpr ⟨g, hw.heard.load, hs⟩
  have hpress : w.press n false
      = if E ≤ 1 then (w.placeButtonHold n).moveTo n .run (some (.stop, .overtaken)) else w.placeButtonHold n := by
    have heff : (w.placeButtonHold n).effectiveAuthority g.pressed = E := by
      rw [State.effectiveAuthority, hp.authority, hE]
      rfl
    unfold State.press
    rw [hst]
    simp [State.overtake, hp.heard.load, hs, heff]
  have hk := marks_reportKeeps n
  by_cases hle : E ≤ 1
  · rw [if_pos hle] at hpress
    rw [afterPress_changed hpress (hp.heard.moveTo .run _) (by simp)] at ht
    refine ⟨ht ▸ settled_marks (hk.ranByReport (hk.moveTo hm _ _) _), fun _ => ?_, fun h => ?_, fun h => ?_, fun h => ?_⟩
    · rw [ht, hp.heard.settled_moved_still .stopping _ (by simp) (by simp) (by simp), movedRecord_resumed _ _ _ (by simp [hs, writesRunSince])]
      rfl
    all_goals omega
  · rw [if_neg hle] at hpress
    rw [afterPress_same hpress hp.heard hs] at ht
    obtain ⟨hrest, hdecl, hstop, -⟩ := runStep_by_state hp.heard.load rep sent
    refine ⟨ht ▸ settled_marks (hk.ranByReport (hk.runStep hm) _), fun h => absurd h hle, fun _ hr hno => ?_, fun _ hr hd hsent => ?_,
      fun _ hr => ?_⟩
    · rw [ht, hstop hs hr hno]
      exact (hp.heard.ranByReport _).settled_still (by simp [hs]) (by simp [hs]) (by simp [hs])
    · rw [ht, hdecl hs hr hd hsent, hp.heard.settled_moved_still .stopping _ (by simp) (by simp) (by simp),
        movedRecord_resumed _ _ _ (by simp [hs, writesRunSince])]
      rfl
    · rw [ht, hrest hs hr]
      exact (hp.heard.settled_stopped (by simp [hs, writesOffSince]) .stopping (some (.stop, .completed))).2

theorem ranByReport_queue (v : State) (n : Nat) (old : LoadState) : (v.ranByReport n old).queue = v.queue := by
  unfold State.ranByReport
  split <;> rfl

/-- R53, R123: a press in STOPPED whose offer the queue enters. -/
theorem State.Noted.press_entered (hw : s.Noted n g w) (hs : g.state = .stopped) (hk : w.keepOff n = false) (hq : s.queue.length < 32)
    (ht : t = s.settle ((w.afterPress n .stopped rep sent).ranByReport n .stopped) []) :
    n ∈ t.marks ∧ ∃ r', t.load n = some r' ∧ HandedOn s.timeBase (g.entering .queued s.timeBase) r'
      ∧ (r'.state = .queued → ∃ x ∈ t.queue, x.load = n ∧ x.cls = .call ∧ x.sequence = s.arrivals ∧ x.queuedAt = s.timeBase) := by
  have hst : w.stateOf n = some .stopped := stateOf_eq.mpr ⟨g, hw.heard.load, hs⟩
  have hpress : w.press n false = w.enqueue n .call := by
    unfold State.press
    rw [hst]
    simp only [Bool.false_eq_true, if_false, State.offerButton]
    rw [(startOffer_of_stopped hst).2.2 hk (hw.queue.symm ▸ hq)]
  obtain ⟨v, hv⟩ : ∃ v : State, v = { w with queue := placeEntry (w.newEntry n .call) w.queue, arrivals := w.arrivals + 1 } := ⟨_, rfl⟩
  have henq : w.enqueue n .call = v.moveTo n .queued none := by rw [hv]; rfl
  have hheard : s.Heard n g v := by
    rw [hv]
    exact ⟨hw.heard.load, hw.heard.timeBase, hw.heard.stamp, hw.heard.settleTime, hw.heard.holds, hw.heard.canonical⟩
  rw [henq] at hpress
  have hmoved := hheard.moveTo .queued none
  rw [afterPress_changed hpress hmoved (by simp)] at ht
  obtain ⟨hm, r', hl', hr'⟩ := hheard.settled_moved .queued .stopped none
  have hentry : w.newEntry n .call ∈ ((v.moveTo n .queued none).ranByReport n .stopped).queue := by
    rw [ranByReport_queue, moveTo_queue hheard.load, if_neg (by simp [hs]), hv]
    exact mem_placeEntry.mpr (.inl rfl)
  have hreq : State.Requested n .call s.arrivals s.timeBase t := ht ▸ State.Requested.settled
    (.inl ⟨_, hentry, rfl, rfl, hw.arrivals, hw.heard.timeBase⟩) none_plain
  refine ⟨ht ▸ hm, r', ht ▸ hl', hr', fun hq' => hreq.resolve_right (fun h => ?_)⟩
  rw [stateOf_eq.mpr ⟨r', ht ▸ hl', hq'⟩] at h
  simp at h

/-- R53, R123: a press in STOPPED whose offer misses, and the run state after it. -/
theorem State.Noted.press_missed (hw : s.Noted n g w) (hs : g.state = .stopped) (hno : w.keepOff n = true ∨ 32 ≤ s.queue.length)
    (ht : t = s.settle ((w.afterPress n .stopped rep sent).ranByReport n .stopped) []) :
    n ∈ t.marks
      ∧ (rep.run = .stopped ∨ rep.run = .coasting → ∃ r', t.load n = some r' ∧ HandedOn s.timeBase
        { g with lastOutcome := some { operation := .start, result := .missed, time := s.stamp } } r')
      ∧ (rep.run = .running ∨ rep.run = .accelerating → t.load n = some
        { g with
          state := .run, commanded := .run, runSince := s.timeBase, blockReason := .none, portStop := none
          idleClock := 0, verifyEnd := none
          lastOutcome := some { operation := .start, result := .missed, time := s.stamp } }) := by
  have hst : w.stateOf n = some .stopped := stateOf_eq.mpr ⟨g, hw.heard.load, hs⟩
  obtain ⟨x, hx⟩ : ∃ x : LoadRecord, x = { g with lastOutcome := some { operation := .start, result := .missed, time := s.stamp } } := ⟨_, rfl⟩
  have hpress : w.press n false = (w.setLoad n x).mark n := by
    obtain ⟨hbar, hfull, -⟩ := startOffer_of_stopped hst
    have hmiss : w.offerButton n = w.writeOutcome n .start .missed := by
      unfold State.offerButton
      cases hk : w.keepOff n with
      | true => rw [hbar hk]
      | false => rw [hfull hk (hw.queue ▸ hno.resolve_left (by simp [hk]))]
    unfold State.press
    rw [hst]
    simp only [Bool.false_eq_true, if_false]
    rw [hmiss, State.writeOutcome]
    simp only [hw.heard.load, hw.heard.stamp]
    rw [hx]
  have hnoted := (hw.setLoad x).mark
  have hxs : x.state = .stopped := by rw [hx]; exact hs
  have hm : n ∈ ((w.setLoad n x).mark n).marks := (NatSet.mem_add _ _ _).mpr (.inl rfl)
  have hk := marks_reportKeeps n
  rw [afterPress_same hpress hnoted.heard hxs] at ht
  obtain ⟨-, -, -, -, -, -, -, hback, -, hidle, -⟩ := runStep_by_state hnoted.heard.load rep sent
  refine ⟨ht ▸ settled_marks (hk.ranByReport (hk.runStep hm) _), fun hr => ?_, fun hr => ?_⟩
  · rw [ht, hidle (.inl hxs) hr, ← hx]
    exact (hnoted.heard.ranByReport _).settled
  · rw [ht, hback hxs hr, (hnoted.heard.settled_run (by simp [hxs, writesRunSince]) .stopped none).2, hx]
    rfl

end Sys2Proof.Machine
end

section
/-! PROPERTY. O47: the statement about a press. -/

namespace Sys2Proof.Machine

variable {s t u v w p : State} {n m E : Nat} {r r' g x : LoadRecord} {rep : Report} {sent : Commanded} {b : BlockReason}

/-- A report whose isolator flag is the one heard before. -/
theorem heard_of_still (h : rep.isolatorOpen = r.isolatorHold) : { r.heard rep with isolatorHold := r.isolatorHold } = r.heard rep := by
  rw [← h]
  rfl

/-- R78: the button hold keeps the load running at level 1. -/
theorem keepRunLevels_pressed (s : State) (n : Nat) (g : LoadRecord) : 1 ∈ (s.setLoad n g.pressed).keepRunLevels n := by
  unfold State.keepRunLevels
  rw [load_setLoad, if_pos rfl]
  simp [LoadRecord.pressed]

/-- R56: the permission of a record with a button hold at an effective authority of 0 or 1. -/
theorem permission_pressed (s : State) (n : Nat) (g : LoadRecord) (hE : E = max s.authority (g.portStop.getD 0)) :
    (E = 0 → (s.setLoad n g.pressed).permission n g.pressed = .authority)
      ∧ (E = 1 → (s.setLoad n g.pressed).permission n g.pressed = .hold) := by
  have heff : (s.setLoad n g.pressed).effectiveAuthority g.pressed = E := hE.symm
  obtain ⟨hauth, hhold, -⟩ := permission_by_condition (s.setLoad n g.pressed) n g.pressed
  rw [heff] at hauth hhold
  exact ⟨hauth, fun h1 => hhold (by omega) ⟨1, keepRunLevels_pressed s n g, by omega⟩⟩

theorem HandedOn.button {now : Nat} (h : HandedOn now r r') : r'.buttonHold = r.buttonHold ∧ r'.buttonTaken = r.buttonTaken := by
  rcases h with rfl | ⟨-, ⟨b, rfl⟩ | rfl⟩ | ⟨-, -, rfl | rfl⟩ | ⟨-, rfl⟩ <;> exact ⟨rfl, rfl⟩

/-- The button part of the record after the step is that of the moment its report was taken. -/
theorem State.Heard.settled_button (hx : s.Heard n x p) (h1 : x.buttonHold = g.buttonHold) (h2 : x.buttonTaken = g.buttonTaken) :
    ∃ r', (s.settle p []).load n = some r' ∧ r'.buttonHold = g.buttonHold ∧ r'.buttonTaken = g.buttonTaken := by
  obtain ⟨r', hl, hr⟩ := hx.settled
  obtain ⟨hb, ht⟩ := hr.button
  exact ⟨r', hl, hb.trans h1, ht.trans h2⟩

/-- A press in QUEUED or STARTING places no hold, whatever the run state does (R53, R62, R64). -/
theorem State.Noted.press_starting (hw : s.Noted n g w) (hs : g.state = .queued ∨ g.state = .starting)
    (ht : t = s.settle ((w.afterPress n g.state rep sent).ranByReport n g.state) []) :
    ∃ r', t.load n = some r' ∧ r'.buttonHold = g.buttonHold ∧ r'.buttonTaken = g.buttonTaken := by
  have hpress := press_without_effect hw.heard (hs.imp id .inl)
  rw [afterPress_same (old := g.state) hpress hw.heard rfl] at ht
  obtain ⟨-, -, -, hdone, hstart, -, -, -, hover, hidle, -⟩ := runStep_by_state hw.heard.load rep sent
  suffices h : ∃ x, s.Heard n x (w.runStep n rep sent) ∧ x.buttonHold = g.buttonHold ∧ x.buttonTaken = g.buttonTaken by
    obtain ⟨x, hx, h1, h2⟩ := h
    exact ht ▸ (hx.ranByReport g.state).settled_button h1 h2
  have still : w.runStep n rep sent = w → ∃ x, s.Heard n x (w.runStep n rep sent) ∧ x.buttonHold = g.buttonHold ∧ x.buttonTaken = g.buttonTaken :=
    fun h => ⟨g, h.symm ▸ hw.heard, rfl, rfl⟩
  have moved : ∀ {out}, w.runStep n rep sent = w.moveTo n .run out →
      ∃ x, s.Heard n x (w.runStep n rep sent) ∧ x.buttonHold = g.buttonHold ∧ x.buttonTaken = g.buttonTaken := fun {out} h =>
    ⟨s.movedRecord g .run out, by rw [h]; exact hw.heard.moveTo .run out, by cases out <;> rfl, by cases out <;> rfl⟩
  rcases hs with hs | hs
  · cases hrun : rep.run with
    | stopped => exact still (hidle (.inr hs) (.inl hrun))
    | coasting => exact still (hidle (.inr hs) (.inr hrun))
    | running => exact moved (hover hs (.inl hrun))
    | accelerating => exact moved (hover hs (.inr hrun))
  · by_cases hd : rep.run = .running ∧ rep.echo = g.startCount
    · rw [hdone hs hd.1 hd.2]
      exact ⟨_, (hw.heard.moveTo _ _).modifyLoad _, rfl, rfl⟩
    · exact still (hstart hs (by tauto))

/-- A press in RETIRING places no hold (R68). -/
theorem State.Noted.press_retiring (hw : s.Noted n g w) (hs : g.state = .retiring)
    (ht : t = s.settle ((w.afterPress n g.state rep sent).ranByReport n g.state) []) :
    ∀ r', t.load n = some r' → r'.buttonHold = g.buttonHold ∧ r'.buttonTaken = g.buttonTaken := by
  have hpress := press_without_effect hw.heard (.inr (.inr (.inr (.inl hs))))
  rw [afterPress_same (old := g.state) hpress hw.heard rfl] at ht
  obtain ⟨-, -, -, -, -, -, -, -, -, -, -, hret⟩ := runStep_by_state hw.heard.load rep sent
  rw [hret hs] at ht
  have gone : ∀ o, t = s.settle ((w.removeLoad n o).ranByReport n g.state) [] → ∀ r', t.load n = some r' →
      r'.buttonHold = g.buttonHold ∧ r'.buttonTaken = g.buttonTaken := fun o ho r' hr' => by
    rw [ho, (hw.heard.settled_removed o g.state).1] at hr'
    simp at hr'
  unfold State.retireStep at ht
  split at ht
  · exact gone _ ht
  · split at ht
    · exact gone _ ht
    · intro r' hr'
      have hx := (hw.heard.setLoad { g with retireExchanges := g.retireExchanges + 1 }).ranByReport g.state
      obtain ⟨r2, hl2, h1, h2⟩ := hx.settled_button (g := g) rfl rfl
      obtain rfl := Option.some.inj (hr'.symm.trans (ht ▸ hl2))
      exact ⟨h1, h2⟩

/-- A press in LOCAL or FAULT has no effect, and no run state acts there. -/
theorem State.Noted.press_ignored (hw : s.Noted n g w) (hs : g.state = .inLocal ∨ g.state = .fault)
    (ht : t = s.settle ((w.afterPress n g.state rep sent).ranByReport n g.state) []) : t.load n = some g := by
  have hpress := press_without_effect hw.heard (by tauto)
  rw [afterPress_same (old := g.state) hpress hw.heard rfl] at ht
  have hrun : w.runStep n rep sent = w := by
    unfold State.runStep
    rcases hs with hs | hs <;> simp [hw.heard.load, hs]
  rw [ht, hrun]
  exact (hw.heard.ranByReport _).settled_still (by rcases hs with hs | hs <;> simp [hs]) (by rcases hs with hs | hs <;> simp [hs])
    (by rcases hs with hs | hs <;> simp [hs])

/-- Settles O47: a press beside flags that change nothing, by the state of its record. -/
theorem pressActs : Obligations.PressActs := by
  unfold Obligations.PressActs
  intro s l samples e n E r g h rep hc he hn hl hline haddr hj hu hbutton hflag hiso hg hh hE
  obtain rfl : g = r.heard rep := (hg.trans (congrArg (fun y : LoadRecord => { y with isolatorHold := r.isolatorHold }) (heard_eq r rep)).symm).trans
    (heard_of_still hiso)
  obtain rfl : h = (r.heard rep).pressed := hh
  clear hg
  obtain ⟨w, hw, hexec⟩ := exec_pressed hc he hn hl hj hu hbutton hflag hiso
  generalize e.order.commanded = sent at hexec
  obtain ⟨t, ht⟩ : ∃ t, t = s.settle ((w.afterPress n r.state rep sent).ranByReport n r.state) [] := ⟨_, rfl⟩
  have hi : (r.heard rep).isolatorHold = r.isolatorHold := hiso
  have hbar : w.keepOff n = s.keepOff n := hw.keepOff hl hi
  refine ⟨t, ht ▸ hexec, fun hs => hw.press_running hs ht, fun hd => ?_, fun hs => ?_, fun hs => ⟨?_, fun hk hq => ?_, fun hno => ?_⟩,
    fun hs => hw.press_ignored hs ht, fun hs => hw.press_starting hs ht, fun hs => hw.press_retiring hs ht⟩
  · rw [hd] at ht
    obtain ⟨hzero, hone⟩ := permission_pressed s n (r.heard rep) hE
    obtain ⟨hm, hstop, hblocked, hoff⟩ := hw.press_due hc hl hd hd rfl rfl rfl hi ht rfl
    refine ⟨hm, fun h0 hr => ?_, fun h1 hr => ?_, fun b hb => hb ▸ ⟨hstop, hblocked, hoff⟩⟩
    · rw [hzero h0] at hblocked
      exact hblocked (by simp) hr
    · rw [hone h1] at hblocked
      exact hblocked (by simp) hr
  · rw [hs] at ht
    exact hw.press_stopping hs hE ht
  · rw [hs] at ht
    by_cases hno : s.keepOff n = true ∨ 32 ≤ s.queue.length
    · exact (hw.press_missed hs (hbar ▸ hno) ht).1
    · rw [not_or, Bool.not_eq_true, Nat.not_le] at hno
      exact (hw.press_entered hs (hbar.trans hno.1) hno.2 ht).1
  · rw [hs] at ht
    exact (hw.press_entered hs (hbar.trans hk) hq ht).2.imp (fun r' ⟨h1, h2, h3⟩ => ⟨h1, h2, h3⟩)
  · rw [hs] at ht
    exact (hw.press_missed hs (hbar ▸ hno) ht).2

end Sys2Proof.Machine
end

section
/-! SUPPORT. PLACE HOLD: the hold as it is written, and the load it appears on (R57, R60, R62, R64, R74, R75, R82, R83). -/

namespace Sys2Proof.Machine

variable {s s0 t u v : State} {n m k g : Nat} {r r' : LoadRecord} {w : Work} {ws ws' : List Work} {x : PortHold} {new : LoadState}
  {out : Option (Operation × OpResult)} {sense level eh el b : Byte}

/-! ### A waiting hand-off that would change nothing -/

theorem addWork_filter_congr (p : Work → Bool) (h : ws.filter p = ws'.filter p) (l : List Work) :
    (addWork ws l).filter p = (addWork ws' l).filter p := by
  unfold addWork
  induction l generalizing ws ws' with
  | nil => exact h
  | cons y rest ih =>
    refine ih ?_
    cases hy : p y with
    | false => dsimp only; split <;> split <;> simp [hy, h]
    | true =>
      have hmem : y ∈ ws ↔ y ∈ ws' := by
        have := congrArg (y ∈ ·) h
        simpa [hy] using this
      by_cases hin : y ∈ ws <;> simp [hin, hmem.mp, hmem.symm, h]

/-- A hand-off named first that is idle after the change is not taken. -/
theorem settle_drop_idle {work : List Work} (hw : w.idle v = true) : s0.settle v (w :: work) = s0.settle v work := by
  have hsame : (addWork [] (w :: work ++ handoffs s0 v)).filter (fun y => !y.idle v)
      = (addWork [] (work ++ handoffs s0 v)).filter (fun y => !y.idle v) :=
    addWork_filter_congr (ws := [w]) (ws' := []) _ (by simp [hw]) _
  unfold State.settle settleFuel
  show settleLoop (999999 + 1) _ v = settleLoop (999999 + 1) _ v
  unfold settleLoop
  rw [hsame]

/-! ### The hold as it is written -/

/-- The state with port hold `x` written in entry `k`, the load's mark set. -/
def State.held (s : State) (k : Nat) (x : PortHold) : State := ({ s with holds := Table.put s.holds k x } : State).mark x.load

theorem placePortHold_work (s : State) (k : Nat) (x : PortHold) : (s.placePortHold k x).work = [.evaluate x.load] := by
  unfold State.placePortHold State.holdActs
  split <;> rfl

theorem placePortHold_keepRun (s : State) (k : Nat) {l : Nat} (hs : x.sense = .keepRun l) :
    (s.placePortHold k x).state = (s.held k x).overtake x.load l := by
  unfold State.placePortHold State.holdActs
  rw [hs]
  rfl

theorem placePortHold_keepOff (s : State) (k : Nat) (hs : x.sense = .keepOff) :
    (s.placePortHold k x).state = (s.held k x).keepOffAppears x.load := by
  unfold State.placePortHold State.holdActs
  rw [hs]
  rfl

/-- A hold that appears leaves the state in which it stands, or moves its load to a state other than DUE. -/
theorem placePortHold_cases (hl : s.load x.load = some r) (k : Nat) :
    (s.placePortHold k x).state = s.held k x
      ∨ ∃ new out, new ≠ .due ∧ (s.placePortHold k x).state = (s.held k x).moveTo x.load new out := by
  cases hs : x.sense with
  | keepRun l =>
    rw [placePortHold_keepRun s k hs]
    exact (overtake_cases _ _ _).imp_right (fun h => ⟨_, _, by simp, h⟩)
  | keepOff =>
    rw [placePortHold_keepOff s k hs]
    rcases keepOffAppears_cases (s := s.held k x) hl with ⟨-, h⟩ | ⟨-, -, h⟩ | ⟨-, -, h⟩ | ⟨-, -, h⟩
    · exact .inr ⟨_, _, by simp, h⟩
    · exact .inr ⟨_, _, by simp, h⟩
    · exact .inr ⟨_, _, by simp, h⟩
    · exact .inl h

/-! ### What the new hold hands on -/

/-- A hold in an entry that was free takes no KEEP-OFF hold away. -/
theorem held_keepOff (hk : Table.find s.holds k = none) (hc : Table.Canonical 96 s.holds) (h : s.keepOff m = true) :
    (s.held k x).keepOff m = true := by
  refine keepOff_mono (t := s) (fun e he hn hs => ⟨e, ?_, hn, hs⟩) (fun r' hr hi => ⟨r', hr, hi⟩) h
  have hfind := Table.find_of_mem hc he
  have hne : e.1 ≠ k := fun h => by simp [h, hk] at hfind
  exact Table.mem_of_find ((Table.find_put_ne s.holds x hne).trans hfind)

theorem moveTo_keepOff (s : State) (n : Nat) (new : LoadState) (out : Option (Operation × OpResult)) (m : Nat) :
    (s.moveTo n new out).keepOff m = s.keepOff m := by
  refine keepOff_congr moveTo_holds ?_
  cases hl : s.load n with
  | none => rw [moveTo_vacant hl]
  | some r =>
    rw [moveTo_load hl]
    split
    · rename_i h
      subst h
      rw [hl]
      cases out <;> rfl
    · rfl

/-- The hold itself is handed to no one: the step hands on what its load's change does. -/
theorem handoffs_held (hk : Table.find s.holds k = none) (hc : Table.Canonical 96 s.holds) (hv : ∀ m, v.keepOff m = (s.held k x).keepOff m) :
    handoffs s v = handoffs (s.held k x) v := by
  have h1 : barHandoffs s v = [] := barHandoffs_nil (fun e _ h => (hv e.1).trans (held_keepOff hk hc h))
  have h2 : barHandoffs (s.held k x) v = [] := barHandoffs_nil (fun e _ h => (hv e.1).trans h)
  unfold handoffs
  rw [h1, h2]
  rfl

theorem settle_held {work : List Work} (hk : Table.find s.holds k = none) (hc : Table.Canonical 96 s.holds)
    (hv : ∀ m, v.keepOff m = (s.held k x).keepOff m) : s.settle v work = (s.held k x).settle v work := by
  unfold State.settle
  rw [handoffs_held hk hc hv]

/-! ### The step of a hold that appears -/

/-- A step in which a port hold has been written in a free entry. -/
structure Placed (s : State) (k : Nat) (x : PortHold) (r : LoadRecord) (t : State) : Prop where
  canonical : Canonical s
  free : Table.find s.holds k = none
  load : s.load x.load = some r
  result : t = s.settle (s.placePortHold k x).state [.evaluate x.load]

theorem Placed.still (h : Placed s k x r t) (hv : (s.placePortHold k x).state = s.held k x) (hd : r.state ≠ .due) : t = s.held k x := by
  have hh : handoffs s (s.held k x) = [] :=
    (handoffs_held h.free h.canonical.holds (fun _ => rfl)).trans (handoffs_self (s := s.held k x) h.canonical.loads)
  have hst : (s.held k x).stateOf x.load ≠ some .due := fun he => by
    obtain ⟨r', hl, hs⟩ := stateOf_eq.mp he
    cases h.load.symm.trans hl
    exact hd hs
  rw [h.result, hv, settle_evaluate_idle hh hst]

theorem Placed.moved (h : Placed s k x r t) (hv : (s.placePortHold k x).state = (s.held k x).moveTo x.load new out) (hn : new ≠ .due) :
    t = (s.held k x).settle ((s.held k x).moveTo x.load new out) [] := by
  have hidle : Work.idle (.evaluate x.load) ((s.held k x).moveTo x.load new out) = true := by
    simp [Work.idle, State.stateOf, moveTo_load_self (s := s.held k x) h.load, hn]
  rw [h.result, hv, settle_held h.free h.canonical.holds (moveTo_keepOff _ _ _ _), settle_drop_idle hidle]

theorem Placed.moved_record (h : Placed s k x r t) (hv : (s.placePortHold k x).state = (s.held k x).moveTo x.load new out)
    (h1 : new ≠ .due) (h2 : new ≠ .queued) (h3 : new ≠ .stopped) : t.load x.load = some (s.movedRecord r new out) := by
  rw [h.moved hv h1]
  exact settle_moveTo_still (s := s.held k x) h.canonical.loads h.load h1 h2 h3

/-- What the step leaves whatever the load's state: the hold in its entry and no other hold changed, the mark, and a record. -/
structure Written (s : State) (k : Nat) (x : PortHold) (t : State) : Prop where
  holds : t.holds = Table.put s.holds k x
  marks : x.load ∈ t.marks
  live : ∃ r', t.load x.load = some r'

theorem Placed.written (h : Placed s k x r t) : Written s k x t := by
  have hv : (s.placePortHold k x).state.holds = (s.held k x).holds ∧ x.load ∈ (s.placePortHold k x).state.marks
      ∧ Table.Canonical 240 (s.placePortHold k x).state.loads ∧ ∃ r', (s.placePortHold k x).state.load x.load = some r' := by
    have hm : x.load ∈ (s.held k x).marks := (NatSet.mem_add _ _ _).mpr (.inl rfl)
    rcases placePortHold_cases h.load k with hv | ⟨new, out, -, hv⟩ <;> rw [hv]
    · exact ⟨rfl, hm, h.canonical.loads, r, h.load⟩
    · exact ⟨moveTo_holds, moveTo_marks _ _ _ _ hm, moveTo_canonical (s := s.held k x) h.canonical.loads, _,
        moveTo_load_self (s := s.held k x) h.load⟩
  obtain ⟨hholds, hmarks, hcv, r1, hl1⟩ := hv
  have hq : Quiet (s.placePortHold k x).state t := h.result ▸ settle_quiet evaluate_plain
  obtain ⟨-, -, -, -, -, -, -, -, -, -, -, hkept, -⟩ := frozen_field hq.frozen
  obtain ⟨r', hr', -⟩ := hq.record hcv _ r1 hl1
  exact ⟨hkept.trans hholds, hq.marks _ hmarks, r', hr'⟩

theorem Written.find (h : Written s k x t) (j : Nat) : Table.find t.holds j = if j = k then some x else Table.find s.holds j := by
  rw [h.holds, Table.find_put]

/-! ### By the state of the load -/

/-- The states on which a hold of this sense does not act (R82, R83). -/
theorem Placed.untouched (h : Placed s k x r t)
    (hs : (∃ l, x.sense = .keepRun l ∧ (r.state = .stopping → l < s.effectiveAuthority r))
      ∨ (x.sense = .keepOff ∧ r.state ≠ .queued ∧ r.state ≠ .starting)) :
    (s.placePortHold k x).state = s.held k x := by
  rcases hs with ⟨l, hs, hst⟩ | ⟨hs, hq, hst⟩
  · rw [placePortHold_keepRun s k hs]
    unfold State.overtake
    rw [show (s.held k x).load x.load = some r from h.load]
    refine if_neg (fun ⟨h1, h2⟩ => ?_)
    exact absurd h2 (Nat.not_le.mpr (hst h1))
  · rw [placePortHold_keepOff s k hs]
    exact keepOffAppears_calm (v := s.held k x) h.load hq hst

/-- R60, R82, R117: a KEEP-RUN hold at or above the effective authority overtakes the stop, and the load's failed raises are remembered. -/
theorem Placed.overtaken {l : Nat} (h : Placed s k x r t) (hs : x.sense = .keepRun l) (hst : r.state = .stopping)
    (hle : s.effectiveAuthority r ≤ l) :
    t.load x.load = some (s.movedRecord r .run (some (.stop, .overtaken)))
      ∧ ∀ g y, s.group g = some y → x.load ∈ y.failed → ∃ z, t.group g = some z ∧ (x.load ∈ z.failed ∨ z.failed = []) := by
  have hv : (s.placePortHold k x).state = (s.held k x).moveTo x.load .run (some (.stop, .overtaken)) := by
    rw [placePortHold_keepRun s k hs]
    unfold State.overtake
    rw [show (s.held k x).load x.load = some r from h.load]
    exact if_pos ⟨hst, hle⟩
  refine ⟨h.moved_record hv (by simp) (by simp) (by simp), fun g y hy hf => ?_⟩
  have hu : Remembered x.load g ((s.held k x).moveTo x.load .run (some (.stop, .overtaken))).stateOf
      ((s.held k x).moveTo x.load .run (some (.stop, .overtaken))).group := by
    refine ⟨y.follow x.load .run, ?_, .inl ?_⟩
    · rw [moveTo_group (s := s.held k x) h.load]
      exact congrArg (Option.map _) hy
    · unfold Group.follow
      split
      · exact hf
      · exact hf
  obtain ⟨z, hz, hrest⟩ := hu.settled (s0 := s.held k x) (work := []) none_plain
  exact ⟨z, h.moved hv (by simp) ▸ hz, hrest.imp_right And.left⟩

theorem Placed.barred (h : Placed s k x r t) (hs : x.sense = .keepOff) : t.keepOff x.load = true := by
  have hfind : Table.find t.holds k = some x := by rw [h.written.find, if_pos rfl]
  exact keepOff_iff.mpr (.inl ⟨(k, x), Table.mem_of_find hfind, rfl, hs⟩)

/-- R62, R83, R116: a KEEP-OFF hold takes a QUEUED load out of the queue, and its group may not raise it again. -/
theorem Placed.dequeued (h : Placed s k x r t) (hs : x.sense = .keepOff) (hq : r.state = .queued) :
    t.load x.load = some (s.movedRecord r .stopped (some (.start, .cancelled)))
      ∧ ∀ p y, r.provides = some p → s.group p.group = some y → y.state = .raising x.load → s.RaiseFailed t p.group x.load .stopped := by
  have hv : (s.placePortHold k x).state = (s.held k x).moveTo x.load .stopped (some (.start, .cancelled)) := by
    rw [placePortHold_keepOff s k hs]
    simp [State.keepOffAppears, show (s.held k x).load x.load = some r from h.load, hq]
  have ht := h.moved hv (by simp)
  refine ⟨?_, fun p y hp hy hr => ?_⟩
  · obtain ⟨-, r', hl, hr'⟩ := settle_moveTo (s := s.held k x) (new := .stopped) (out := some (.start, .cancelled)) h.canonical.loads h.load
    rw [← ht] at hl
    rcases (hr'.stopped (movedRecord_state _ _ _ _)).2.2 with rfl | ⟨-, hst⟩
    · exact hl
    · -- a load that carries a KEEP-OFF hold and was not in the queue is not there after the hand-offs
      have hst : t.stateOf x.load = some .queued ∨ t.stateOf x.load = some .starting :=
        hst.imp (fun h => stateOf_eq.mpr ⟨r', hl, h⟩) (fun h => stateOf_eq.mpr ⟨r', hl, h⟩)
      obtain ⟨-, hbefore⟩ := (ht ▸ Guarded.settle (s.held k x) _ []).free x.load (h.barred hs) hst
      simp [State.stateOf, moveTo_load_self (s := s.held k x) h.load] at hbefore
  · have hfail := raiseFailed_of_moveTo (s := s.held k x) (new := .stopped) (out := some (.start, .cancelled)) h.canonical.loads h.load hp hy hr
      (by simp [hq]) (by simp) (by simp) (by simp) (by simp)
    rw [← ht] at hfail
    obtain ⟨z, hz, hcase, hone⟩ := hfail
    refine ⟨z, hz, hcase, fun y r' u hg hl hu => ?_⟩
    subst hu
    have hheld := hone y r' _ hg hl rfl
    exact hheld

/-- R64, R83, R125: a KEEP-OFF hold ends a start, in FAULT where another provider of its group is in STOPPING and else in STOPPING. -/
theorem Placed.interrupted (h : Placed s k x r t) (hs : x.sense = .keepOff) (hst : r.state = .starting) :
    s.Released t r.feeder ∧ t.load x.load = some (s.movedRecord r (if s.otherStopping x.load r = true then .fault else .stopping)
      (some (.start, .cancelled))) := by
  obtain ⟨new, hn⟩ : ∃ new : LoadState, new = if s.otherStopping x.load r = true then .fault else .stopping := ⟨_, rfl⟩
  have hor : new = .fault ∨ new = .stopping := by rw [hn]; split <;> simp
  have hv : (s.placePortHold k x).state = (s.held k x).moveTo x.load new (some (.start, .cancelled)) := by
    rw [placePortHold_keepOff s k hs, hn]
    simp only [State.keepOffAppears, show (s.held k x).load x.load = some r from h.load, hst]
    change (if s.otherStopping x.load r = true then _ else _) = _
    split <;> rfl
  have hne : new ≠ .due ∧ new ≠ .queued ∧ new ≠ .stopped ∧ new ≠ .starting := by rcases hor with e | e <;> simp [e]
  obtain ⟨h1, h2, h3, h4⟩ := hne
  rw [← hn]
  refine ⟨?_, h.moved_record hv h1 h2 h3⟩
  rw [h.moved hv h1]
  exact released_settled (s := s.held k x) (moveTo_feeder_self (v := s.held k x) h.load h4 hst)

/-- R56, R57, log entry 22: a DUE record is evaluated with the hold in place, whatever the sense. -/
theorem Placed.evaluated (h : Placed s k x r t) (hd : r.state = .due) :
    ∃ r', t.load x.load = some r' ∧ HandedOn s.timeBase r r' ∧ (s.held k x).Evaluated x.load r r' := by
  have hv : (s.placePortHold k x).state = s.held k x := by
    refine h.untouched ?_
    cases hs : x.sense with
    | keepRun l => exact .inl ⟨l, rfl, fun h => by simp [hd] at h⟩
    | keepOff => exact .inr ⟨rfl, by simp [hd], by simp [hd]⟩
  have hc : Table.Canonical 240 (s.held k x).loads := h.canonical.loads
  have hh : handoffs s (s.held k x) = [] :=
    (handoffs_held h.free h.canonical.holds (fun _ => rfl)).trans (handoffs_self hc)
  have ht := h.result
  rw [hv] at ht
  obtain ⟨r', hr', he, -⟩ := settle_evaluate hc hh h.load hd
  rw [← ht] at hr'
  refine ⟨r', hr', ?_, he⟩
  have hq : Quiet (s.held k x) t := ht ▸ settle_quiet evaluate_plain
  obtain ⟨r2, hr2, hho⟩ := hq.record hc _ r h.load
  obtain rfl := Option.some.inj (hr'.symm.trans hr2)
  exact hho

/-- R56, R82: the permission of a DUE record under the hold, by its effective authority and the level of the hold. -/
theorem permission_held (s : State) (k : Nat) (x : PortHold) (r : LoadRecord) :
    (s.effectiveAuthority r = 0 → (s.held k x).permission x.load r = .authority)
      ∧ ∀ l, x.sense = .keepRun l → 0 < s.effectiveAuthority r → s.effectiveAuthority r ≤ l → (s.held k x).permission x.load r = .hold := by
  obtain ⟨hauth, hhold, -⟩ := permission_by_condition (s.held k x) x.load r
  refine ⟨hauth, fun l hs h0 hle => hhold h0 ⟨l, ?_, hle⟩⟩
  have hmem : (k, x) ∈ (s.held k x).holdsOn x.load :=
    List.mem_filter.mpr ⟨Table.mem_of_find (Table.find_put_self s.holds k x), by simp⟩
  exact List.mem_append_left _ (List.mem_filterMap.mpr ⟨(k, x), hmem, by simp [PortHold.keepRunLevel, hs]⟩)

/-- What the step leaves of a DUE record, by its effective authority and by its permission under the hold. -/
theorem Placed.due (h : Placed s k x r t) (hd : r.state = .due) (hr' : t.load x.load = some r') :
    HandedOn s.timeBase r r' ∧ (s.effectiveAuthority r = 0 → r' = { r with blockReason := .authority })
      ∧ (∀ l, x.sense = .keepRun l → 0 < s.effectiveAuthority r → s.effectiveAuthority r ≤ l → r' = { r with blockReason := .hold })
      ∧ (({ s with holds := t.holds } : State).permission x.load r = .none →
          r'.state = .stopping ∧ r'.commanded = .stop ∧ r'.verifyEnd = some (s.timeBase + r.tuning.stopVerify))
      ∧ (({ s with holds := t.holds } : State).permission x.load r ≠ .none →
          r' = { r with blockReason := ({ s with holds := t.holds } : State).permission x.load r }) := by
  obtain ⟨r2, hr2, hho, hev⟩ := h.evaluated hd
  obtain rfl := Option.some.inj (hr'.symm.trans hr2)
  obtain ⟨hauth, hhold⟩ := permission_held s k x r
  have hperm : ({ s with holds := t.holds } : State).permission x.load r = (s.held k x).permission x.load r := by
    rw [h.written.holds]
    rfl
  rw [hperm]
  refine ⟨hho, fun h0 => ?_, fun l hs h0 hle => ?_, fun hp => ?_, hev.2⟩
  · rw [hev.2 (by simp [hauth h0]), hauth h0]
  · rw [hev.2 (by simp [hhold l hs h0 hle]), hhold l hs h0 hle]
  · obtain ⟨h1, h2, h3, -⟩ := hev.stopping hp
    exact ⟨h1, h2, h3⟩

end Sys2Proof.Machine
end

section
/-! PROPERTY. O25: the checks of PLACE HOLD, and the statement about it. -/

namespace Sys2Proof.Machine

variable {s : State} {k : Nat} {r : LoadRecord} {sense level eh el b : Byte}

theorem freeHold_eq_some (hk : k < 96) (hf : Table.find s.holds k = none) (hlow : ∀ j, j < k → Table.find s.holds j ≠ none) :
    s.freeHold = some k := by
  unfold State.freeHold Config.holdEntries
  rw [List.find?_range_eq_some]
  refine ⟨by simp [hf], by simpa using hk, fun j hj => ?_⟩
  simpa [Option.isSome_iff_ne_none] using hlow j hj

theorem freeHold_eq_none (h : ∀ k, k < 96 → Table.find s.holds k ≠ none) : s.freeHold = none := by
  unfold State.freeHold Config.holdEntries
  rw [List.find?_range_eq_none]
  intro j hj
  simpa [Option.isSome_iff_ne_none] using h j hj

/-- The hold that PLACE HOLD's parameters ask for (R74). -/
def State.asked (s : State) (n sense level eh el : Byte) : PortHold :=
  { load := n.toNat, sense := senseOf sense level, remaining := remainingOf (word16 eh el), placedAt := s.stamp }

/-- The checks of PLACE HOLD on its parameters, in the terms of R74. -/
theorem placeHold_checked : (badLoad b || decide (1 < sense.toNat) || (sense == 0 && (level == 0 || decide (3 < level.toNat)))) = true
    ↔ 239 < b.toNat ∨ 1 < sense.toNat ∨ (sense = 0 ∧ (level = 0 ∨ 3 < level.toNat)) := by
  simp [badLoad, or_assoc]

theorem placeHold_live (hok : ¬ (239 < b.toNat ∨ 1 < sense.toNat ∨ (sense = 0 ∧ (level = 0 ∨ 3 < level.toNat))))
    (hl : s.load b.toNat = some r) : placeHold [b, sense, level, eh, el] s =
      if r.state = .retiring then refuse s .wrongState
      else if 3 ≤ (s.holdsOn b.toNat).length then refuse s .full
      else
        match s.freeHold with
        | none => refuse s .full
        | some k => (s.placePortHold k (s.asked b sense level eh el)).reply [byte k] := by
  unfold placeHold
  dsimp only
  rw [if_neg (fun h => hok (placeHold_checked.mp h)), hl]
  rfl

/-- Settles O25: the checks in their order, and the step of a hold that appears (`Placed`) by the state of its load. -/
theorem placeHoldActs : Obligations.PlaceHoldActs := by
  unfold Obligations.PlaceHoldActs
  intro s n sense level eh el hc hsent
  have hp := hsent.commandParams rfl (by simp)
  have refused : ∀ c, placeHold [n, sense, level, eh, el] s = refuse s c → exec .placeHold s = .next (s.respond c []) := fun c h =>
    congrArg Host.Outcome.next (runCommand_refused hp hc h)
  refine ⟨fun hbad => refused _ ?_, fun hn hsense hlevel => ?_⟩
  · unfold placeHold
    dsimp only
    rw [if_pos (placeHold_checked.mpr hbad)]
  have hok : ¬ (239 < n.toNat ∨ 1 < sense.toNat ∨ (sense = 0 ∧ (level = 0 ∨ 3 < level.toNat))) := by
    rintro (h | h | ⟨h, h' | h'⟩)
    · omega
    · omega
    · exact (hlevel h).1 h'
    · exact absurd (hlevel h).2 (Nat.not_le.mpr h')
  refine ⟨fun hl => refused _ ?_, fun r hl => ⟨fun hr => refused _ ?_, fun hr h3 => refused _ ?_, fun hr h3 hfull => refused _ ?_,
    fun k E hr h3 hk hf hlow hE => ?_⟩⟩
  · unfold placeHold
    dsimp only
    rw [if_neg (fun h => hok (placeHold_checked.mp h)), hl]
  · rw [placeHold_live hok hl, if_pos hr]
  · rw [placeHold_live hok hl, if_neg hr, if_pos h3]
  · rw [placeHold_live hok hl, if_neg hr, if_neg (Nat.not_le.mpr h3), freeHold_eq_none hfull]
  obtain ⟨x, hx⟩ : ∃ x, x = s.asked n sense level eh el := ⟨_, rfl⟩
  obtain ⟨t, ht⟩ : ∃ t, t = s.settle (s.placePortHold k x).state [.evaluate x.load] := ⟨_, rfl⟩
  have hxl : x.load = n.toNat := by rw [hx]; rfl
  have hbody : placeHold [n, sense, level, eh, el] s = (s.placePortHold k x).reply [byte k] := by
    rw [placeHold_live hok hl, if_neg hr, if_neg (Nat.not_le.mpr h3), freeHold_eq_some hk hf hlow, hx]
  have hexec : exec .placeHold s = .next (t.respond .done [byte k]) := by
    refine congrArg Host.Outcome.next ((runCommand_of hp).trans ?_)
    rw [hbody, ht, ← placePortHold_work s k x]
    rfl
  have hP : Placed s k x r t := ⟨hc, hf, hxl ▸ hl, ht⟩
  have hrun : sense = 0 → x.sense = .keepRun level.toNat := fun h => by rw [hx]; exact if_pos h
  have hoff : sense ≠ 0 → x.sense = .keepOff := fun h => by rw [hx]; exact if_neg h
  have hw := hP.written
  obtain ⟨r', hr'⟩ := hw.live
  obtain rfl : E = s.effectiveAuthority r := hE
  have still : (s.placePortHold k x).state = s.held k x → r.state ≠ .due → r' = r := fun hv hd => by
    rw [hP.still hv hd] at hr'
    exact Option.some.inj (hr'.symm.trans hP.load)
  rw [← hxl]
  refine ⟨t.respond .done [byte k], r', hexec, rfl, rfl, ?_, fun j hj => (hw.find j).trans (if_neg hj), hw.marks, hr', fun h0 hst => ⟨fun hle => ?_, fun hlt => ?_⟩,
    fun h1 hq => ?_, fun h1 hst => ?_, fun hd => ?_, fun hothers => ?_⟩
  · exact (hw.find k).trans ((if_pos rfl).trans (by rw [hx]; rfl))
  · obtain ⟨hload, hgroups⟩ := hP.overtaken (hrun h0) hst hle
    obtain rfl := Option.some.inj (hr'.symm.trans hload)
    refine ⟨rfl, rfl, ?_, rfl, rfl, hgroups⟩
    simp [State.movedRecord, LoadRecord.entering, writesRunSince, hst]
  · exact still (hP.untouched (.inl ⟨_, hrun h0, fun _ => hlt⟩)) (by simp [hst])
  · obtain ⟨hload, hfail⟩ := hP.dequeued (hoff h1) hq
    obtain rfl := Option.some.inj (hr'.symm.trans hload)
    rw [movedRecord_cancelled s r _ hq]
    exact ⟨rfl, rfl, rfl, hfail⟩
  · obtain ⟨hrel, hload⟩ := hP.interrupted (hoff h1) hst
    obtain rfl := Option.some.inj (hr'.symm.trans hload)
    refine ⟨hrel, by split <;> simp [State.movedRecord, LoadRecord.entering, commandedOn, hst], rfl, fun hother => ?_, fun hsole => ?_⟩
    · rw [if_pos ((otherStopping_iff hc.loads).mpr hother), movedRecord_state]
    · rw [if_neg (by rw [(otherStopping_eq_false_iff hc.loads).mpr hsole]; simp)]
      exact ⟨rfl, rfl⟩
  · obtain ⟨hho, hauth, hhold, hperm⟩ := hP.due hd hr'
    exact ⟨hho, hauth, fun h0 hs => hhold _ (hrun hs) h0, hperm⟩
  · by_cases h0 : sense = 0
    · refine still (hP.untouched (.inl ⟨_, hrun h0, fun h => ?_⟩)) ?_
      · simp [h, h0] at hothers
      · exact fun hd => by simp [hd] at hothers
    · have hne : ¬ sense = 0#8 := h0
      refine still (hP.untouched (.inr ⟨hoff h0, fun h => ?_, fun h => ?_⟩)) ?_
      · simp [h, hne] at hothers
      · simp [h, hne] at hothers
      · exact fun hd => by simp [hd] at hothers

end Sys2Proof.Machine
end

section
/-! SUPPORT. The answers of the commands that read, field by field: READ QUEUE, READ CLOCK and READ AUTHORITY (R92, R132, R166). -/

namespace Sys2Proof.Machine

variable {s : State} {i j k n : Nat} {c : PlantClock}

/-! ### Answers in blocks -/

/-- In a list of blocks of one length, what stands from the place of a block on begins with that block. -/
theorem drop_flatMap {α : Type} {f : α → List Byte} (hf : ∀ x, (f x).length = k) {l : List α} {x : α} (h : l[i]? = some x) :
    ∃ rest, (l.flatMap f).drop (k * i) = f x ++ rest := by
  induction l generalizing i with
  | nil => simp at h
  | cons y l ih =>
    rw [List.flatMap_cons]
    cases i with
    | zero =>
      obtain rfl : y = x := by simpa using h
      exact ⟨l.flatMap f, rfl⟩
    | succ i =>
      obtain ⟨rest, hrest⟩ := ih (by simpa using h)
      refine ⟨rest, ?_⟩
      rw [Nat.mul_succ, Nat.add_comm, ← List.drop_drop, List.drop_left' (hf y), hrest]

theorem length_blocks {α : Type} {f : α → List Byte} (hf : ∀ x, (f x).length = k) (l : List α) : (l.flatMap f).length = k * l.length := by
  rw [List.length_flatMap, List.map_congr_left (fun x _ => hf x), List.map_const', List.sum_replicate, smul_eq_mul, Nat.mul_comm]

/-- `drop_flatMap` in an answer that has fixed fields before its blocks and others after them. -/
theorem drop_blocks {α : Type} {f : α → List Byte} (hf : ∀ x, (f x).length = k) {l : List α} {x : α} (h : l[i]? = some x)
    {d head tail : List Byte} (hd : d = head ++ (l.flatMap f ++ tail)) (hj : head.length = j) :
    ∃ rest, d.drop (j + k * i) = f x ++ rest := by
  obtain ⟨rest, hrest⟩ := drop_flatMap hf h
  refine ⟨rest ++ tail, ?_⟩
  have hle : k * i ≤ (l.flatMap f).length := by
    have hi := (List.getElem?_eq_some_iff.mp h).1
    rw [length_blocks hf]
    exact Nat.mul_le_mul_left k hi.le
  rw [← List.drop_drop, hd, List.drop_left' hj, List.drop_append_of_le_length hle, hrest, List.append_assoc]

/-! ### READ QUEUE -/

theorem feederBytes_length (s : State) (f : Feeder) : (s.feederBytes f).length = 3 := by cases f <;> rfl

theorem entryBytes_length (e : Entry) : e.bytes.length = 11 := rfl

/-- READ QUEUE's answer in its parts (R132). -/
theorem queueAnswer_eq (s : State) : s.queueAnswer
    = [byte s.queue.length, byte s.startingSum, byte s.inrushLimit, byte s.settleTime]
      ++ (s.feeders.toList.flatMap s.feederBytes ++ s.queue.flatMap Entry.bytes) := by
  simp [State.queueAnswer]

theorem queueAnswer_length (s : State) : s.queueAnswer.length = 28 + 11 * s.queue.length := by
  rw [queueAnswer_eq, List.length_append, List.length_append, length_blocks (feederBytes_length s), length_blocks entryBytes_length]
  simp
  omega

theorem queueAnswer_feeder (s : State) (f : Fin 8) : (s.queueAnswer.drop (4 + 3 * f.val)).take 3 = s.feederBytes s.feeders[f] := by
  have hf : s.feeders.toList[f.val]? = some s.feeders[f] := by simp
  obtain ⟨rest, h⟩ := drop_blocks (feederBytes_length s) hf (queueAnswer_eq s) (j := 4) rfl
  exact take_part h (feederBytes_length s _)

theorem queueAnswer_entry {e : Entry} (h : s.queue[i]? = some e) : (s.queueAnswer.drop (28 + 11 * i)).take 11 = e.bytes := by
  have hd : s.queueAnswer = ([byte s.queue.length, byte s.startingSum, byte s.inrushLimit, byte s.settleTime]
      ++ s.feeders.toList.flatMap s.feederBytes) ++ (s.queue.flatMap Entry.bytes ++ []) := by
    rw [queueAnswer_eq, List.append_nil, List.append_assoc]
  obtain ⟨rest, h⟩ := drop_blocks entryBytes_length h hd (j := 28) (by
    rw [List.length_append, length_blocks (feederBytes_length s)]; simp)
  exact take_part h (entryBytes_length e)

/-! ### READ CLOCK -/

theorem timeBytes_length (s : State) : s.timeBytes.length = 8 := by
  unfold State.timeBytes
  split <;> rfl

theorem timeBytes_unset (h : s.clock = none) : s.timeBytes = [0, 0, 0, 0, 0, 255, 255, 255] := by rw [State.timeBytes, h]

/-- R92: the plant time and the day types of a set clock, as it stands. -/
theorem timeBytes_set (h : s.clock = some c) : s.timeBytes = [1, byte c.day.val, byte (c.minute / 256), byte c.minute, byte c.second,
    byte (s.todayOverride.getD s.dayMap[c.day]).code, (match s.todayOverride with
      | some o => byte o.code
      | none => 255), byte s.yesterday.code] := by
  have ht : s.todayType = some (s.todayOverride.getD s.dayMap[c.day]) := by simp [State.todayType, h]
  unfold State.timeBytes
  rw [h, ht]
  cases s.todayOverride <;> rfl

/-- A clock that is UNSET, or whose second has not reached 60, is read as it stands. -/
theorem carried_still (h : ∀ c, s.clock = some c → c.second < 60) : s.carried = s := by
  unfold State.carried
  cases hc : s.clock with
  | none => simp [State.carriesDue, hc, State.carriedBy]
  | some c => simp [carriesDue_eq hc, Nat.div_eq_of_lt (h c hc), State.carriedBy]

/-- A second that stands at 60 is read with its carry taken (log entry 7). -/
theorem carried_once (h : s.clock = some c) (h1 : 60 ≤ c.second) (h2 : c.second < 120) : s.carried = s.carry c := by
  have hdue : s.carriesDue = 1 := by rw [carriesDue_eq h]; omega
  simp [State.carried, hdue, State.carriedBy, h]

theorem timeBytes_newMinute (h : s.clock = some c) (h1 : 60 ≤ c.second) (h2 : c.second < 120) (hm : c.minute < 1439) :
    s.carried.timeBytes = [1, byte c.day.val, byte ((c.minute + 1) / 256), byte (c.minute + 1), byte (c.second - 60),
      byte (s.todayOverride.getD s.dayMap[c.day]).code, (match s.todayOverride with
        | some o => byte o.code
        | none => 255), byte s.yesterday.code] := by
  rw [carried_once h h1 h2, State.carry, if_pos hm]
  exact timeBytes_set (s := { s with clock := some c.nextMinute }) rfl

theorem timeBytes_midnight (h : s.clock = some c) (h1 : 60 ≤ c.second) (h2 : c.second < 120) (hm : 1439 ≤ c.minute) :
    s.carried.timeBytes = [1, byte (c.day + 1 : Fin 7).val, 0, 0, byte (c.second - 60), byte (s.dayMap[(c.day + 1 : Fin 7)]).code, 255,
      byte (s.todayOverride.getD s.dayMap[c.day]).code] := by
  have ht : s.todayType = some (s.todayOverride.getD s.dayMap[c.day]) := by simp [State.todayType, h]
  rw [carried_once h h1 h2, State.carry, if_neg (Nat.not_lt.mpr hm), timeBytes_set (s := s.atMidnight c) (c := c.nextDay) rfl]
  simp only [State.atMidnight, ht]
  simp [PlantClock.nextDay, byte]

theorem clockAnswer_parts (s : State) : s.clockAnswer.length = 19 ∧ s.clockAnswer.take 8 = s.carried.timeBytes
    ∧ (∀ k : Fin 7, s.clockAnswer[8 + k.val]? = some (byte s.dayMap[k].code)) ∧ s.clockAnswer.drop 15 = be32 s.timeBase := by
  have heq : s.clockAnswer = s.carried.timeBytes ++ (s.dayMap.toList.map (fun t => byte t.code) ++ be32 s.timeBase) := by
    simp [State.clockAnswer]
  have hlen := timeBytes_length s.carried
  have h8 := drop_part (d := s.clockAnswer) (i := 0) heq hlen
  refine ⟨?_, take_part heq hlen, fun k => ?_, drop_part h8 (k := 7) (by simp)⟩
  · rw [heq, List.length_append, hlen]
    simp [be32]
  · rw [← List.getElem?_drop, show s.clockAnswer.drop 8 = _ from h8, List.getElem?_append_left (by simp)]
    simp

/-! ### READ AUTHORITY -/

theorem foldr_max_cases (l : List Nat) : l.foldr max 0 = 0 ∨ l.foldr max 0 ∈ l := by
  induction l with
  | nil => exact .inl rfl
  | cons x l ih =>
    rw [List.foldr_cons]
    rcases max_choice x (l.foldr max 0) with h | h <;> rw [h]
    · exact .inr List.mem_cons_self
    · exact ih.imp_right (List.mem_cons_of_mem x)

theorem foldr_max_eq {l : List Nat} {m : Nat} (h : ∀ x ∈ l, x ≤ m) (hm : m = 0 ∨ m ∈ l) : l.foldr max 0 = m := by
  refine le_antisymm (List.max_le_of_forall_le l m h) ?_
  rcases hm with rfl | hm
  · exact Nat.zero_le _
  · exact List.le_max_of_le hm le_rfl

/-- A covering window as READ AUTHORITY lists it, of today or a tail of yesterday. -/
def State.cover (s : State) (tail : Bool) (e : DayType × Nat) : Cover :=
  { type := e.1, number := e.2, tail := tail, authority := (s.window e.1 e.2).authority }

/-- R97, R166: the windows of type `t` that cover minute `m` of today, by number. -/
def State.coveringToday (s : State) (t : DayType) (m : Nat) : List (DayType × Nat) :=
  ((List.range 6).map (fun w => (t, w))).filter (fun e => (s.window e.1 e.2).authority ≠ 0 ∧ (s.window e.1 e.2).start ≤ m
    ∧ (m < (s.window e.1 e.2).stop ∨ (s.window e.1 e.2).stop ≤ (s.window e.1 e.2).start))

/-- R97, R166: the windows of type `t` whose tails cover minute `m` of the day after, by number. -/
def State.coveringTails (s : State) (t : DayType) (m : Nat) : List (DayType × Nat) :=
  ((List.range 6).map (fun w => (t, w))).filter (fun e => (s.window e.1 e.2).authority ≠ 0
    ∧ (s.window e.1 e.2).stop ≤ (s.window e.1 e.2).start ∧ m < (s.window e.1 e.2).stop)

theorem covering_eq (h : s.clock = some c) : s.covering
    = (s.coveringToday (s.todayOverride.getD s.dayMap[c.day]) c.minute).map (s.cover false)
      ++ (s.coveringTails s.yesterday c.minute).map (s.cover true) := by
  have ht : s.todayType = some (s.todayOverride.getD s.dayMap[c.day]) := by simp [State.todayType, h]
  unfold State.covering State.coveringToday State.coveringTails
  rw [h, ht, List.filter_map, List.filter_map, List.map_map, List.map_map]
  refine congrArg₂ (· ++ ·) (congrArg (List.map _) (List.filter_congr (fun w _ => ?_)))
    (congrArg (List.map _) (List.filter_congr (fun w _ => ?_)))
  · rw [Bool.eq_iff_iff]
    simp [Window.coversToday, and_assoc, or_comm]
  · rw [Bool.eq_iff_iff]
    simp [Window.coversTail, and_assoc]

theorem covering_unset (h : s.clock = none) : s.covering = [] := by simp [State.covering, h]

theorem cover_bytes (s : State) (e : DayType × Nat) :
    (s.cover false e).bytes = [byte e.1.code, byte e.2] ∧ (s.cover true e).bytes = [byte (e.1.code + 128), byte e.2] := ⟨rfl, rfl⟩

/-- R166: the seconds that the last running guard has left, from the plans. -/
theorem guardSeconds_eq (hc : Table.Canonical 4 s.plans) {guard : Nat}
    (hle : ∀ p x e, s.plan p = some x → x.guardEnd = some e → e - s.timeBase ≤ guard)
    (hex : guard = 0 ∨ ∃ p x e, s.plan p = some x ∧ x.guardEnd = some e ∧ e - s.timeBase = guard) : s.guardSeconds = guard := by
  unfold State.guardSeconds
  refine foldr_max_eq (fun k hk => ?_) (hex.imp_right (fun ⟨p, x, e, hx, he, hg⟩ => ?_))
  · obtain ⟨e, he, rfl⟩ := List.mem_map.mp hk
    cases hend : e.2.guardEnd with
    | none => exact Nat.zero_le _
    | some t => exact hle e.1 e.2 t (Table.find_of_mem hc he) hend
  · exact List.mem_map.mpr ⟨(p, x), Table.mem_of_find hx, by simp [he, hg]⟩

/-- What READ AUTHORITY answers of the covering windows (R97, R166). -/
theorem windowAuthority_of {today tails : List (DayType × Nat)} (h : s.covering = today.map (s.cover false) ++ tails.map (s.cover true)) :
    (∀ e ∈ today ++ tails, (s.window e.1 e.2).authority ≤ s.windowAuthority)
      ∧ (s.windowAuthority = 0 ∨ ∃ e ∈ today ++ tails, (s.window e.1 e.2).authority = s.windowAuthority)
      ∧ s.covering.length = (today ++ tails).length
      ∧ s.covering.flatMap Cover.bytes = today.flatMap (fun e => [byte e.1.code, byte e.2])
        ++ tails.flatMap (fun e => [byte (e.1.code + 128), byte e.2]) := by
  have hlist : s.covering.map (·.authority) = (today ++ tails).map (fun e => (s.window e.1 e.2).authority) := by
    rw [h, List.map_append, List.map_append, List.map_map, List.map_map]
    rfl
  unfold State.windowAuthority
  refine ⟨fun e he => ?_, ?_, by simp [h], ?_⟩
  · rw [hlist]
    exact List.le_max_of_le (List.mem_map_of_mem he) le_rfl
  · rw [hlist]
    exact (foldr_max_cases _).imp_right List.mem_map.mp
  · rw [h, List.flatMap_append, List.flatMap_map, List.flatMap_map]
    rfl

theorem authorityAnswer_source (hc : Table.Canonical 4 s.plans) :
    (s.clock = none → s.authoritySource = 0)
      ∧ (s.clock ≠ none → (∃ p x, s.plan p = some x ∧ x.guardEnd ≠ none) → s.authoritySource = 1)
      ∧ (s.clock ≠ none → (∀ p x, s.plan p = some x → x.guardEnd = none) → s.authoritySource = 2) := by
  unfold State.authoritySource
  refine ⟨fun h => if_pos h, fun h ⟨p, x, hx, hg⟩ => ?_, fun h hno => ?_⟩
  · rw [if_neg h, if_pos ((guarded_iff hc).mpr ⟨p, x, hx, Option.isSome_iff_ne_none.mpr hg⟩)]
  · rw [if_neg h, if_neg]
    rw [guarded_iff hc]
    rintro ⟨p, x, hx, hg⟩
    exact Option.isSome_iff_ne_none.mp hg (hno p x hx)

end Sys2Proof.Machine
end

section
/-! SUPPORT. The answers of the commands that read, field by field: READ HOLDS, READ GROUP, READ WAKE PLAN and READ LINE
(R85, R119, R142, R155, R174). -/

namespace Sys2Proof.Machine

variable {s : State} {i j k n g : Nat} {r : LoadRecord} {x : Group}

/-! ### READ HOLDS -/

theorem holdBytes_length (e : Nat × PortHold) : (e.2.bytes e.1).length = 8 := by
  unfold PortHold.bytes
  rw [List.length_append, List.length_append, stampBytes_length]
  cases e.2.sense <;> rfl

/-- READ HOLDS' answer in its parts (R85, R174). -/
theorem holdsAnswer_eq (s : State) (n : Nat) (r : LoadRecord) : s.holdsAnswer n r = [byte (s.holdsOn n).length]
    ++ ((s.holdsOn n).flatMap (fun e => e.2.bytes e.1) ++ [byte (r.buttonHold.getD 0), flagByte r.isolatorHold]) := by
  simp [State.holdsAnswer]

theorem holdsAnswer_length (s : State) (n : Nat) (r : LoadRecord) : (s.holdsAnswer n r).length = 3 + 8 * (s.holdsOn n).length := by
  rw [holdsAnswer_eq, List.length_append, List.length_append, length_blocks holdBytes_length]
  simp
  omega

theorem holdsAnswer_tail (s : State) (n : Nat) (r : LoadRecord) :
    (s.holdsAnswer n r).drop (1 + 8 * (s.holdsOn n).length) = [byte (r.buttonHold.getD 0), flagByte r.isolatorHold] :=
  drop_part (d := s.holdsAnswer n r) (i := 1) (by rw [holdsAnswer_eq]; rfl) (length_blocks holdBytes_length _)

/-- The fields of one hold where the answer lists it (R174). -/
theorem holdsAnswer_hold {h : PortHold} (he : (s.holdsOn n)[i]? = some (k, h)) :
    (s.holdsAnswer n r)[1 + 8 * i]? = some (byte k)
      ∧ (∀ l, h.sense = .keepRun l → ((s.holdsAnswer n r).drop (2 + 8 * i)).take 2 = [0, byte l])
      ∧ (h.sense = .keepOff → ((s.holdsAnswer n r).drop (2 + 8 * i)).take 2 = [1, 0])
      ∧ ((s.holdsAnswer n r).drop (4 + 8 * i)).take 2 = be16 (h.remaining.getD 0)
      ∧ ((s.holdsAnswer n r).drop (6 + 8 * i)).take 3 = stampBytes h.placedAt := by
  obtain ⟨rest, hd⟩ := drop_blocks holdBytes_length he (holdsAnswer_eq s n r) (j := 1) rfl
  generalize s.holdsAnswer n r = d at hd ⊢
  have at' : ∀ j, d.drop (1 + j + 8 * i) = (h.bytes k ++ rest).drop j := fun j => by
    rw [← hd, List.drop_drop]
    congr 1
    omega
  have hstamp : ∀ rest : List Byte, (stampBytes h.placedAt ++ rest).take 3 = stampBytes h.placedAt := fun rest =>
    List.take_left' (stampBytes_length _)
  have hfirst : d[1 + 8 * i]? = (h.bytes k ++ rest)[0]? := by rw [← hd, List.getElem?_drop]; rfl
  rw [hfirst, show 2 + 8 * i = 1 + 1 + 8 * i from rfl, show 4 + 8 * i = 1 + 3 + 8 * i from rfl, show 6 + 8 * i = 1 + 5 + 8 * i from rfl,
    at' 1, at' 3, at' 5]
  unfold PortHold.bytes
  cases h.sense with
  | keepRun l =>
    refine ⟨rfl, fun l' hl => ?_, fun hl => by simp at hl, rfl, ?_⟩
    · cases hl
      rfl
    · exact hstamp rest
  | keepOff => exact ⟨rfl, fun l hl => by simp at hl, fun _ => rfl, rfl, hstamp rest⟩

/-! ### READ GROUP -/

theorem placeProvider_perm (p : Provider) (l : List Provider) : (placeProvider p l).Perm (p :: l) := by
  induction l with
  | nil => exact .refl _
  | cons y l ih =>
    unfold placeProvider
    split
    · exact .refl _
    · exact (ih.cons y).trans (.swap p y l)

theorem placeProvider_rising (p : Provider) {l : List Provider} (h : l.Pairwise (fun a b => a.rank ≤ b.rank)) :
    (placeProvider p l).Pairwise (fun a b => a.rank ≤ b.rank) := by
  induction l with
  | nil => exact List.pairwise_singleton _ _
  | cons y l ih =>
    obtain ⟨hy, hl⟩ := List.pairwise_cons.mp h
    unfold placeProvider
    split
    · rename_i hlt
      refine List.pairwise_cons.mpr ⟨fun z hz => ?_, h⟩
      rcases List.mem_cons.mp hz with rfl | hz
      · exact hlt.le
      · exact hlt.le.trans (hy z hz)
    · rename_i hlt
      refine List.pairwise_cons.mpr ⟨fun z hz => ?_, ih hl⟩
      rcases List.mem_cons.mp ((placeProvider_perm p l).mem_iff.mp hz) with rfl | hz
      · exact Nat.le_of_not_lt hlt
      · exact hy z hz

theorem providers_perm (s : State) (g : Nat) : (s.providers g).Perm (s.providersByLoad g) := by
  unfold State.providers
  induction s.providersByLoad g with
  | nil => exact .refl _
  | cons p l ih => exact (placeProvider_perm _ _).trans (ih.cons p)

theorem providers_rising (s : State) (g : Nat) : (s.providers g).Pairwise (fun a b => a.rank ≤ b.rank) := by
  unfold State.providers
  induction s.providersByLoad g with
  | nil => exact .nil
  | cons p l ih => exact placeProvider_rising p ih

/-- A load stands once in a provider list. -/
theorem providers_nodup (hc : Table.Canonical 240 s.loads) (g : Nat) : ((s.providers g).map (·.load)).Nodup := by
  refine ((providers_perm s g).map _).nodup_iff.mpr ?_
  have hlt : (s.providersByLoad g).Pairwise (fun a b => a.load < b.load) := by
    refine (List.pairwise_map.mp hc.1).filterMap _ (fun a b hab p hp q hq => ?_)
    obtain ⟨-, -, rfl⟩ := Option.map_eq_some_iff.mp hp
    obtain ⟨-, -, rfl⟩ := Option.map_eq_some_iff.mp hq
    exact hab
  exact List.pairwise_map.mpr (hlt.imp (fun h => Nat.ne_of_lt h))

/-- The line of a provider list that a record makes (R105). -/
def LoadRecord.provider (r : LoadRecord) (n : Nat) (p : Provides) : Provider :=
  { load := n, rank := p.rank, capacity := p.capacity, state := r.state, supplying := r.supplies }

theorem mem_providers (hc : Table.Canonical 240 s.loads) {q : Provider} :
    q ∈ s.providers g ↔ ∃ r p, s.load q.load = some r ∧ r.provides = some p ∧ p.group = g ∧ q = r.provider q.load p := by
  rw [(providers_perm s g).mem_iff]
  constructor
  · intro h
    obtain ⟨e, he, hq⟩ := List.mem_filterMap.mp h
    simp only [LoadRecord.providesTo, Option.map_eq_some_iff, Option.filter_eq_some_iff] at hq
    obtain ⟨p, ⟨hp, hg⟩, rfl⟩ := hq
    exact ⟨e.2, p, Table.find_of_mem hc he, hp, by simpa using hg, rfl⟩
  · rintro ⟨r, p, hl, hp, rfl, hq⟩
    rw [hq]
    exact mem_providersByLoad_of_load hl hp

/-- A provider of group `g` by its load and its link. -/
def Provider.link (g : Nat) (q : Provider) : Nat × Provides := (q.load, { group := g, rank := q.rank, capacity := q.capacity })

/-- R105: the providers of a group are the live records whose provides link names it. -/
theorem mem_providerLinks (hc : Table.Canonical 240 s.loads) {p : Provides} :
    (n, p) ∈ (s.providers g).map (Provider.link g) ↔ ∃ r, s.load n = some r ∧ r.provides = some p ∧ p.group = g := by
  rw [List.mem_map]
  constructor
  · rintro ⟨q, hq, he⟩
    obtain ⟨r, p', hl, hp, hg, hqr⟩ := (mem_providers hc).mp hq
    obtain ⟨rfl, rfl⟩ := Prod.mk.inj he
    refine ⟨r, hl, ?_, rfl⟩
    rw [hp, hqr, ← hg]
    rfl
  · rintro ⟨r, hl, hp, rfl⟩
    exact ⟨r.provider n p, (mem_providers hc).mpr ⟨r, p, hl, hp, rfl, rfl⟩, rfl⟩

theorem demandOn_isSome (r : LoadRecord) (g : Nat) : (r.demandOn g).isSome = (r.drawsA.any (·.group == g) || r.drawsB.any (·.group == g)) := by
  unfold LoadRecord.demandOn
  cases ha : r.drawsA with
  | none => cases hb : r.drawsB <;> simp [Option.isSome_filter]
  | some a =>
    by_cases hg : a.group = g
    · simp [Option.filter, hg]
    · have ha' : (a.group == g) = false := by simpa using hg
      cases hb : r.drawsB <;> simp [Option.filter, ha']
      split <;> simp_all

/-- R119: the number of consumers of a group, and of those that are QUEUED. -/
theorem consumers_count (s : State) (g : Nat) :
    (s.consumers g).length = (s.loads.filter (fun e => e.2.drawsA.any (·.group == g) || e.2.drawsB.any (·.group == g))).length
      ∧ ((s.consumers g).filter (fun c => c.state == .queued)).length = (s.loads.filter (fun e => e.2.state == .queued
          && (e.2.drawsA.any (·.group == g) || e.2.drawsB.any (·.group == g)))).length := by
  unfold State.consumers
  induction s.loads with
  | nil => exact ⟨rfl, rfl⟩
  | cons e l ih =>
    obtain ⟨ih1, ih2⟩ := ih
    have hd := demandOn_isSome e.2 g
    cases hdem : e.2.demandOn g with
    | none =>
      rw [hdem] at hd
      simp only [List.filterMap_cons, hdem, Option.map_none, List.filter_cons, ← hd, Option.isSome_none, Bool.and_false]
      exact ⟨ih1, ih2⟩
    | some d =>
      rw [hdem] at hd
      simp only [List.filterMap_cons, hdem, Option.map_some, List.filter_cons, ← hd, Option.isSome_some, Bool.and_true, if_true,
        List.length_cons, ih1, true_and]
      split <;> simp [ih2]

theorem providerBytes_length (x : Group) (q : Provider) : (Provider.bytes x q).length = 6 := rfl

/-- R119, R174: the fixed fields of READ GROUP. -/
def State.groupHead (s : State) (g : Nat) (x : Group) : List Byte :=
  [byte x.margin, x.state.code, x.state.raisedByte] ++ be16 (s.demand g) ++ be16 (s.capacity g) ++ be32 (s.required g)
    ++ [byte (s.consumers g).length, byte ((s.consumers g).filter (fun c => c.state == .queued)).length, byte (s.providers g).length]

theorem groupAnswer_eq (s : State) (g : Nat) (x : Group) :
    s.groupAnswer g x = s.groupHead g x ++ ((s.providers g).flatMap (Provider.bytes x) ++ []) := by
  rw [List.append_nil]
  rfl

theorem groupAnswer_length (s : State) (g : Nat) (x : Group) : (s.groupAnswer g x).length = 14 + 6 * (s.providers g).length := by
  rw [groupAnswer_eq, List.append_nil, List.length_append, length_blocks (providerBytes_length x)]
  rfl

/-- The bytes of one provider where the answer lists it (R174). -/
theorem groupAnswer_provider (hc : Table.Canonical 240 s.loads) {p : Provides} (h : ((s.providers g).map (Provider.link g))[i]? = some (n, p))
    (hl : s.load n = some r) : ((s.groupAnswer g x).drop (14 + 6 * i)).take 6 = [byte n, byte p.rank, byte p.capacity, r.state.code,
      if r.supplies = true then 1 else 0, if n ∈ x.failed then 1 else 0] := by
  rw [List.getElem?_map, Option.map_eq_some_iff] at h
  obtain ⟨q, hq, he⟩ := h
  obtain ⟨rfl, rfl⟩ := Prod.mk.inj he
  obtain ⟨r', p', hl', -, -, hqr⟩ := (mem_providers hc).mp (List.mem_of_getElem? hq)
  obtain rfl := Option.some.inj (hl.symm.trans hl')
  obtain ⟨rest, hd⟩ := drop_blocks (providerBytes_length x) hq (groupAnswer_eq s g x) (j := 14) rfl
  rw [take_part hd (providerBytes_length x q)]
  have hs : q.state = r.state ∧ q.supplying = r.supplies := by rw [hqr]; exact ⟨rfl, rfl⟩
  simp [Provider.bytes, flagByte, hs.1, hs.2]

/-! ### READ WAKE PLAN -/

/-- R142: the number of a plan's members. -/
theorem members_length (s : State) (p : Nat) :
    (s.members p).length = (s.loads.filter (fun e => e.2.membership.any (·.plan == p))).length := by
  unfold State.members
  rw [List.length_filterMap_eq_countP, List.countP_eq_length_filter]
  congr 2
  funext e
  cases hm : e.2.membership <;> simp [Option.isSome_filter]

/-- READ WAKE PLAN's answer of a plan that is set, `left` the seconds of its guard and `after` those to its next slot (R142). -/
theorem planAnswer_set {p left after : Nat} {x : WakePlan} (hx : s.plan p = some x)
    (hleft : x.guardEnd = none ∧ left = 0 ∨ ∃ e, x.guardEnd = some e ∧ left = e - s.timeBase)
    (hafter : x.state ≠ .active ∧ after = 0
      ∨ x.state = .active ∧ after = x.activationSecond.getD 0 + x.cursor * x.spacing - s.timeBase) :
    s.planAnswer p = [x.state.code, x.mask.setWidth 8] ++ be16 x.start ++ be16 x.spacing
      ++ [byte x.bits, byte x.guard, x.activationDay.elim 255 (fun d => byte d.val)] ++ be32 (x.activationSecond.getD 0)
      ++ [byte x.cursor] ++ be16 left ++ [byte (s.members p).length] ++ be24 after := by
  have hnext : (if x.state = .active then x.nextFall - s.timeBase else 0) = after := by
    rcases hafter with ⟨h, rfl⟩ | ⟨h, rfl⟩
    · exact if_neg h
    · exact if_pos h
  unfold State.planAnswer
  rw [hx]
  dsimp only
  rw [hnext]
  rcases hleft with ⟨h, rfl⟩ | ⟨e, h, rfl⟩ <;> rw [h] <;> cases x.activationDay <;> rfl

/-! ### READ LINE -/

theorem add_length {l : NatSet} {m : Nat} (h : m ∉ l) : (NatSet.add l m).length = l.length + 1 := by
  induction l with
  | nil => rfl
  | cons y l ih =>
    simp only [List.mem_cons, not_or] at h
    obtain ⟨hne, hl⟩ := h
    unfold NatSet.add
    split
    · rfl
    · rw [List.length_cons, ih hl, List.length_cons]

/-- R152, R9: where no two records name one drop, the poll ring of a line has an address for each of its records. -/
theorem ring_length (hc : Table.Canonical 240 s.loads) (hd : DropLaw s) (l : Fin 4) :
    (s.ring l).length = (s.loads.filter (fun e => e.2.line == l)).length := by
  have key : ∀ (q : Table LoadRecord) (acc : NatSet), (q.map (fun e => e.2.address)).Nodup → (∀ e ∈ q, e.2.address ∉ acc) →
      (q.foldl (fun l e => NatSet.add l e.2.address) acc).length = acc.length + q.length := by
    intro q
    induction q with
    | nil => intro acc _ _; rfl
    | cons e q ih =>
      intro acc hnd hacc
      obtain ⟨hne, hnd⟩ := List.nodup_cons.mp hnd
      rw [List.foldl_cons, ih _ hnd, add_length (hacc e List.mem_cons_self), List.length_cons]
      · omega
      · intro e' he' hin
        rcases (NatSet.mem_add _ _ _).mp hin with h | h
        · exact hne (List.mem_map.mpr ⟨e', he', h⟩)
        · exact hacc e' (List.mem_cons_of_mem e he') h
  have hnodup : ((s.loads.filter (fun e => e.2.line == l)).map (fun e => e.2.address)).Nodup := by
    refine List.Nodup.map_on (fun a ha b hb hab => ?_) (List.Nodup.filter _ (List.Nodup.of_map Prod.fst (hc.1.imp (fun h => Nat.ne_of_lt h))))
    obtain ⟨ha, hal⟩ := List.mem_filter.mp ha
    obtain ⟨hb, hbl⟩ := List.mem_filter.mp hb
    have hfa := Table.find_of_mem hc ha
    have hfb := Table.find_of_mem hc hb
    have heq : a.1 = b.1 := hd a.1 b.1 a.2 b.2 hfa hfb ((beq_iff_eq.mp hal).trans (beq_iff_eq.mp hbl).symm) hab
    rw [heq, hfb, Option.some.injEq] at hfa
    exact Prod.ext heq hfa.symm
  have h := key _ [] hnodup (fun e _ => List.not_mem_nil)
  rwa [List.length_nil, Nat.zero_add] at h

end Sys2Proof.Machine
end

section
/-! PROPERTY. O27: the statement about the commands that read. -/

namespace Sys2Proof.Machine

variable {s t : State} {params : List Byte} {i j k n g : Nat} {r : LoadRecord} {x : Group} {d : List Byte} {code : Byte}
  {body : List Byte → State → Reply}

/-- A command that reads has been sent and answers with data, the state as it was but for the answer. -/
theorem State.Sent.reads (hs : s.Sent code params) (hc : Canonical s) (hb : body params s = answerWith s d)
    (hcode : commandCodes.contains code = true) (hlen : params.length ≤ 38) : s.runCommand code body = s.respond .done d :=
  runCommand_answered (hs.commandParams hcode hlen) (handoffs_self hc.loads) hb

/-- The providers that READ GROUP lists: each once and in rising rank (R105, R119). -/
theorem providerLinks_listed (hc : Table.Canonical 240 s.loads) (g : Nat) :
    (((s.providers g).map (Provider.link g)).map Prod.fst).Nodup
      ∧ ((s.providers g).map (Provider.link g)).Pairwise (fun a b => a.2.rank ≤ b.2.rank) := by
  refine ⟨?_, List.pairwise_map.mpr (providers_rising s g)⟩
  rw [List.map_map]
  exact providers_nodup hc g

/-- Settles O27: each answer is taken apart by its layout, and no reading command hands anything on. -/
theorem readCommandsAnswer : Obligations.ReadCommandsAnswer := by
  unfold Obligations.ReadCommandsAnswer
  intro s hc
  have answers : ∀ {a b : State}, a = b → (Host.Outcome.next a : Host.Outcome State Fault Refusal) = .next b := congrArg _
  refine ⟨fun hs => ?_, fun hs => ?_, fun hs today tails guard hcover hle hex => ?_,
    fun n hs => ?_, fun g hs => ?_, fun p hs => ?_, fun l hs => ?_⟩
  -- READ QUEUE
  · refine ⟨_, answers (hs.reads (body := readQueue) hc rfl rfl (by simp)), queueAnswer_length s, rfl, fun f => ?_, fun i e he => ?_⟩
    · rw [queueAnswer_feeder]
      cases s.feeders[f] <;> rfl
    · rw [queueAnswer_entry he]
      obtain ⟨load, cls, sequence, reason, at'⟩ := e
      cases cls <;> cases reason <;> rfl
  -- READ CLOCK
  · obtain ⟨hlen, htake, hmap, hbase⟩ := clockAnswer_parts s
    refine ⟨_, answers (hs.reads (body := readClock) hc rfl rfl (by simp)), hlen, fun h => ?_, fun c h h1 => ?_, fun c h h1 h2 hm => ?_,
      fun c h h1 h2 hm => ?_, hmap, hbase⟩
    · exact htake.trans ((congrArg State.timeBytes (carried_still (by simp [h]))).trans (timeBytes_unset h))
    · have hstill : s.carried = s := carried_still (fun c' h' => by rw [h] at h'; cases h'; exact h1)
      exact htake.trans ((congrArg State.timeBytes hstill).trans (timeBytes_set h))
    · exact htake.trans (timeBytes_newMinute h h1 h2 hm)
    · exact htake.trans (timeBytes_midnight h h1 h2 hm)
  -- READ AUTHORITY
  · have hcov : s.covering = today.map (s.cover false) ++ tails.map (s.cover true) := by
      rcases hcover with ⟨h, rfl, rfl⟩ | ⟨c, h, rfl, rfl⟩
      · exact covering_unset h
      · exact covering_eq h
    obtain ⟨hall, hone, hcount, hbytes⟩ := windowAuthority_of hcov
    obtain ⟨h0, h1, h2⟩ := authorityAnswer_source hc.plans
    refine ⟨_, s.windowAuthority, answers (hs.reads (body := readAuthority) hc rfl rfl (by simp)), hall, hone, fun h => ?_, fun h hg => ?_,
      fun h hg => ?_, rfl, ?_⟩
    · exact congrArg some (h0 h)
    · exact congrArg some (h1 h hg)
    · exact congrArg some (h2 h hg)
    · rw [← guardSeconds_eq hc.plans hle hex, ← hcount, List.append_assoc, ← hbytes]
      rfl
  -- READ HOLDS
  · have hp := hs.commandParams (by decide) (by simp)
    refine ⟨fun hn => answers (runCommand_refused hp hc (onLoad_bad hn)), fun hn hl => answers (runCommand_refused hp hc (onLoad_vacant hn hl)),
      fun r hn hl on hon => ?_⟩
    subst hon
    refine ⟨s.holdsAnswer n.toNat r, answers (hs.reads hc (onLoad_live hn hl) rfl (by simp)), holdsAnswer_length s n.toNat r, rfl,
      fun i k h hi => ?_, holdsAnswer_tail s n.toNat r⟩
    obtain ⟨hk, hrun, hoff, hmin, hplaced⟩ := holdsAnswer_hold (r := r) hi
    exact ⟨hk, hrun, hoff, hmin, fun h => hplaced.trans (by rw [h]; rfl), fun x h => hplaced.trans (by rw [h]; rfl)⟩
  -- READ GROUP
  · have hp := hs.commandParams (by decide) (by simp)
    refine ⟨fun hg => answers (runCommand_refused hp hc (by simp [readGroup, hg])),
      fun hg hx => answers (runCommand_refused hp hc (by simp [readGroup, Nat.not_lt.mpr hg, hx])), fun x hg hx => ?_⟩
    obtain ⟨hnodup, hrising⟩ := providerLinks_listed hc.loads g.toNat
    obtain ⟨hcons, hqueued⟩ := consumers_count s g.toNat
    have raised : ((s.groupAnswer g.toNat x).drop 1).take 2 = [x.state.code, x.state.raisedByte] := rfl
    refine ⟨s.groupAnswer g.toNat x, (s.providers g.toNat).map (Provider.link g.toNat),
      answers (hs.reads hc (by simp [readGroup, Nat.not_lt.mpr hg, hx]) rfl (by simp)),
      fun n p => mem_providerLinks hc.loads, hnodup, hrising, ?_, rfl, fun h => raised.trans (by rw [h]; rfl),
      fun p h => raised.trans (by rw [h]; rfl), fun h => raised.trans (by rw [h]; rfl), rfl, ?_,
      fun i n p r hi hl => groupAnswer_provider hc.loads hi hl⟩
    · rw [groupAnswer_length, List.length_map]
    · rw [← hcons, ← hqueued, List.length_map]
      rfl
  -- READ WAKE PLAN
  · have hp := hs.commandParams (by decide) (by simp)
    refine ⟨fun hn => answers (runCommand_refused hp hc (by simp [readWakePlan, hn])), fun hn members hm => ?_⟩
    have hexec : exec .readWakePlan s = .next (s.respond .done (s.planAnswer p.toNat)) :=
      answers (hs.reads hc (by simp [readWakePlan, Nat.not_lt.mpr hn]) rfl (by simp))
    rw [hexec, hm, ← members_length]
    refine ⟨fun hx => ?_, fun x left after hx hleft hafter => ?_⟩
    · rw [State.planAnswer, hx]
      rfl
    · rw [planAnswer_set hx hleft hafter]
      cases x.state <;> cases x.activationDay <;> rfl
  -- READ LINE
  · have hp := hs.commandParams (by decide) (by simp)
    refine ⟨fun hl => answers (runCommand_refused hp hc (by simp [readLine, hl])), fun k x hk hx hd => ?_⟩
    have hlk : lineOf l = k := Fin.ext ((lineOf_val (hk ▸ Nat.le_of_lt_succ k.isLt)).trans hk.symm)
    have hb : readLine [l] s = answerWith (s.setLine k x.cleared) (s.lineAnswer k) := by
      simp only [readLine, if_neg (Nat.not_lt.mpr (hk ▸ Nat.le_of_lt_succ k.isLt)), hlk, hx]
    refine answers ((runCommand_answered (t := s.setLine k x.cleared) hp (handoffs_elsewhere hc.loads rfl rfl rfl rfl rfl rfl) hb).trans ?_)
    rw [← ring_length hc.loads hd, hx]
    rfl

end Sys2Proof.Machine
end
